-- ==== Sys2Proof/Word.lean ====
section
/-! DEFINITION. Words and their plainest arithmetic: bytes, registers names, signed readings (00_scope R2). -/

namespace Sys2Proof

/-- One byte. -/
abbrev Byte := BitVec 8
/-- A 64-bit value: a CSR, a tagged pointer, an argument word. -/
abbrev Word64 := BitVec 64
/-- A tile number T0 to T15 (R295). -/
abbrev TReg := BitVec 4
/-- A mask number M0 to M3 (R295). -/
abbrev MReg := BitVec 2
/-- The 64 B storage of a tile, byte i in bits 8i+7:8i (R115, R117). -/
abbrev Storage := BitVec 512
/-- A physical core id, chiplet.cluster.core (R4). -/
abbrev CoreId := BitVec 20
/-- A cluster of the part, chiplet.cluster (R4). -/
abbrev ClusterId := BitVec 12
/-- A job id; 0 is the management job, whose contexts are firmware's (R74, R61). -/
abbrev JobId := BitVec 16
/-- A part number (R9). -/
abbrev PartId := BitVec 16

/-- Bits hi:lo of a number (R2). -/
def bitsOf (x hi lo : Nat) : Nat := (x >>> lo) % 2 ^ (hi + 1 - lo)

/-- The two's complement reading of the low n bits of x. -/
def signedOf (n x : Nat) : Int :=
  let y := x % 2 ^ n
  if 2 * y < 2 ^ n then (y : Int) else (y : Int) - 2 ^ n

/-- An integer taken modulo 2^n. -/
def wrapTo (n : Nat) (x : Int) : Nat := (x % (2 ^ n : Int)).toNat

end Sys2Proof
end

