-- ==== Sys2Proof/Config.lean ====
section
/-! DEFINITION. What an implementation fixes and the free values: constants with no body, of which nothing can be
proved, and the figures the spec states (log 7, log 16, log 20, log 23). -/

namespace Sys2Proof.Config

/-- Free value n (log 7): key material and random choices, one fresh value for each n. -/
opaque freeBytes : Nat → List Byte
/-- Is the signature good for this public key and this digest? (ML-DSA-65, R27, R30, R45; log 7) -/
opaque mlDsaVerify : List Byte → List Byte → List Byte → Bool
/-- The signature of a digest by the device identity key (ML-DSA-65, R26, R29; log 7). -/
opaque mlDsaSign : List Byte → List Byte
/-- Ciphertext and shared secret for an encapsulation key and the n-th free value (ML-KEM-768, R45, R60; log 7). -/
opaque mlKemEncaps : List Byte → Nat → List Byte × List Byte
/-- The shared secret that the n-th freshly generated key pair decapsulates from a ciphertext (R45; log 7). -/
opaque mlKemDecaps : Nat → List Byte → List Byte
/-- The n-th freshly generated encapsulation key (R45; log 7). -/
opaque mlKemKey : Nat → List Byte
/-- The device identity public key, 1,952 B, generated inside the root of trust (R26; log 7). -/
opaque identityKey : List Byte
/-- The SHAKE256 digest of Brerun's firmware verification public key (R26; log 7). -/
opaque firmwareKeyDigest : List Byte
/-- What an image slot's bytes hold, whose places in an image the spec does not give (R27; log 7): the public key, the
header and body that are signed, the signature, and the version in that header. -/
opaque imageKey : List (Nat × BitVec 8) → List Byte
/-- Header and body of the image in a slot (R27; log 7). -/
opaque imageSigned : List (Nat × BitVec 8) → List Byte
/-- The signature of the image in a slot (R27; log 7). -/
opaque imageSignature : List (Nat × BitVec 8) → List Byte
/-- The version that a signed header states (R27; log 7). -/
opaque imageVersion : List Byte → BitVec 32
/-- Bank and row of a 64 B line within its pseudo-channel (R12; log 37). -/
opaque hbmPlace : Nat → Nat × Nat
/-- Activations of a bank, less one, at which a stack asks for refresh management (R12; log 37). -/
opaque rfmThreshold : BitVec 4 → Nat
/-- Cycles between two refreshes of a bank at or below 85 °C (R12; log 37). -/
opaque refreshInterval : Nat
/-- The scan chains of a cluster at a capture, by stepping: id, length in bits, the bits (R71; log 20). -/
opaque scanChains : Nat → List (BitVec 32 × BitVec 32 × List (BitVec 8))

/-- A byte of the pair save area of a context image (R413), in a layout that only the device reads: by the handlers of the pair with their instruction counts
at the checkpoint, and the byte's place (log 23). -/
opaque pairSave : List Nat → Nat → BitVec 8

/-- Device registers of which the spec gives fields: power status (R20), status of a port (R48), health of a cluster (R287), a key register of
a port (R44), the link header of the packet that a port captured (R38). -/
inductive Reg where
  | power
  | port (p : Nat)
  | health (cluster : Nat)
  | key (p n : Nat)
  | captured (p : Nat)
deriving DecidableEq, Repr
/-- The physical address of a register, which the spec does not give (R143; log 20). -/
opaque regAddr : Reg → Nat

/-- The n-th value that the spec states an effect with and gives no value for (log 23). -/
opaque freeWord : Nat → BitVec 64

/-- The core at whose router edge gateway n meets the mesh (log 16). -/
opaque gatewayCore : Nat → BitVec 20

/-- The mode of a virtual channel on links within the enclosure: 0 clear, 1 integrity-only, 2 full (R43; log 16). -/
opaque enclosureMode : Nat → BitVec 2

/-- Buffers of a channel at a port, beyond the first (R36; log 44). -/
opaque linkBuffers : Nat → Nat
/-- The part that firmware names as the Thyme reference, from the numbers of the domain key table (R52; log 3). -/
opaque thymeReference : List (BitVec 16) → BitVec 16
/-- Has a job a region on a part, as firmware knows it (R47; log 45)? -/
opaque holdsRegion : BitVec 16 → BitVec 16 → Bool

/-- Cycles of a trap allowance (R235). -/
def trapAllowance : Nat := 65536
/-- Default budget of a handler (R98, R70). -/
def defaultBudget : Nat := 65536
/-- Largest budget (R98). -/
def maxBudget : Nat := 2 ^ 24
/-- Entries of a core's inbound queue (R90). -/
def queueEntries : Nat := 16
/-- Whole messages in an NI output buffer (R389). -/
def outBuffer : Nat := 8
/-- Messages in a core's timed store (R392). -/
def timedStore : Nat := 16
/-- Entries of the island queue (R178). -/
def islandQueue : Nat := 16
/-- Places of the copy engine (R181). -/
def copyPlaces : Nat := 16
/-- Tiles in a stream queue and open streams of a context (R160, R154). -/
def streamQueue : Nat := 8
/-- Reply credits of a context (R393). -/
def replyCredits : Nat := 256
/-- Tokens of a Sorrel's window (R169). -/
def sorrelTokens : Nat := 64
/-- First physical address of the device registers (R143). -/
def deviceBase : Nat := 0xC000000000
/-- First physical address of the ASID table (R139; log 9). -/
def asidTable : Nat := 0xBFFFFF0000
/-- First physical address of the commit words, 16 B for each job id (R282; log 9). -/
def commitWords : Nat := 0xBFFFE00000
/-- The physical address of the record of a generation slot of a job, which the spec does not give (R282; log 9). -/
opaque generationRecord : BitVec 16 → BitVec 1 → BitVec 52
/-- The Frost control register (R415). -/
def frostControl : Nat := 0xC000002000
/-- Bytes of a vault slice (R1, R138). -/
def sliceBytes : Nat := 98304 * 64

end Sys2Proof.Config
end

