-- ==== Sys2Proof/Syntax.lean ====
section
/-! DEFINITION. Syntax: the records that steps carry as operands (messages R74, packets R37, window records R61,
commands R69) and Instr, one constructor per row of spec/opcode_table.json. -/

namespace Sys2Proof

/-- Element formats, codes 0 to 16 (R186). -/
inductive Fmt where
  | int8 | uint8 | int16 | uint16 | int32 | uint32 | int64 | uint64
  | fp32 | fp16 | bf16 | e4m3 | e5m2 | code8 | x19 | e8m0 | mask1
deriving DecidableEq, Repr

/-- Access scopes, each within the next (R210). -/
inductive Scope where
  | core | cluster | module | domain
deriving DecidableEq, Repr

/-- Rounding modes (R194). -/
inductive RMode where
  | rne | rtz | rup | rdn
deriving DecidableEq, Repr

/-- Trap causes with their codes (R233) and asynchronous causes (R242). -/
inductive Cause where
  | illegal | shape | align | bounds | xlate | perm | xlateUe | poison | budget | stack | brk | trap
  | pairMismatch | stream | table | priv
  | engine | ue | topology | contextLost | undeliverable | opaSparsity
deriving DecidableEq, Repr

/-- A message: the header fields of R74 and the payload bytes. zeros holds the must-be-zero bits of both flits
(flit 0 [11:0] low, flit 1 [10:0] above them); retained says that the message was sent by SENDR, fixed that a receiving
gateway has fixed its destination core (R76) (log 13); args are the argument words beside the header's of a built-in operation (R37, R41). -/
structure Msg where
  dstPart : PartId
  dstCore : CoreId
  srcCore : CoreId
  srcPart : PartId
  vnet : BitVec 1
  kind : BitVec 4
  prio : BitVec 5
  rcheck : BitVec 12
  etag : Bool
  job : JobId
  sel : BitVec 12
  tag : BitVec 4
  pfmt : BitVec 5
  seq : BitVec 16
  residue : BitVec 8
  aux : BitVec 8
  arg : Word64
  zeros : BitVec 23
  retained : Bool
  fixed : Bool
  args : List Word64
  payload : List Byte
deriving DecidableEq, Repr

/-- A Lamcon packet on a link (R37, R38): its bytes, and what the device knows of its message that no header bit holds (log 13). -/
structure Packet where
  bytes : List Byte
  retained : Bool
  fixed : Bool
deriving DecidableEq, Repr

/-- A Frost word (R49, R248). -/
structure FrostWord where
  job : JobId
  count : BitVec 24
  part : PartId
  core : CoreId
  slot : BitVec 2
  kind : BitVec 4
  code : BitVec 8
  time : Word64
deriving DecidableEq, Repr

/-- A relayed command between the service clusters of two parts (R75 kind 8). -/
inductive FrostCtl where
  | frost (job : JobId)
  | read (job : JobId)
  | step (job : JobId) (core : CoreId) (slot : BitVec 2) (row : Bool)
  | resume (job : JobId) (at_ : Word64)
deriving DecidableEq, Repr

/-- A record of a message window (R61) or an initial-message record (R322). macOk says that the mac field equals KMAC256 of bytes 0 to 303
under the window key; zeroOk that its zero fields are zero. -/
structure HostRec where
  seq : BitVec 64
  route : Word64
  arg : Word64
  job : JobId
  kind : BitVec 8
  aux : BitVec 8
  plen : BitVec 16
  zeroOk : Bool
  macOk : Bool
  payload : List Byte
deriving DecidableEq, Repr

/-- A firmware command as 0.0.0 received it (R67): the window that carried it, its selector, tag, argument word
and payload, and its place in the order of receipt. -/
structure Cmd where
  order : Nat
  window : Nat
  sel : BitVec 12
  tag : BitVec 4
  arg : Word64
  payload : List Byte
deriving DecidableEq, Repr

/-- The outcome of the transport self-test (R21 to R24): its steps, the clusters that failed scan or march, new error counts of the
stacks, and the lanes that failed margin at each port. -/
structure SelfTest where
  steps : BitVec 4
  failed : List ClusterId
  hbm : List (BitVec 32 × BitVec 32)
  lamconFail : List (BitVec 8)
  ethFail : List (BitVec 4)
deriving DecidableEq, Repr

/-- How a request on a queue pair stands to the subset of R55: inside it, or with immediate data, an atomic, a memory-window binding, or on a
transport that is not reliable connected. -/
inductive ReqForm where
  | inside | immediate | atomic | bind | datagram
deriving DecidableEq, Repr
/-- What a request brings beside its operation (R55): its form, an ECN mark, the READs of its queue pair that are not answered yet. -/
structure ReqHead where
  form : ReqForm
  ecn : Bool
  behind : Nat
deriving DecidableEq, Repr

/-- A request and the queue pair that it came on. -/
structure QpReq where
  qp : BitVec 12
  head : ReqHead
deriving DecidableEq, Repr
/-- A SEND of code 1, or of one that the table does not name, with its nonce (R59). -/
structure CodedSend where
  code : BitVec 32
  nonce : List (BitVec 8)
deriving DecidableEq, Repr
/-- What answers a REP (R56): RTU, or REJ in its place. -/
structure RepAnswer where
  qp : BitVec 12
  rejected : Bool
deriving DecidableEq, Repr

/-- Device registers with no row of their own that a write reaches (R3, R20, R48, R287, R44). -/
inductive DevReg where
  | powerStatus
  | portStatus (port : Nat)
  | clusterHealth (cluster : ClusterId)
  | linkKey (port : Nat) (dir : Bool) (vc : BitVec 2) (epoch : BitVec 1) (key : List Byte)
deriving DecidableEq, Repr

/-- Firmware's choices for a job's contexts at LOAD and CTXLD: core, context slot, spill area, pages of the save area, retain area in the
vault slice, and for a pair the partner core, its context slot and the pair word's inject field (R72, R91, R82, R276; log 6). -/
structure Place where
  core : CoreId
  slot : BitVec 2
  dirAddr : BitVec 52
  spill : BitVec 52
  save : List (BitVec 52)
  retain : Nat
  partner : CoreId
  partnerSlot : BitVec 2
  inject : BitVec 16
deriving DecidableEq, Repr

/-- Firmware's choices at a cluster's retirement for one job: the GLOBAL pointer of the vault image with the frame
that backs it, the GLOBAL pointer of the orphan buffer with the first of its frames, and the resume instant (R289). -/
structure Retiring where
  job : JobId
  image : Word64
  imageFrame : BitVec 52
  orphan : Word64
  orphanFrame : BitVec 52
  resumeAt : Word64
deriving DecidableEq, Repr

/-- Every step of the part: one constructor per row of spec/opcode_table.json: words first, then what happens inside the part,
then what comes from outside or is chosen by firmware. -/
inductive Instr where
  /-- NOP (R407). -/
  | nop
  /-- DONE (R351). -/
  | done
  /-- RET (R349). -/
  | ret
  /-- BRK (R407). -/
  | brk
  /-- TRAP (R407). -/
  | trap (i : BitVec 12)
  /-- RFT (R408). -/
  | rft (t : BitVec 2) (s : BitVec 2)
  /-- CSRR (R409). -/
  | csrr (a : BitVec 4) (c : BitVec 12)
  /-- CSRW (R409). -/
  | csrw (b : BitVec 4) (c : BitVec 12)
  /-- TNOW (R409). -/
  | tnow (a : BitVec 4)
  /-- CINV (R410). -/
  | cinv (b : BitVec 4) (l : BitVec 12)
  /-- TLBI (R411). -/
  | tlbi (a : BitVec 4) (b : BitVec 4) (s : BitVec 1) (k : BitVec 2)
  /-- SLOTRD (R412). -/
  | slotrd (a : BitVec 4) (s : BitVec 2) (t : BitVec 2) (n : BitVec 8)
  /-- SLOTWR (R412). -/
  | slotwr (b : BitVec 4) (s : BitVec 2) (t : BitVec 2) (n : BitVec 8)
  /-- CTXLD (R414). -/
  | ctxld (b : BitVec 4) (c : BitVec 2)
  /-- CTXSV (R414). -/
  | ctxsv (b : BitVec 4) (c : BitVec 2)
  /-- CTXEV (R414). -/
  | ctxev (c : BitVec 2)
  /-- FROST (R407). -/
  | frost (i : BitVec 8)
  /-- RESUME (R415). -/
  | resume (a : BitVec 4) (b : BitVec 4)
  /-- HARV (R415). -/
  | harv (a : BitVec 4)
  /-- CKPT (R416). -/
  | ckpt
  /-- PAIRSIG (R416). -/
  | pairsig (a : BitVec 4)
  /-- SEED (R417). -/
  | seed (b : BitVec 4)
  /-- STEP (R418). -/
  | step (b : BitVec 4) (r : BitVec 1) (s : BitVec 2)
  /-- SHAPEI (R331). -/
  | shapei (a : BitVec 4) (f : BitVec 5) (r : BitVec 3) (c : BitVec 6)
  /-- RAGGEDI (R331). -/
  | raggedi (a : BitVec 4) (r : BitVec 3) (c : BitVec 6)
  /-- ADD (R342). -/
  | add (a : BitVec 4) (b : BitVec 4) (c : BitVec 4) (k : BitVec 2)
  /-- SUB (R342). -/
  | sub (a : BitVec 4) (b : BitVec 4) (c : BitVec 4) (k : BitVec 2)
  /-- ADDS (R342). -/
  | adds (a : BitVec 4) (b : BitVec 4) (c : BitVec 4) (k : BitVec 2)
  /-- ADDSU (R342). -/
  | addsu (a : BitVec 4) (b : BitVec 4) (c : BitVec 4) (k : BitVec 2)
  /-- SUBS (R342). -/
  | subs (a : BitVec 4) (b : BitVec 4) (c : BitVec 4) (k : BitVec 2)
  /-- SUBSU (R342). -/
  | subsu (a : BitVec 4) (b : BitVec 4) (c : BitVec 4) (k : BitVec 2)
  /-- MUL (R342). -/
  | mul (a : BitVec 4) (b : BitVec 4) (c : BitVec 4) (k : BitVec 2)
  /-- MULH (R342). -/
  | mulh (a : BitVec 4) (b : BitVec 4) (c : BitVec 4) (k : BitVec 2)
  /-- MULHU (R342). -/
  | mulhu (a : BitVec 4) (b : BitVec 4) (c : BitVec 4) (k : BitVec 2)
  /-- MIN (R342). -/
  | min (a : BitVec 4) (b : BitVec 4) (c : BitVec 4) (k : BitVec 2)
  /-- MAX (R342). -/
  | max (a : BitVec 4) (b : BitVec 4) (c : BitVec 4) (k : BitVec 2)
  /-- MINU (R342). -/
  | minu (a : BitVec 4) (b : BitVec 4) (c : BitVec 4) (k : BitVec 2)
  /-- MAXU (R342). -/
  | maxu (a : BitVec 4) (b : BitVec 4) (c : BitVec 4) (k : BitVec 2)
  /-- ABS (R342). -/
  | abs (a : BitVec 4) (b : BitVec 4) (k : BitVec 2)
  /-- NEG (R342). -/
  | neg (a : BitVec 4) (b : BitVec 4) (k : BitVec 2)
  /-- AVGU (R342). -/
  | avgu (a : BitVec 4) (b : BitVec 4) (c : BitVec 4) (k : BitVec 2)
  /-- AND (R343). -/
  | and (a : BitVec 4) (b : BitVec 4) (c : BitVec 4) (k : BitVec 2)
  /-- OR (R343). -/
  | or (a : BitVec 4) (b : BitVec 4) (c : BitVec 4) (k : BitVec 2)
  /-- XOR (R343). -/
  | xor (a : BitVec 4) (b : BitVec 4) (c : BitVec 4) (k : BitVec 2)
  /-- ANDN (R343). -/
  | andn (a : BitVec 4) (b : BitVec 4) (c : BitVec 4) (k : BitVec 2)
  /-- NOT (R343). -/
  | not (a : BitVec 4) (b : BitVec 4) (k : BitVec 2)
  /-- SHL (R343). -/
  | shl (a : BitVec 4) (b : BitVec 4) (c : BitVec 4) (k : BitVec 2)
  /-- SHR (R343). -/
  | shr (a : BitVec 4) (b : BitVec 4) (c : BitVec 4) (k : BitVec 2)
  /-- SAR (R343). -/
  | sar (a : BitVec 4) (b : BitVec 4) (c : BitVec 4) (k : BitVec 2)
  /-- ROL (R343). -/
  | rol (a : BitVec 4) (b : BitVec 4) (c : BitVec 4) (k : BitVec 2)
  /-- POPC (R343). -/
  | popc (a : BitVec 4) (b : BitVec 4) (k : BitVec 2)
  /-- CLZ (R343). -/
  | clz (a : BitVec 4) (b : BitVec 4) (k : BitVec 2)
  /-- CTZ (R343). -/
  | ctz (a : BitVec 4) (b : BitVec 4) (k : BitVec 2)
  /-- MAD (R344). -/
  | mad (a : BitVec 4) (b : BitVec 4) (c : BitVec 4) (k : BitVec 2)
  /-- CMP (R346). -/
  | cmp (a : BitVec 2) (b : BitVec 4) (c : BitVec 4) (k : BitVec 2) (f : BitVec 3)
  /-- MOV (R334). -/
  | mov (a : BitVec 4) (b : BitVec 4) (k : BitVec 2)
  /-- ZERO (R334). -/
  | zero (a : BitVec 4) (k : BitVec 2)
  /-- TRN (R335). -/
  | trn (a : BitVec 4) (b : BitVec 4) (k : BitVec 2)
  /-- BROW (R336). -/
  | brow (a : BitVec 4) (b : BitVec 4) (c : BitVec 4) (k : BitVec 2)
  /-- BCOL (R336). -/
  | bcol (a : BitVec 4) (b : BitVec 4) (c : BitVec 4) (k : BitVec 2)
  /-- XTR (R337). -/
  | xtr (a : BitVec 4) (b : BitVec 4) (c : BitVec 4) (k : BitVec 2)
  /-- INS (R337). -/
  | ins (a : BitVec 4) (b : BitVec 4) (c : BitVec 4) (k : BitVec 2)
  /-- SLC (R338). -/
  | slc (a : BitVec 4) (b : BitVec 4) (c : BitVec 4) (k : BitVec 2)
  /-- SHE (R339). -/
  | she (a : BitVec 4) (b : BitVec 4) (c : BitVec 4) (k : BitVec 2)
  /-- ROTE (R339). -/
  | rote (a : BitVec 4) (b : BitVec 4) (c : BitVec 4) (k : BitVec 2)
  /-- PERM (R340). -/
  | perm (a : BitVec 4) (b : BitVec 4) (c : BitVec 4) (k : BitVec 2)
  /-- PERM8 (R340). -/
  | perm8 (a : BitVec 4) (b : BitVec 4) (c : BitVec 4) (k : BitVec 2)
  /-- LUT16 (R340). -/
  | lut16 (a : BitVec 4) (b : BitVec 4) (c : BitVec 4) (k : BitVec 2)
  /-- SEL (R341). -/
  | sel (a : BitVec 4) (b : BitVec 4) (c : BitVec 4) (k : BitVec 2)
  /-- SHAPE (R331). -/
  | shape (a : BitVec 4) (b : BitVec 4)
  /-- RAGGED (R331). -/
  | ragged (a : BitVec 4) (b : BitVec 4)
  /-- GSHAPE (R332). -/
  | gshape (a : BitVec 4) (b : BitVec 4)
  /-- MAND (R347). -/
  | mand (a : BitVec 2) (b : BitVec 2) (c : BitVec 2)
  /-- MOR (R347). -/
  | mor (a : BitVec 2) (b : BitVec 2) (c : BitVec 2)
  /-- MXOR (R347). -/
  | mxor (a : BitVec 2) (b : BitVec 2) (c : BitVec 2)
  /-- MNOT (R347). -/
  | mnot (a : BitVec 2) (b : BitVec 2)
  /-- MPOP (R347). -/
  | mpop (a : BitVec 4) (b : BitVec 2)
  /-- MFST (R347). -/
  | mfst (a : BitVec 4) (b : BitVec 2)
  /-- MLD (R347). -/
  | mld (a : BitVec 2) (b : BitVec 4)
  /-- MST (R347). -/
  | mst (a : BitVec 4) (b : BitVec 2)
  /-- MSET (R347). -/
  | mset (a : BitVec 2) (b : BitVec 4)
  /-- FADD (R356). -/
  | fadd (a : BitVec 4) (b : BitVec 4) (c : BitVec 4) (k : BitVec 2) (r : BitVec 2)
  /-- FSUB (R356). -/
  | fsub (a : BitVec 4) (b : BitVec 4) (c : BitVec 4) (k : BitVec 2) (r : BitVec 2)
  /-- FMUL (R356). -/
  | fmul (a : BitVec 4) (b : BitVec 4) (c : BitVec 4) (k : BitVec 2) (r : BitVec 2)
  /-- FMIN (R356). -/
  | fmin (a : BitVec 4) (b : BitVec 4) (c : BitVec 4) (k : BitVec 2)
  /-- FMAX (R356). -/
  | fmax (a : BitVec 4) (b : BitVec 4) (c : BitVec 4) (k : BitVec 2)
  /-- FABS (R357). -/
  | fabs (a : BitVec 4) (b : BitVec 4) (k : BitVec 2)
  /-- FNEG (R357). -/
  | fneg (a : BitVec 4) (b : BitVec 4) (k : BitVec 2)
  /-- FCPYS (R357). -/
  | fcpys (a : BitVec 4) (b : BitVec 4) (c : BitVec 4) (k : BitVec 2)
  /-- FDIV (R357). -/
  | fdiv (a : BitVec 4) (b : BitVec 4) (c : BitVec 4) (k : BitVec 2) (r : BitVec 2)
  /-- FSQRT (R357). -/
  | fsqrt (a : BitVec 4) (b : BitVec 4) (k : BitVec 2) (r : BitVec 2)
  /-- FRND (R357). -/
  | frnd (a : BitVec 4) (b : BitVec 4) (k : BitVec 2) (r : BitVec 2)
  /-- FSCL (R357). -/
  | fscl (a : BitVec 4) (b : BitVec 4) (c : BitVec 4) (k : BitVec 2) (r : BitVec 2)
  /-- FCLASS (R358). -/
  | fclass (a : BitVec 4) (b : BitVec 4) (k : BitVec 2)
  /-- FMA (R356). -/
  | fma (a : BitVec 4) (b : BitVec 4) (c : BitVec 4) (k : BitVec 2) (r : BitVec 2)
  /-- FMS (R356). -/
  | fms (a : BitVec 4) (b : BitVec 4) (c : BitVec 4) (k : BitVec 2) (r : BitVec 2)
  /-- FNMA (R356). -/
  | fnma (a : BitVec 4) (b : BitVec 4) (c : BitVec 4) (k : BitVec 2) (r : BitVec 2)
  /-- FCMP (R359). -/
  | fcmp (a : BitVec 2) (b : BitVec 4) (c : BitVec 4) (k : BitVec 2) (f : BitVec 2)
  /-- FRCP (R360). -/
  | frcp (a : BitVec 4) (b : BitVec 4) (k : BitVec 2)
  /-- FRSQ (R360). -/
  | frsq (a : BitVec 4) (b : BitVec 4) (k : BitVec 2)
  /-- FEXP2 (R360). -/
  | fexp2 (a : BitVec 4) (b : BitVec 4) (k : BitVec 2)
  /-- FLOG2 (R360). -/
  | flog2 (a : BitVec 4) (b : BitVec 4) (k : BitVec 2)
  /-- CVT (R362). -/
  | cvt (a : BitVec 4) (b : BitVec 4) (k : BitVec 2) (r : BitVec 2)
  /-- CVTS (R364). -/
  | cvts (a : BitVec 4) (b : BitVec 4) (k : BitVec 2)
  /-- CVTQ (R365). -/
  | cvtq (a : BitVec 4) (b : BitVec 4) (k : BitVec 2) (r : BitVec 2)
  /-- CVTD (R365). -/
  | cvtd (a : BitVec 4) (b : BitVec 4) (k : BitVec 2)
  /-- MXSC (R366). -/
  | mxsc (a : BitVec 4) (b : BitVec 4) (c : BitVec 4) (k : BitVec 2) (r : BitVec 2)
  /-- MXQ (R367). -/
  | mxq (a : BitVec 4) (b : BitVec 4) (c : BitVec 4) (k : BitVec 2)
  /-- RSUM (R369). -/
  | rsum (a : BitVec 4) (b : BitVec 4) (k : BitVec 2)
  /-- FRSUM (R369). -/
  | frsum (a : BitVec 4) (b : BitVec 4) (k : BitVec 2) (r : BitVec 2)
  /-- RMAX (R369). -/
  | rmax (a : BitVec 4) (b : BitVec 4) (k : BitVec 2)
  /-- RMIN (R369). -/
  | rmin (a : BitVec 4) (b : BitVec 4) (k : BitVec 2)
  /-- RAMX (R370). -/
  | ramx (a : BitVec 4) (b : BitVec 4) (c : BitVec 4) (k : BitVec 2)
  /-- DOT (R371). -/
  | dot (a : BitVec 4) (b : BitVec 4) (c : BitVec 4) (k : BitVec 2) (r : BitVec 2)
  /-- SCAN (R372). -/
  | scan (a : BitVec 4) (b : BitVec 4) (k : BitVec 2)
  /-- FSCAN (R372). -/
  | fscan (a : BitVec 4) (b : BitVec 4) (k : BitVec 2) (r : BitVec 2)
  /-- CSUM (R373). -/
  | csum (a : BitVec 4) (b : BitVec 4) (k : BitVec 2)
  /-- FCSUM (R373). -/
  | fcsum (a : BitVec 4) (b : BitVec 4) (k : BitVec 2) (r : BitVec 2)
  /-- MOVI (R345). -/
  | movi (a : BitVec 4) (k : BitVec 2) (i : BitVec 16)
  /-- MOVK (R345). -/
  | movk (a : BitVec 4) (h : BitVec 2) (i : BitVec 16)
  /-- ADDI (R345). -/
  | addi (a : BitVec 4) (b : BitVec 4) (k : BitVec 2) (i : BitVec 16)
  /-- MULI (R345). -/
  | muli (a : BitVec 4) (b : BitVec 4) (k : BitVec 2) (i : BitVec 16)
  /-- ANDI (R345). -/
  | andi (a : BitVec 4) (b : BitVec 4) (k : BitVec 2) (i : BitVec 16)
  /-- ORI (R345). -/
  | ori (a : BitVec 4) (b : BitVec 4) (k : BitVec 2) (i : BitVec 16)
  /-- XORI (R345). -/
  | xori (a : BitVec 4) (b : BitVec 4) (k : BitVec 2) (i : BitVec 16)
  /-- SHI (R345). -/
  | shi (a : BitVec 4) (b : BitVec 4) (k : BitVec 2) (o : BitVec 2) (s : BitVec 6)
  /-- LD (R379). -/
  | ld (a : BitVec 4) (b : BitVec 4) (c : BitVec 4) (k : BitVec 2) (q : BitVec 2) (s : BitVec 2)
  /-- ST (R379). -/
  | st (a : BitVec 4) (b : BitVec 4) (c : BitVec 4) (k : BitVec 2) (q : BitVec 2) (s : BitVec 2)
  /-- LDB (R379). -/
  | ldb (a : BitVec 4) (b : BitVec 4) (c : BitVec 4) (k : BitVec 2) (q : BitVec 2) (s : BitVec 2)
  /-- FENCE (R383). -/
  | fence (s : BitVec 2) (m : BitVec 4) (t : BitVec 2)
  /-- AADD (R381). -/
  | aadd (a : BitVec 4) (b : BitVec 4) (c : BitVec 4) (k : BitVec 2) (q : BitVec 2) (s : BitVec 2) (o : BitVec 1)
  /-- AMIN (R381). -/
  | amin (a : BitVec 4) (b : BitVec 4) (c : BitVec 4) (k : BitVec 2) (q : BitVec 2) (s : BitVec 2) (o : BitVec 1)
  /-- AMAX (R381). -/
  | amax (a : BitVec 4) (b : BitVec 4) (c : BitVec 4) (k : BitVec 2) (q : BitVec 2) (s : BitVec 2) (o : BitVec 1)
  /-- AMINU (R381). -/
  | aminu (a : BitVec 4) (b : BitVec 4) (c : BitVec 4) (k : BitVec 2) (q : BitVec 2) (s : BitVec 2) (o : BitVec 1)
  /-- AMAXU (R381). -/
  | amaxu (a : BitVec 4) (b : BitVec 4) (c : BitVec 4) (k : BitVec 2) (q : BitVec 2) (s : BitVec 2) (o : BitVec 1)
  /-- AAND (R381). -/
  | aand (a : BitVec 4) (b : BitVec 4) (c : BitVec 4) (k : BitVec 2) (q : BitVec 2) (s : BitVec 2) (o : BitVec 1)
  /-- AOR (R381). -/
  | aor (a : BitVec 4) (b : BitVec 4) (c : BitVec 4) (k : BitVec 2) (q : BitVec 2) (s : BitVec 2) (o : BitVec 1)
  /-- AXOR (R381). -/
  | axor (a : BitVec 4) (b : BitVec 4) (c : BitVec 4) (k : BitVec 2) (q : BitVec 2) (s : BitVec 2) (o : BitVec 1)
  /-- ASWP (R381). -/
  | aswp (a : BitVec 4) (b : BitVec 4) (c : BitVec 4) (k : BitVec 2) (q : BitVec 2) (s : BitVec 2) (o : BitVec 1)
  /-- ACAS (R381). -/
  | acas (a : BitVec 4) (b : BitVec 4) (c : BitVec 4) (k : BitVec 2) (q : BitVec 2) (s : BitVec 2) (o : BitVec 1)
  /-- AINCB (R381). -/
  | aincb (a : BitVec 4) (b : BitVec 4) (c : BitVec 4) (k : BitVec 2) (q : BitVec 2) (s : BitVec 2) (o : BitVec 1)
  /-- AFADD (R381). -/
  | afadd (a : BitVec 4) (b : BitVec 4) (c : BitVec 4) (k : BitVec 2) (q : BitVec 2) (s : BitVec 2) (o : BitVec 1)
  /-- FMTTAB (R384). -/
  | fmttab (b : BitVec 4) (q : BitVec 2) (s : BitVec 2)
  /-- COPY (R386). -/
  | copy (a : BitVec 4) (b : BitVec 4) (c : BitVec 4)
  /-- STRM (R387). -/
  | strm (a : BitVec 4) (b : BitVec 4)
  /-- STRMX (R387). -/
  | strmx (a : BitVec 4) (b : BitVec 4)
  /-- STRMS (R387). -/
  | strms (a : BitVec 4) (b : BitVec 4)
  /-- STRMA (R387). -/
  | strma (a : BitVec 4) (b : BitVec 4)
  /-- SCLOSE (R387). -/
  | sclose (a : BitVec 4)
  /-- SSTAT (R388). -/
  | sstat (a : BitVec 4) (b : BitVec 4)
  /-- SEND (R392). -/
  | send (a : BitVec 4) (b : BitVec 4) (c : BitVec 4) (n : BitVec 2) (m : BitVec 4) (v : BitVec 2)
  /-- SENDR (R392). -/
  | sendr (a : BitVec 4) (b : BitVec 4) (c : BitVec 4) (n : BitVec 2) (m : BitVec 4) (v : BitVec 2)
  /-- SENDAT (R392). -/
  | sendat (a : BitVec 4) (b : BitVec 4) (c : BitVec 4) (n : BitVec 2) (m : BitVec 4) (v : BitVec 2)
  /-- REPLY (R393). -/
  | reply (b : BitVec 4) (c : BitVec 4) (n : BitVec 2) (m : BitVec 4) (v : BitVec 2)
  /-- FWD (R394). -/
  | fwd (a : BitVec 4) (b : BitVec 4) (m : BitVec 4) (v : BitVec 2)
  /-- HDR (R394). -/
  | hdr (b : BitVec 4)
  /-- CINC (R395). -/
  | cinc (a : BitVec 4) (b : BitVec 4) (c : BitVec 4) (m : BitVec 4) (v : BitVec 2)
  /-- CSET (R395). -/
  | cset (b : BitVec 4) (c : BitVec 4)
  /-- CGET (R395). -/
  | cget (a : BitVec 4) (c : BitVec 4)
  /-- CARM (R395). -/
  | carm (b : BitVec 4) (c : BitVec 4)
  /-- FSET (R395). -/
  | fset (a : BitVec 4) (c : BitVec 4) (m : BitVec 4) (v : BitVec 2)
  /-- FCLR (R395). -/
  | fclr (c : BitVec 4)
  /-- TWEN (R395). -/
  | twen (b : BitVec 4) (c : BitVec 4) (w : BitVec 1)
  /-- TMR (R395). -/
  | tmr (b : BitVec 4) (t : BitVec 2)
  /-- POST (R400). -/
  | post (a : BitVec 4) (b : BitVec 4) (c : BitVec 3) (n : BitVec 2) (m : BitVec 4) (t : BitVec 1) (z : BitVec 1)
  /-- POSTH (R400). -/
  | posth (a : BitVec 4) (c : BitVec 3) (n : BitVec 2) (m : BitVec 4) (t : BitVec 1) (z : BitVec 1)
  /-- ACCRD (R401). -/
  | accrd (a : BitVec 4) (b : BitVec 4) (c : BitVec 3) (n : BitVec 2)
  /-- ACCZ (R402). -/
  | accz (c : BitVec 3)
  /-- ACCCFG (R403). -/
  | acccfg (c : BitVec 3) (v : BitVec 2)
  /-- OPAQ (R404). -/
  | opaq (a : BitVec 4) (c : BitVec 3)
  /-- BR (R348). -/
  | br (o : BitVec 20)
  /-- BR_COND (R348). -/
  | brCond (c : BitVec 4) (k : BitVec 2) (o : BitVec 20)
  /-- CALL (R349). -/
  | call (o : BitVec 20)
  /-- LOOP (R350). -/
  | loop (c : BitVec 4) (o : BitVec 20)
  /-- HELD_PACKET_RELEASE (R35): source gateway and destination part. -/
  | heldPacketRelease (gw : BitVec 6) (part : PartId)
  /-- REMOTE_LOAD (R41): place of the request in the gateways' list. -/
  | remoteLoad (n : Nat)
  /-- REMOTE_STORE (R41). -/
  | remoteStore (n : Nat)
  /-- REMOTE_ATOMIC (R41). -/
  | remoteAtomic (n : Nat)
  /-- BUILTIN_REPLY (R42): the message in flight. -/
  | builtinReply (id : Nat)
  /-- MAILBOX_RECORD_WRITE (R65): window. -/
  | mailboxRecordWrite (win : BitVec 12)
  /-- HOST_MESSAGE (R64): the message in flight. -/
  | hostMessage (id : Nat)
  /-- INITIAL_MESSAGE_INJECT (R324): job and record index. -/
  | initialMessageInject (job : JobId) (n : Nat)
  /-- ROUTER_FORWARD (R105): the message in flight, and the direction taken round the ring. -/
  | routerForward (id : Nat) (plus : Bool)
  /-- HANDLER_MESSAGE_ARRIVAL (R89): the message in flight. -/
  | handlerMessageArrival (id : Nat)
  /-- RESIDENCY_REQUEST (R110): core, job, and the victim's context slot. -/
  | residencyRequest (core : CoreId) (job : JobId) (slot : BitVec 2)
  /-- COUNTER_ADD (R87). -/
  | counterAdd (id : Nat)
  /-- FLAG_SET (R87). -/
  | flagSet (id : Nat)
  /-- NACK (R102). -/
  | nack (id : Nat)
  /-- SPACE_NOTICE (R103). -/
  | spaceNotice (id : Nat)
  /-- COMPLETION (R101). -/
  | completion (id : Nat)
  /-- TOPOLOGY_EVENT (R291). -/
  | topologyEvent (id : Nat)
  /-- FAULT_EVENT (R243). -/
  | faultEvent (id : Nat)
  /-- RETAIN_ACKNOWLEDGEMENT (R272). -/
  | retainAcknowledgement (id : Nat)
  /-- UNDELIVERABLE (R242). -/
  | undeliverable (id : Nat)
  /-- RETAIN_TIMEOUT (R274): core, job, retain sequence. -/
  | retainTimeout (core : CoreId) (job : JobId) (seq : BitVec 16)
  /-- NACK_HOLD_TIMEOUT (R102): core, job, held destination. -/
  | nackHoldTimeout (core : CoreId) (job : JobId) (part : PartId) (dst : CoreId)
  /-- ARRIVAL_RING_DRAIN (R92): core and context slot. -/
  | arrivalRingDrain (core : CoreId) (ctx : BitVec 2)
  /-- UNCLAIMED_TAG_TIMEOUT (R95): core and queue place. -/
  | unclaimedTagTimeout (core : CoreId) (n : Nat)
  /-- DISPATCH (R94): core. -/
  | dispatch (core : CoreId)
  /-- HANDLER_LAUNCH (R129): core and slot. -/
  | handlerLaunch (core : CoreId) (slot : BitVec 2)
  /-- BUDGET_EXHAUSTED (R98): core and slot. -/
  | budgetExhausted (core : CoreId) (slot : BitVec 2)
  /-- TRAP_ALLOWANCE_EXPIRY (R237): core and slot. -/
  | trapAllowanceExpiry (core : CoreId) (slot : BitVec 2)
  /-- LOAD_DATA_RETURN (R325): the return. -/
  | loadDataReturn (id : Nat)
  /-- MEMORY_EVENT_PERFORM (R213): the event. -/
  | memoryEventPerform (id : Nat)
  /-- PAGE_WALK (R145): cluster whose queue waits, ASID, VA [47:16]. -/
  | pageWalk (cluster : ClusterId) (asid : BitVec 16) (vpn : BitVec 32)
  /-- COPY_ON_WRITE (R284): ASID, VA [47:16], the new frame. -/
  | copyOnWrite (asid : BitVec 16) (vpn : BitVec 32) (frame : BitVec 52)
  /-- CODE_CACHE_FILL (R150): cluster, ASID, line address. -/
  | codeCacheFill (cluster : ClusterId) (asid : BitVec 16) (line : BitVec 48)
  /-- TLBI_COMPLETE (R148): core and slot that wait. -/
  | tlbiComplete (core : CoreId) (slot : BitVec 2)
  /-- EVICTION_DRAINED (R108): core and context slot. -/
  | evictionDrained (core : CoreId) (ctx : BitVec 2)
  /-- EVICTION_COMPLETE (R108). -/
  | evictionComplete (core : CoreId) (ctx : BitVec 2)
  /-- RESTORE_COMPLETE (R109). -/
  | restoreComplete (core : CoreId) (ctx : BitVec 2)
  /-- CLOCK_GATE (R249): cluster. -/
  | clockGate (cluster : ClusterId)
  /-- CLOCK_GATE_END (R249). -/
  | clockGateEnd (cluster : ClusterId)
  /-- FROST_WAVE_ARRIVAL (R250): core and job. -/
  | frostWaveArrival (core : CoreId) (job : JobId)
  /-- RESUME_INSTANT (R260): job. -/
  | resumeInstant (job : JobId)
  /-- FENNEL_ROW_REQUEST (R160): cluster and stream. -/
  | fennelRowRequest (cluster : ClusterId) (uid : Nat)
  /-- STREAM_ROW_RETURN (R163): cluster and stream. -/
  | streamRowReturn (cluster : ClusterId) (uid : Nat)
  /-- WRITE_STREAM_COMPLETION (R164): cluster and stream. -/
  | writeStreamCompletion (cluster : ClusterId) (uid : Nat)
  /-- DRAIN_ALLOWANCE_EXPIRY (R165): cluster, core and context slot of the engine context. -/
  | drainAllowanceExpiry (cluster : ClusterId) (core : CoreId) (ctx : BitVec 2)
  /-- PARK_IMAGE_WRITTEN (R165). -/
  | parkImageWritten (cluster : ClusterId) (core : CoreId) (ctx : BitVec 2)
  /-- PARK_IMAGE_READ (R165). -/
  | parkImageRead (cluster : ClusterId) (core : CoreId) (ctx : BitVec 2)
  /-- FENNEL_SERVICE_GRANT (R166): cluster. -/
  | fennelServiceGrant (cluster : ClusterId)
  /-- SORREL_APPLY (R170): the operation, and those of its token merged with it (R171). -/
  | sorrelApply (id : Nat) (merged : List Nat)
  /-- HBM_ATOMIC_APPLY (R382): the operation. -/
  | hbmAtomicApply (id : Nat)
  /-- POST_ACCEPT (R229): core and slot whose oldest held matrix entry is accepted. -/
  | postAccept (core : CoreId) (slot : BitVec 2)
  /-- ISLAND_ENTRY_FIRE (R178): cluster and queue place. -/
  | islandEntryFire (cluster : ClusterId) (n : Nat)
  /-- ACCCFG_ANSWER (R403): core and slot that wait. -/
  | acccfgAnswer (core : CoreId) (slot : BitVec 2)
  /-- COPY_SECTOR (R182): cluster and copy. -/
  | copySector (cluster : ClusterId) (uid : Nat)
  /-- TRAILER_LAUNCH (R277): the leading core and slot of the launch record. -/
  | trailerLaunch (core : CoreId) (slot : BitVec 2)
  /-- SIGNATURE_COMPARE (R278): the leading core and slot. -/
  | signatureCompare (core : CoreId) (slot : BitVec 2)
  /-- SENDAT_INJECT (R392): core. -/
  | sendatInject (core : CoreId)
  /-- LAMCON_PACKET_SEND (R39): the message in flight. -/
  | lamconPacketSend (id : Nat)
  /-- ILLEGAL_ENCODING (R297): the word. -/
  | illegalEncoding (w : BitVec 32)
  /-- KEY_ESTABLISHMENT_TIMEOUT (R45). -/
  | keyEstablishmentTimeout (port : BitVec 4)
  /-- THYME_EXCHANGE (R52). -/
  | thymeExchange (port : BitVec 4)
  /-- RDMA_WRITE (R57): queue pair, head of the request, rkey, GLOBAL address, data. -/
  | rdmaWrite (q : QpReq) (rkey : BitVec 32) (va : BitVec 48) (data : List Byte)
  /-- RDMA_READ (R57): queue pair, head, rkey, GLOBAL address, length. -/
  | rdmaRead (q : QpReq) (rkey : BitVec 32) (va : BitVec 48) (len : Nat)
  /-- ATTESTATION (R59): queue pair with head, code and nonce. -/
  | attestation (q : QpReq) (m : CodedSend)
  /-- SESSION (R59): queue pair, encapsulation key, mailbox rkey, address, slots; window and its rkey as chosen. -/
  | session (q : QpReq) (ek : List Byte) (mbRkey : BitVec 32) (mbAddr : Word64) (slots : BitVec 32) (win : BitVec 12) (winRkey : BitVec 32)
  /-- IMAGE_BLOCK (R59): queue pair, offset, bytes. -/
  | imageBlock (q : QpReq) (offset : BitVec 32) (data : List Byte)
  /-- IMAGE_END (R28): queue pair and head. -/
  | imageEnd (qp : BitVec 12) (h : ReqHead)
  /-- FROST_CONTROL_MESSAGE (R75). -/
  | frostControlMessage (m : FrostCtl)
  /-- MAP (R459): command; frames and table addresses firmware chose, new rkey. -/
  | map (c : Cmd) (frames : List (BitVec 52)) (tables : List (BitVec 52)) (rkey : BitVec 32)
  /-- WINDOW_RECORD (R62): window whose next slot was written. -/
  | windowRecord (win : BitVec 12)
  /-- CREDIT_REFILL (R14). -/
  | creditRefill
  /-- POWER_FAIL_WARNING (R18). -/
  | powerFailWarning
  /-- POWER_UP (R27). -/
  | powerUp
  /-- TRANSPORT_SELF_TEST_END (R22). -/
  | transportSelfTestEnd (r : SelfTest)
  /-- JOB_REBUILD (R286): the job. -/
  | jobRebuild (job : JobId)
  /-- SUPPLY_DROOP (R16): supply in per cent, clock stretch in 1/192 steps. -/
  | supplyDroop (pct : BitVec 8) (stretch : BitVec 8)
  /-- WARNING_CLEAR (R19): the resume instant firmware chooses. -/
  | warningClear (at_ : Word64)
  /-- WEAR_LIFE_UPDATE (R25): chiplet, least monitor, its predicted months. -/
  | wearLifeUpdate (chiplet : BitVec 4) (monitor : BitVec 6) (months : Nat)
  /-- IN_SERVICE_BIST (R288): cluster and result. -/
  | inServiceBist (cluster : ClusterId) (pass : Bool)
  /-- CLUSTER_RETIREMENT (R289): cluster and firmware's choices for each job that holds it. -/
  | clusterRetirement (cluster : ClusterId) (plan : List Retiring)
  /-- FROST_CONTROL_DEBUG (R415): job, storing firmware core and slot. -/
  | frostControlDebug (job : JobId) (core : CoreId) (slot : BitVec 2)
  /-- FROST_CONTROL_QUIESCE (R415): job, code, storing firmware core and slot. -/
  | frostControlQuiesce (job : JobId) (code : BitVec 8) (core : CoreId) (slot : BitVec 2)
  /-- REGISTER_WRITE (R3). -/
  | registerWrite (reg : DevReg) (v : Word64)
  /-- LAMCON_PACKET_RECEIVE (R39): port and packet. -/
  | lamconPacketReceive (port : BitVec 4) (p : Packet)
  /-- LINK_ACKNOWLEDGEMENT (R46): port and acknowledged link_seq. -/
  | linkAcknowledgement (port : BitVec 4) (linkSeq : BitVec 12)
  /-- END_TO_END_ACKNOWLEDGEMENT (R39): source gateway, destination part, path_seq. -/
  | endToEndAcknowledgement (gw : BitVec 6) (part : PartId) (pathSeq : BitVec 32)
  /-- LINK_REPLAY (R46): port. -/
  | linkReplay (port : BitVec 4)
  /-- LINK_RETRAIN (R47): port, and whether a lane lost lock. -/
  | linkRetrain (port : BitVec 4) (lostLock : Bool)
  /-- RETRAIN_END (R47): port, whether it trained, usable lanes, tag failures seen. -/
  | retrainEnd (port : BitVec 4) (trained : Bool) (lanes : BitVec 4) (tagFailures : Bool)
  /-- PORT_SET_CHANGE (R35): destination part and its new first-hop ports. -/
  | portSetChange (part : PartId) (set : BitVec 12)
  /-- LINK_BRING_UP (R45): port, partner part and port, usable lanes, other enclosure. -/
  | linkBringUp (port : BitVec 4) (partner : PartId) (partnerPort : BitVec 4) (lanes : BitVec 4) (far : Bool) (refThyme : Word64)
  /-- KE1 (R45). -/
  | ke1 (port : BitVec 4) (wire : List Byte)
  /-- KE2 (R45). -/
  | ke2 (port : BitVec 4) (wire : List Byte)
  /-- EPOCH_SWITCH (R44): port. -/
  | epochSwitch (port : BitVec 4)
  /-- THYME_WORD_RECEIVE (R52): port, the partner's Thyme, measured link delay in ns. -/
  | thymeWordReceive (port : BitVec 4) (value : Word64) (delay : Nat)
  /-- FROST_WORD_RECEIVE (R251). -/
  | frostWordReceive (port : BitVec 4) (w : FrostWord)
  /-- RESUME_WORD_RECEIVE (R259): port, job, count, instant. -/
  | resumeWordReceive (port : BitVec 4) (job : JobId) (count : BitVec 24) (at_ : Word64)
  /-- CM_REQ (R56): port, the requester's identifier, its path MTU, the queue pair the device picks if one is free. -/
  | cmReq (port : BitVec 2) (peer : Nat) (mtu : Nat) (qp : BitVec 12)
  /-- CM_RTU (R56): the queue pair, and whether a REJ came instead. -/
  | cmRtu (a : RepAnswer)
  /-- CM_DREQ (R56). -/
  | cmDreq (qp : BitVec 12)
  /-- ARP_REQUEST (R56): port and address asked for. -/
  | arpRequest (port : BitVec 2) (ip : BitVec 32)
  /-- NEIGHBOUR_DISCOVERY (R56). -/
  | neighbourDiscovery (port : BitVec 2) (ip : BitVec 128)
  /-- ICMP_ECHO (R56): port, address, the data to echo. -/
  | icmpEcho (port : BitVec 2) (ip : BitVec 128) (data : List Byte)
  /-- DHCP_ADDRESS (R56): port and the address taken. -/
  | dhcpAddress (port : BitVec 2) (ip : BitVec 128)
  /-- CNP_RECEIVE (R55). -/
  | cnpReceive (qp : BitVec 12)
  /-- OPEN_WINDOW (R69): command; window and rkey as chosen. -/
  | openWindow (c : Cmd) (win : BitVec 12) (rkey : BitVec 32)
  /-- CLOSE_WINDOW (R69). -/
  | closeWindow (c : Cmd)
  /-- CREATE_JOB (R69). -/
  | createJob (c : Cmd)
  /-- ALLOC_REGION (R72): command; clusters firmware chose, with their windows' base in 64 B units. -/
  | allocRegion (c : Cmd) (grant : List (ClusterId × BitVec 17))
  /-- LOAD (R324): command; firmware's placement of each context. -/
  | load (c : Cmd) (places : List Place)
  /-- START (R69). -/
  | start (c : Cmd)
  /-- END_JOB (R69). -/
  | endJob (c : Cmd)
  /-- HARVEST (R283). -/
  | harvest (c : Cmd)
  /-- COMMIT (R286). -/
  | commit (c : Cmd)
  /-- RETIRE (R69). -/
  | retire (c : Cmd) (plan : List Retiring)
  /-- FROST_COMMAND (R69). -/
  | frostCommand (c : Cmd)
  /-- FROST_READ (R69). -/
  | frostRead (c : Cmd)
  /-- STEP_COMMAND (R257). -/
  | stepCommand (c : Cmd)
  /-- RESUME_COMMAND (R259). -/
  | resumeCommand (c : Cmd)
  /-- SCAN_READ (R71). -/
  | scanRead (c : Cmd)
  /-- HEALTH (R24). -/
  | health (c : Cmd)
  /-- ATTEST (R30). -/
  | attest (c : Cmd)
  /-- TRANSPORT (R69). -/
  | transport (c : Cmd)
  /-- IMAGE_COMMIT (R28). -/
  | imageCommit (c : Cmd)
  /-- DOMAIN (R69). -/
  | domain (c : Cmd)
  /-- TIME (R69). -/
  | time (c : Cmd)
  /-- TIMER_DEADLINE (R88): core, context slot, timer. -/
  | timerDeadline (core : CoreId) (ctx : BitVec 2) (q : BitVec 2)
  /-- HARVEST_DUMP (R283): job, PA [51:12] frames for the copied tables, resume instant. -/
  | harvestDump (job : JobId) (tables : List (BitVec 52)) (resumeAt : Word64)
  /-- SUPPLY_RECOVERY (R16): supply in per cent. -/
  | supplyRecovery (pct : BitVec 8)
  /-- POWER_LOSS (R22): whether HBM stays in self-refresh. -/
  | powerLoss (hold : Bool)
  /-- DISCARDED_FRAME (R54): port. -/
  | discardedFrame (port : BitVec 2)
  /-- PER_BANK_REFRESH (R12): stack, pseudo-channel, bank, die above 85 °C. -/
  | perBankRefresh (stack : BitVec 4) (pc : BitVec 6) (bank : Nat) (hot : Bool)
  /-- REFRESH_MANAGEMENT (R12): stack, pseudo-channel, bank. -/
  | refreshManagement (stack : BitVec 4) (pc : BitVec 6) (bank : Nat)
deriving DecidableEq, Repr

end Sys2Proof
end

