-- ==== Sys2Proof/Machine/Format.lean ====
section
/-! DEFINITION. The 17 element formats (07 R186 to R189) and exact values of their elements. -/

namespace Sys2Proof.Machine

/-- The format a 5-bit code names; codes 17 to 31 are reserved (R186). -/
def fmtOf (c : Nat) : Option Fmt :=
  match c with
  | 0 => some .int8 | 1 => some .uint8 | 2 => some .int16 | 3 => some .uint16 | 4 => some .int32 | 5 => some .uint32
  | 6 => some .int64 | 7 => some .uint64 | 8 => some .fp32 | 9 => some .fp16 | 10 => some .bf16 | 11 => some .e4m3
  | 12 => some .e5m2 | 13 => some .code8 | 14 => some .x19 | 15 => some .e8m0 | 16 => some .mask1
  | _ => none

/-- The code of a format (R186). -/
def fmtCode (f : Fmt) : Nat :=
  match f with
  | .int8 => 0 | .uint8 => 1 | .int16 => 2 | .uint16 => 3 | .int32 => 4 | .uint32 => 5 | .int64 => 6 | .uint64 => 7
  | .fp32 => 8 | .fp16 => 9 | .bf16 => 10 | .e4m3 => 11 | .e5m2 => 12 | .code8 => 13 | .x19 => 14 | .e8m0 => 15
  | .mask1 => 16

/-- Bits of an element in storage (R116). -/
def fmtBits (f : Fmt) : Nat :=
  match f with
  | .int8 | .uint8 | .e4m3 | .e5m2 | .code8 | .e8m0 => 8
  | .int16 | .uint16 | .fp16 | .bf16 => 16
  | .int32 | .uint32 | .fp32 | .x19 => 32
  | .int64 | .uint64 => 64
  | .mask1 => 1

/-- Bytes of an element; 1 for MASK1, whose rows are rounded up to whole bytes (R116, R134). -/
def fmtSize (f : Fmt) : Nat := (fmtBits f + 7) / 8

/-- Codes 0 to 7 (R190). -/
def isInt (f : Fmt) : Bool := decide (fmtCode f ≤ 7)
/-- INT8, INT16, INT32, INT64. -/
def isSigned (f : Fmt) : Bool :=
  match f with
  | .int8 | .int16 | .int32 | .int64 => true
  | _ => false
/-- The arithmetic floats (R186). -/
def isArith (f : Fmt) : Bool :=
  match f with
  | .fp32 | .fp16 | .bf16 | .x19 => true
  | _ => false

/-- Parameters of a float format (R187): exponent bits, fraction bits, bias, the magnitude of the largest finite
value as a bit pattern, and whether infinity has an encoding. -/
structure FloatSpec where
  eb : Nat
  fb : Nat
  bias : Nat
  maxMag : Nat
  hasInf : Bool
deriving DecidableEq, Repr

/-- The table of R187; none for a format that is no float. -/
def floatSpec (f : Fmt) : Option FloatSpec :=
  match f with
  | .fp32 => some { eb := 8, fb := 23, bias := 127, maxMag := 0x7F7FFFFF, hasInf := true }
  | .fp16 => some { eb := 5, fb := 10, bias := 15, maxMag := 0x7BFF, hasInf := true }
  | .bf16 => some { eb := 8, fb := 7, bias := 127, maxMag := 0x7F7F, hasInf := true }
  | .x19 => some { eb := 8, fb := 10, bias := 127, maxMag := 0x3FBFF, hasInf := true }
  | .e4m3 => some { eb := 4, fb := 3, bias := 7, maxMag := 0x7E, hasInf := false }
  | .e5m2 => some { eb := 5, fb := 2, bias := 15, maxMag := 0x7B, hasInf := true }
  | _ => none

/-- Place of the sign bit. -/
def FloatSpec.signBit (p : FloatSpec) : Nat := p.eb + p.fb
/-- The canonical NaN (R187). -/
def FloatSpec.nan (p : FloatSpec) : Nat := if p.hasInf then p.maxMag + 1 + 2 ^ (p.fb - 1) else p.maxMag + 1
/-- The magnitude bits of an element pattern. -/
def FloatSpec.mag (p : FloatSpec) (x : Nat) : Nat := x % 2 ^ (p.eb + p.fb)
/-- The sign of an element pattern. -/
def FloatSpec.neg (p : FloatSpec) (x : Nat) : Bool := x.testBit (p.eb + p.fb)
/-- The pattern of a sign and a magnitude. -/
def FloatSpec.pack (p : FloatSpec) (neg : Bool) (mag : Nat) : Nat := (if neg then 2 ^ (p.eb + p.fb) else 0) + mag

/-- The value of an element: NaN, a signed infinity, or plus or minus m × 2^e, exactly. Zero keeps its sign. -/
inductive FVal where
  | nan
  | inf (neg : Bool)
  | fin (neg : Bool) (m : Nat) (e : Int)
deriving DecidableEq, Repr

/-- The exact value of an integer. -/
def valInt (x : Int) : FVal := .fin (decide (x < 0)) x.natAbs 0

/-- The value of a float pattern (R187). -/
def valFloat (p : FloatSpec) (x : Nat) : FVal :=
  let a := p.mag x
  if p.maxMag < a then
    if p.hasInf && a == p.maxMag + 1 then .inf (p.neg x) else .nan
  else
    let ex := a / 2 ^ p.fb
    let fr := a % 2 ^ p.fb
    if ex = 0 then .fin (p.neg x) fr (1 - (p.bias : Int) - p.fb)
    else .fin (p.neg x) (2 ^ p.fb + fr) ((ex : Int) - p.bias - p.fb)

/-- The integer an element of an integer format holds. -/
def intOf (f : Fmt) (x : Nat) : Int := if isSigned f then signedOf (fmtBits f) x else ((x % 2 ^ fmtBits f : Nat) : Int)
/-- Least integer of an integer format (R198). -/
def intMin (f : Fmt) : Int := if isSigned f then -(2 ^ (fmtBits f - 1) : Int) else 0
/-- Greatest integer of an integer format (R198). -/
def intMax (f : Fmt) : Int := if isSigned f then (2 ^ (fmtBits f - 1) : Int) - 1 else (2 ^ fmtBits f : Int) - 1
/-- An integer saturated to a format's range (R198). -/
def saturate (f : Fmt) (x : Int) : Int := if x < intMin f then intMin f else if intMax f < x then intMax f else x
/-- The pattern of an integer in a format, modulo 2^n. -/
def intPat (f : Fmt) (x : Int) : Nat := wrapTo (fmtBits f) x

/-- A context's code8 table: 256 containers of 32 bits, entry i in bits 32i+31:32i; none is the table of a context
that never loaded one (R199). -/
abbrev Code8 := Option (BitVec 8192)

/-- The X19 container of entry c (R199). -/
def code8Entry (t : Code8) (c : Nat) : Nat :=
  match t with
  | some b => (b.toNat >>> (32 * (c % 256))) % 2 ^ 32
  | none =>
    let i := c % 128
    let s := if c % 256 < 128 then 0 else 2 ^ 18
    -- i × 2^-6 as X19: the leading bit of i at place l
    if i = 0 then s
    else
      let l := Nat.log2 i
      s + (127 + l - 6) * 2 ^ 10 + (i * 2 ^ (10 - l) - 2 ^ 10)

/-- The X19 parameters (R187). -/
def x19Spec : FloatSpec := { eb := 8, fb := 10, bias := 127, maxMag := 0x3FBFF, hasInf := true }
/-- The FP32 parameters (R187). -/
def fp32Spec : FloatSpec := { eb := 8, fb := 23, bias := 127, maxMag := 0x7F7FFFFF, hasInf := true }

/-- The value of element pattern x in format f; a code8 element is decoded through its table (R198, R200). -/
def valOf (t : Code8) (f : Fmt) (x : Nat) : FVal :=
  match f with
  | .code8 => valFloat x19Spec (code8Entry t x)
  | .mask1 => valInt (x % 2 : Nat)
  | .e8m0 => if x % 256 = 255 then .nan else .fin false 1 (((x % 256 : Nat) : Int) - 127)
  | f =>
    match floatSpec f with
    | some p => valFloat p x
    | none => valInt (intOf f x)

end Sys2Proof.Machine
end

