-- ==== Sys2Proof/Machine/Float.lean ====
section
/-! DEFINITION. Exact arithmetic, the single rounding (07 R191 to R197) and the approximate functions (13 R360). -/

namespace Sys2Proof.Machine

/-- The rounding mode an RM field names (R194). -/
def rmodeOf (r : BitVec 2) : RMode := if r = 0 then .rne else if r = 1 then .rtz else if r = 2 then .rup else .rdn

/-- k plus one or not, for a value k + rem / 2^s of sign neg under a mode (R194). -/
def roundInc (md : RMode) (neg : Bool) (k rem s : Nat) : Nat :=
  match md with
  | .rne => if 2 ^ s < 2 * rem ∨ (2 * rem = 2 ^ s ∧ k % 2 = 1) then k + 1 else k
  | .rtz => k
  | .rup => if rem ≠ 0 ∧ neg = false then k + 1 else k
  | .rdn => if rem ≠ 0 ∧ neg = true then k + 1 else k

/-- The integer that m × 2^e rounds to under a mode (R194). -/
def roundInt (md : RMode) (neg : Bool) (m : Nat) (e : Int) : Nat :=
  if 0 ≤ e then m * 2 ^ e.toNat
  else
    let s := (-e).toNat
    if Nat.log2 m + 2 ≤ s then roundInc md neg 0 (if m = 0 then 0 else 1) 2
    else roundInc md neg (m >>> s) (m % 2 ^ s) s

/-- The magnitude pattern that m × 2^e (m nonzero) rounds to at a format's precision with an unbounded exponent
(R195, R196); a pattern above the largest finite one is an overflow. -/
def roundMag (p : FloatSpec) (md : RMode) (neg : Bool) (m : Nat) (e : Int) : Nat :=
  let emin : Int := 1 - p.bias
  let q : Int := max (e + Nat.log2 m) emin - p.fb
  (q + p.fb - emin).toNat * 2 ^ p.fb + roundInt md neg m (e - q)

/-- The pattern of an overflow (R196). -/
def overflowPat (p : FloatSpec) (md : RMode) (neg : Bool) : Nat :=
  if p.hasInf = false then p.pack neg p.maxMag
  else
    match md, neg with
    | .rne, _ => p.pack neg (p.maxMag + 1)
    | .rtz, _ => p.pack neg p.maxMag
    | .rup, true => p.pack neg p.maxMag
    | .rup, false => p.pack neg (p.maxMag + 1)
    | .rdn, true => p.pack neg (p.maxMag + 1)
    | .rdn, false => p.pack neg p.maxMag

/-- A value rounded once to a float format (R195, R196); E4M3 has no infinity and takes its largest value. -/
def roundFloat (p : FloatSpec) (md : RMode) (v : FVal) : Nat :=
  match v with
  | .nan => p.nan
  | .inf neg => p.pack neg (if p.hasInf then p.maxMag + 1 else p.maxMag)
  | .fin neg m e =>
    if m = 0 then p.pack neg 0
    else
      let a := roundMag p md neg m e
      if p.maxMag < a then overflowPat p md neg else p.pack neg a

/-- A value rounded to an integral value and saturated to an integer format (R198): NaN 0, infinities the ends. -/
def roundToInt (f : Fmt) (md : RMode) (v : FVal) : Int :=
  match v with
  | .nan => 0
  | .inf neg => if neg then intMin f else intMax f
  | .fin neg m e =>
    -- beyond 2^70 every format saturates, so the power is never formed
    if m ≠ 0 ∧ 70 < e + Nat.log2 m then (if neg then intMin f else intMax f)
    else
      let k : Int := roundInt md neg m e
      saturate f (if neg then -k else k)

/-- Sign of an exact zero sum of operands with these signs (R193). -/
def zeroSign (md : RMode) (a b : Bool) : Bool := if a = b then a else decide (md = .rdn)

/-- The exact sum; md matters for the sign of an exact zero only (R193). -/
def addVal (md : RMode) (a b : FVal) : FVal :=
  match a, b with
  | .nan, _ => .nan
  | _, .nan => .nan
  | .inf s, .inf t => if s = t then .inf s else .nan
  | .inf s, _ => .inf s
  | _, .inf t => .inf t
  | .fin s m e, .fin t n f =>
    if m = 0 ∧ n = 0 then .fin (zeroSign md s t) 0 0
    else if m = 0 then .fin t n f
    else if n = 0 then .fin s m e
    else
      let g := min e f
      let x : Int := (if s then -1 else 1) * (m * 2 ^ (e - g).toNat) + (if t then -1 else 1) * (n * 2 ^ (f - g).toNat)
      if x = 0 then .fin (decide (md = .rdn)) 0 0 else .fin (decide (x < 0)) x.natAbs g

/-- The exact product (R191). -/
def mulVal (a b : FVal) : FVal :=
  match a, b with
  | .nan, _ => .nan
  | _, .nan => .nan
  | .inf s, .inf t => .inf (s != t)
  | .inf s, .fin t n _ => if n = 0 then .nan else .inf (s != t)
  | .fin s m _, .inf t => if m = 0 then .nan else .inf (s != t)
  | .fin s m e, .fin t n f => .fin (s != t) (m * n) (e + f)

/-- The sign inverted. -/
def negVal (a : FVal) : FVal :=
  match a with
  | .nan => .nan
  | .inf s => .inf !s
  | .fin s m e => .fin (!s) m e

/-- A quotient of naturals (d nonzero) to 80 and more significant bits, the last of them sticky, so that any
rounding to 64 bits or fewer is the rounding of the exact quotient (R195). -/
def divSticky (s : Bool) (m d : Nat) (e : Int) : FVal :=
  let k := 80 + Nat.log2 d
  let q := (m * 2 ^ k) / d
  .fin s (2 * q + (if (m * 2 ^ k) % d = 0 then 0 else 1)) (e - k - 1)

/-- The quotient (R191, R357). -/
def divVal (a b : FVal) : FVal :=
  match a, b with
  | .nan, _ => .nan
  | _, .nan => .nan
  | .inf _, .inf _ => .nan
  | .inf s, .fin t _ _ => .inf (s != t)
  | .fin s _ _, .inf t => .fin (s != t) 0 0
  | .fin s m e, .fin t n f =>
    if n = 0 then (if m = 0 then .nan else .inf (s != t))
    else if m = 0 then .fin (s != t) 0 0
    else divSticky (s != t) m n (e - f)

/-- The integer square root by bits: the greatest r with r² at most x, among those below 2^n more than r. -/
def isqrtFrom (x : Nat) : Nat → Nat → Nat
  | 0, r => r
  | n + 1, r => let t := r + 2 ^ n; isqrtFrom x n (if t * t ≤ x then t else r)

/-- The integer square root. -/
def isqrt (x : Nat) : Nat := isqrtFrom x (Nat.log2 x / 2 + 1) 0

/-- The square root (R357). -/
def sqrtVal (a : FVal) : FVal :=
  match a with
  | .nan => .nan
  | .inf s => if s then .nan else .inf false
  | .fin s m e =>
    if m = 0 then .fin s 0 0
    else if s then .nan
    else
      let odd := e % 2 ≠ 0
      let m' := if odd then 2 * m else m
      let e' := if odd then e - 1 else e
      let x := m' * 2 ^ 160
      let r := isqrt x
      .fin false (2 * r + (if r * r = x then 0 else 1)) (e' / 2 - 81)

/-- Is a below b, as exact values with -0 equal to +0? NaN is unordered (R192). -/
def ltVal (a b : FVal) : Bool :=
  match a, b with
  | .nan, _ => false
  | _, .nan => false
  | .inf s, .inf t => s && !t
  | .inf s, .fin _ _ _ => s
  | .fin _ _ _, .inf t => !t
  | .fin s m e, .fin t n f =>
    let g := min e f
    let x : Int := (if s then -1 else 1) * (m * 2 ^ (e - g).toNat)
    let y : Int := (if t then -1 else 1) * (n * 2 ^ (f - g).toNat)
    decide (x < y)

/-- Is the value NaN? -/
def isNan (a : FVal) : Bool :=
  match a with
  | .nan => true
  | _ => false
/-- The sign of a value; false for NaN. -/
def signVal (a : FVal) : Bool :=
  match a with
  | .nan => false
  | .inf s => s
  | .fin s _ _ => s
/-- Is the value NaN or infinite? -/
def isSpecial (a : FVal) : Bool :=
  match a with
  | .fin _ _ _ => false
  | _ => true
/-- Is the value a zero? -/
def isZeroVal (a : FVal) : Bool :=
  match a with
  | .fin _ m _ => m == 0
  | _ => false
/-- The magnitude. -/
def absVal (a : FVal) : FVal :=
  match a with
  | .nan => .nan
  | .inf _ => .inf false
  | .fin _ m e => .fin false m e
/-- Equal as numbers; false with a NaN (R192, R359). -/
def eqVal (a b : FVal) : Bool := !isNan a && !isNan b && !ltVal a b && !ltVal b a

/-- maximumNumber (R193): a NaN is ignored beside a number, and -0 is below +0. -/
def maxNum (a b : FVal) : FVal :=
  if isNan a then b else if isNan b then a
  else if ltVal a b then b else if ltVal b a then a
  else if signVal a then b else a
/-- minimumNumber (R193). -/
def minNum (a b : FVal) : FVal :=
  if isNan a then b else if isNan b then a
  else if ltVal a b then a else if ltVal b a then b
  else if signVal a then a else b

/-- A value rounded to n significant bits, ties to even, exponent unbounded (R360). -/
def roundSig (n : Nat) (v : FVal) : FVal :=
  match v with
  | .fin s m e =>
    if m = 0 then v
    else
      let q := e + Nat.log2 m - (n - 1)
      .fin s (roundInt .rne s m (e - q)) q
  | v => v

/-- Fraction bits of the fixed-point series below (log 8). -/
def fix : Nat := 256

/-- ln 2 in fixed point: the sum of 1 / (k 2^k) from k = n down, truncated (log 8). -/
def ln2From : Nat → Nat
  | 0 => 0
  | k + 1 => ln2From k + 2 ^ fix / ((k + 1) * 2 ^ (k + 1))
/-- ln 2 with fix fraction bits. -/
def ln2 : Nat := ln2From 250

/-- exp of y, y below one in fixed point: terms n more of the series, t the current term (log 8). -/
def expFrom (y : Nat) : Nat → Nat → Nat → Nat
  | 0, _, _ => 0
  | n + 1, i, t => t + expFrom y n (i + 1) (t * y / 2 ^ fix / (i + 1))
/-- 2^f for f below one in fixed point. -/
def exp2Fix (f : Nat) : Nat := expFrom (f * ln2 / 2 ^ fix) 64 0 (2 ^ fix)

/-- 2 to the power of a finite value before the rounding of R360; irrational results carry a sticky bit (log 8). -/
def exp2Val (a : FVal) : FVal :=
  match a with
  | .nan => .nan
  | .inf s => if s then .fin false 0 0 else .inf false
  | .fin s m e =>
    if m = 0 then .fin false 1 0
    else if 10 ≤ e + Nat.log2 m then (if s then .fin false 1 (-2048) else .fin false 1 2048)
    else
      -- every operand is a multiple of 2^-149, so the fixed point holds it exactly
      let x : Int := (if s then -1 else 1) * (m * 2 ^ (e + fix).toNat : Nat)
      let n := x / (2 ^ fix : Int)
      let f := (x % (2 ^ fix : Int)).toNat
      if f = 0 then .fin false 1 n else .fin false (2 * exp2Fix f + 1) (n - fix - 1)

/-- n fraction bits of log2 x, 1 ≤ x < 2 in fixed point, by squaring (log 8). -/
def log2From : Nat → Nat → Nat → Nat
  | 0, _, acc => acc
  | n + 1, x, acc =>
    let y := x * x / 2 ^ fix
    if 2 ^ (fix + 1) ≤ y then log2From n (y / 2) (2 * acc + 1) else log2From n y (2 * acc)

/-- The base-two logarithm before the rounding of R360; irrational results carry a sticky bit (log 8). -/
def log2Val (a : FVal) : FVal :=
  match a with
  | .nan => .nan
  | .inf s => if s then .nan else .inf false
  | .fin s m e =>
    if m = 0 then .inf true
    else if s then .nan
    else
      let l := Nat.log2 m
      let k : Int := e + l
      if m = 2 ^ l then (if k = 0 then .fin false 0 0 else valInt k)
      else
        let fr := log2From 128 (m * 2 ^ (fix - l)) 0
        let x : Int := 2 * (k * 2 ^ 128 + fr) + 1
        .fin (decide (x < 0)) x.natAbs (-129)

/-- 1 / b (R360). -/
def rcpVal (a : FVal) : FVal := divVal (.fin false 1 0) a
/-- 1 / sqrt b (R360): +0 and -0 keep their sign in the infinity. -/
def rsqVal (a : FVal) : FVal :=
  match a with
  | .nan => .nan
  | .inf s => if s then .nan else .fin false 0 0
  | .fin s m e =>
    if m = 0 then .inf s
    else if s then .nan
    else
      let odd := e % 2 ≠ 0
      let m' := if odd then 2 * m else m
      let e' := if odd then e - 1 else e
      let k := 100 + Nat.log2 m'
      let y := isqrt (2 ^ (2 * k) / m')
      .fin false (2 * y + (if y * y * m' = 2 ^ (2 * k) then 0 else 1)) (-(e' / 2) - k - 1)

end Sys2Proof.Machine
end

