-- ==== Sys2Proof/Machine/Tile.lean ====
section
/-! DEFINITION. Tiles: 64 B of storage under a shape word (05 R115 to R121), residues (10 R263, R264) and element
access. -/

namespace Sys2Proof.Machine

/-- A tile: its storage and the fields of its shape word (R115). Rows and columns count from 1; a legal shape keeps
them within R116. -/
structure Tile where
  bytes : Storage
  fmt : Fmt
  rows : Nat
  cols : Nat
  vrows : Nat
  vcols : Nat
  residue : BitVec 8
  tag : Bool
deriving DecidableEq, Repr

/-- n modulo 255 of a number: the sum of its bytes modulo 255 (R263). -/
def residueOf (x : Nat) : BitVec 8 := BitVec.ofNat 8 (x % 255)

/-- Zero storage shaped 1×1 INT64 (R129), which is also what T0 reads as (R118). -/
def Tile.zero : Tile :=
  { bytes := 0, fmt := .int64, rows := 1, cols := 1, vrows := 1, vcols := 1, residue := 0, tag := false }

/-- The conditions of R116. -/
def Tile.legal (t : Tile) : Bool :=
  decide (1 ≤ t.rows ∧ t.rows ≤ 8 ∧ 1 ≤ t.cols ∧ t.cols ≤ 64 ∧ t.rows * t.cols * fmtBits t.fmt ≤ 512
    ∧ 1 ≤ t.vrows ∧ t.vrows ≤ t.rows ∧ 1 ≤ t.vcols ∧ t.vcols ≤ t.cols)

/-- The shape word as GSHAPE returns it (R115). -/
def Tile.shapeWord (t : Tile) : Nat :=
  t.residue.toNat * 2 ^ 24 + (if t.tag then 2 ^ 23 else 0) + fmtCode t.fmt * 2 ^ 18 + (t.rows - 1) * 2 ^ 15
    + (t.cols - 1) * 2 ^ 9 + (t.vrows - 1) * 2 ^ 6 + (t.vcols - 1)

/-- Does the residue match the storage? A stored 0xFF counts as 0 (R263). -/
def Tile.residueOk (t : Tile) : Bool := t.residue.toNat % 255 == t.bytes.toNat % 255

/-- A tile as an instruction reads it: tagged if its storage does not match its residue (R266). -/
def Tile.checked (t : Tile) : Tile := if t.residueOk then t else { t with tag := true }

/-- Raw element e of the storage in the tile's format, e counted in row-major order (R117). -/
def Tile.raw (t : Tile) (e : Nat) : Nat := (t.bytes.toNat >>> (e * fmtBits t.fmt)) % 2 ^ fmtBits t.fmt

/-- The same shape. -/
def Tile.sameShape (t u : Tile) : Bool := t.rows == u.rows && t.cols == u.cols && t.fmt == u.fmt
/-- A 1×1 tile (R327). -/
def Tile.scalar (t : Tile) : Bool := t.rows == 1 && t.cols == 1
/-- Is (i, j) in the valid region (R119)? -/
def Tile.valid (t : Tile) (i j : Nat) : Bool := decide (i < t.vrows ∧ j < t.vcols)
/-- Is element e, in row-major order of the shape, in the valid region (R119)? -/
def Tile.validE (t : Tile) (e : Nat) : Bool := t.valid (e / t.cols) (e % t.cols)
/-- Number of elements of the shape. -/
def Tile.count (t : Tile) : Nat := t.rows * t.cols
/-- Valid bytes: the b of R326, MASK1 rounded up. -/
def Tile.validBytes (t : Tile) : Nat := (t.vrows * t.vcols * fmtBits t.fmt + 7) / 8
/-- Valid elements in row-major order. -/
def Tile.cells (t : Tile) : List Nat := (List.range t.count).filter t.validE

/-- Storage with elements xs packed from element 0 in w-bit places. -/
def packBits (w : Nat) (xs : List Nat) : Nat := xs.foldr (fun x acc => x % 2 ^ w + 2 ^ w * acc) 0

/-- A shape whose storage is one value for each element, zero beyond; the ragged region is zero (R119, R328). -/
def Tile.build (shape : Tile) (f : Nat → Nat) (tag : Bool) : Tile :=
  let b := packBits (fmtBits shape.fmt) ((List.range shape.count).map fun e => if shape.validE e then f e else 0)
  { shape with bytes := BitVec.ofNat 512 b, residue := residueOf (b % 2 ^ 512), tag := tag }

/-- The same tile with other storage and the residue formed afresh. -/
def Tile.withBytes (t : Tile) (b : Storage) : Tile := { t with bytes := b, residue := residueOf b.toNat }

/-- The same storage with the ragged region zero and bytes beyond the shape kept (R117, R331). -/
def Tile.clearRagged (t : Tile) : Tile :=
  let w := fmtBits t.fmt
  let inside := packBits w ((List.range t.count).map fun e => if t.validE e then t.raw e else 0)
  t.withBytes (BitVec.ofNat 512 ((t.bytes.toNat >>> (t.count * w)) <<< (t.count * w) + inside))

/-- A 1×1 tile of an integer format. -/
def Tile.ofInt (f : Fmt) (x : Int) (tag : Bool) : Tile :=
  Tile.build { Tile.zero with fmt := f } (fun _ => intPat f x) tag
/-- A 1×1 INT64 tile holding a 64-bit value. -/
def Tile.ofWord (x : Word64) (tag : Bool) : Tile :=
  { Tile.zero with bytes := x.setWidth 512, residue := residueOf x.toNat, tag := tag }

/-- The low 64 bits of the storage. -/
def Tile.word (t : Tile) : Word64 := t.bytes.setWidth 64

/-- The value of a 1×1 integer tile extended to 64 bits by its own format (R327, R329). -/
def Tile.control (t : Tile) : Option Int := if t.scalar && isInt t.fmt then some (intOf t.fmt (t.raw 0)) else none

/-- A 1×1 INT64 or UINT64 tile: a pointer, a route word, a CSR value. -/
def Tile.isWord (t : Tile) : Bool := t.scalar && (t.fmt == .int64 || t.fmt == .uint64)

/-- A shape word's fields as a shape; none when it breaks R116. Other bits are ignored (R331). -/
def shapeFromBits (x : Nat) : Option Tile :=
  match fmtOf (bitsOf x 22 18) with
  | none => none
  | some f =>
    let t : Tile := { Tile.zero with
      fmt := f, rows := bitsOf x 17 15 + 1, cols := bitsOf x 14 9 + 1, vrows := bitsOf x 8 6 + 1, vcols := bitsOf x 5 0 + 1 }
    if t.legal then some t else none

/-- The bytes of a number, little-endian. -/
def bytesOf : Nat → Nat → List Byte
  | 0, _ => []
  | n + 1, x => BitVec.ofNat 8 (x % 256) :: bytesOf n (x / 256)
/-- The number of little-endian bytes. -/
def natOf (l : List Byte) : Nat := l.foldr (fun b acc => b.toNat + 256 * acc) 0
/-- Bytes a to a + n - 1 of a tile's storage (R117). -/
def Tile.byteRange (t : Tile) (a n : Nat) : List Byte := bytesOf n (t.bytes.toNat >>> (8 * a))

/-- One step of the slot's LFSR (R123). -/
def lfsrStep (s : BitVec 32) : BitVec 32 :=
  let t := s >>> 1
  if s.getLsbD 0 then t ^^^ 0x80200003 else t
/-- An LFSR write: a zero state is never kept (R123). -/
def lfsrFix (s : BitVec 32) : BitVec 32 := if s = 0 then 1 else s

end Sys2Proof.Machine
end

