-- ==== Sys2Proof/Machine/Convert.lean ====
section
/-! DEFINITION. Conversions between formats (07 R196 to R205) and the block scales of MX formats (R202 to R204). -/

namespace Sys2Proof.Machine

/-- code8 encoding of a value of sign sg under rm (R201). -/
def encodeCode8 (t : Code8) (md : RMode) (v : FVal) : Nat :=
  let hasNan := isNan (valFloat x19Spec (code8Entry t 0x7F))
  let top := if hasNan then 0x7E else 0x7F
  let mag (i : Nat) : FVal := absVal (valFloat x19Spec (code8Entry t i))
  let sg := if signVal v then 0x80 else 0
  let a := absVal v
  if isNan v then (if hasNan then 0x7F else 0x00)
  else if ltVal (mag top) a then sg + (if hasNan then 0x7F else top)
  else if !(ltVal (mag 0) a) then sg
  else
    let lo := ((List.range (top + 1)).filter fun i => !(ltVal a (mag i))).foldl Nat.max 0
    let hi := lo + 1
    if !(ltVal (mag lo) a) then sg + lo
    else
      let dlo := addVal .rne a (negVal (mag lo))
      let dhi := addVal .rne (mag hi) (negVal a)
      let i :=
        match md with
        | .rne => if ltVal dlo dhi then lo else if ltVal dhi dlo then hi else if lo % 2 = 0 then lo else hi
        | .rtz => lo
        | .rup => if sg = 0 then hi else lo
        | .rdn => if sg = 0 then lo else hi
      sg + i

/-- A value as an E8M0 element (R198). -/
def toE8m0 (v : FVal) : Nat :=
  match v with
  | .nan => 0xFF
  | .inf _ => 0xFF
  | .fin _ m e => if m = 0 then 0 else (min (max (e + Nat.log2 m + 127) 0) 254).toNat

/-- A value converted to format d under a mode (R198). -/
def encodeVal (t : Code8) (d : Fmt) (md : RMode) (v : FVal) : Nat :=
  match d with
  | .code8 => encodeCode8 t md v
  | .mask1 => if isZeroVal v then 0 else 1
  | .e8m0 => toE8m0 v
  | d =>
    match floatSpec d with
    | some p => roundFloat p md v
    | none => intPat d (roundToInt d md v)

/-- Element pattern x of format s converted to format d; an equal format is copied, X19 under R188 (R198). -/
def convElem (t : Code8) (s d : Fmt) (md : RMode) (x : Nat) : Nat :=
  if s = d then (if s = .x19 then x % 2 ^ 19 else x % 2 ^ fmtBits s)
  else encodeVal t d md (valOf t s x)

/-- The stochastic rounding of a value to a format after the LFSR stepped to state s (R197). -/
def stochElem (t : Code8) (d : Fmt) (s : BitVec 32) (v : FVal) : Nat :=
  let r := s.toNat % 2 ^ 24
  match v with
  | .nan => encodeVal t d .rtz .nan
  | .inf neg => encodeVal t d .rtz (.inf neg)
  | .fin neg m e =>
    match floatSpec d with
    | none =>
      -- an integer destination: ulp 1, among all integers
      if m = 0 then 0
      else if 70 < e + Nat.log2 m then intPat d (if neg then intMin d else intMax d)
      else
        let lo := roundInt .rtz neg m e
        let dd := if 0 ≤ e then 0 else
          let k := (-e).toNat
          ((m % 2 ^ k) * 2 ^ 24) >>> k
        let k : Int := (if r < dd then lo + 1 else lo : Nat)
        intPat d (saturate d (if neg then -k else k))
    | some p =>
      if m = 0 then p.pack neg 0
      else
        let emin : Int := 1 - p.bias
        let q : Int := max (e + Nat.log2 m) emin - p.fb
        let k := (q - e).toNat
        let dd := if q ≤ e then 0 else if Nat.log2 m + 26 < k then 0 else ((m % 2 ^ k) * 2 ^ 24) >>> k
        let lo := roundMag p .rtz neg m e
        p.pack neg (Nat.min (if r < dd then lo + 1 else lo) p.maxMag)

/-- Must the RM of CVT be 00, because no element of the pair can round (R363)? -/
def cvtExact (s d : Fmt) : Bool :=
  s == d || d == .mask1 || d == .e8m0 || s == .mask1 || (isInt s && isInt d) ||
  ((s == .int8 || s == .uint8) && isArith d) || ((s == .int16 || s == .uint16) && d == .fp32) ||
  ((s == .fp16 || s == .bf16) && (d == .fp32 || d == .x19)) || (s == .x19 && d == .fp32) ||
  ((s == .e4m3 || s == .e5m2) && isArith d) || (s == .e8m0 && (d == .fp32 || d == .bf16 || d == .x19))

/-- May the code8 image be loaded (R199)? Entry i is 32 bits at 32i. -/
def code8Ok (b : BitVec 8192) : Bool :=
  let ent := code8Entry (some b)
  let rising := (List.range 0x7E).all fun i => decide (ent i < ent (i + 1))
  (List.range 256).all (fun i => decide (ent i < 2 ^ 19)) &&
  (List.range 0x7F).all (fun i => decide (ent i ≤ x19Spec.maxMag)) && rising &&
  (ent 0x7F == 0x3FE00 || decide (ent 0x7E < ent 0x7F ∧ ent 0x7F ≤ x19Spec.maxMag)) &&
  (List.range 0x80).all (fun i => ent (0x80 + i) == ent i ||| 2 ^ 18)

/-- The value of an element of an MX format: MX INT8 is k × 2^-6 (R204). -/
def valMx (f : Fmt) (x : Nat) : FVal :=
  match f with
  | .int8 => match valInt (intOf .int8 x) with
    | .fin s m e => .fin s m (e - 6)
    | v => v
  | f => valOf none f x

/-- The exponent of the largest MX element value (R204). -/
def mxEmax (f : Fmt) : Int :=
  match f with
  | .e4m3 => 8
  | .e5m2 => 15
  | _ => 0

/-- The scale of a block from its unmasked values (R204). -/
def mxScale (f : Fmt) (vs : List FVal) : Nat :=
  if vs.any isSpecial then 0xFF
  else
    match vs.foldl (fun a v => maxNum a (absVal v)) (.fin false 0 0) with
    | .fin _ m e => if m = 0 then 0x7F else (min (max (e + Nat.log2 m - mxEmax f + 127) 0) 254).toNat
    | _ => 0xFF

/-- v × 2^k exactly. -/
def scaleVal (v : FVal) (k : Int) : FVal :=
  match v with
  | .fin s m e => if m = 0 then v else .fin s m (e + k)
  | v => v

/-- An element quantised to an MX format by a scale, saturating (R204, R366). -/
def mxQuant (f : Fmt) (md : RMode) (scale : Nat) (v : FVal) : Nat :=
  if scale = 0xFF then (match floatSpec f with
    | some p => p.nan
    | none => 0)
  else
    match f, floatSpec f with
    | .int8, _ => intPat .int8 (roundToInt .int8 md (scaleVal v (127 - (scale : Int) + 6)))
    | _, some p =>
      match scaleVal v (127 - (scale : Int)) with
      | .nan => p.nan
      | .inf neg => p.pack neg p.maxMag
      | .fin neg m e =>
        if m = 0 then p.pack neg 0 else p.pack neg (Nat.min (roundMag p md neg m e) p.maxMag)
    | _, none => 0

/-- An MX element times a scale, rounded once to an arithmetic float (R366). -/
def mxDequant (s d : Fmt) (md : RMode) (scale : Nat) (x : Nat) : Nat :=
  match floatSpec d with
  | none => 0
  | some p => if scale = 0xFF then p.nan else roundFloat p md (scaleVal (valMx s x) ((scale : Int) - 127))

end Sys2Proof.Machine
end

