-- ==== Sys2Proof/Machine/Alu.lean ====
section
/-! DEFINITION. The tile ALU seen from one slot: operands, masks, the elementwise, shaping and reducing forms
(12 R325 to R330, 07 R206), with tags under 10 R269. -/

namespace Sys2Proof.Machine

/-- What an instruction of the tile ALU reads: the sixteen tiles (T0 as R118 says), the masks, the LFSR and the
context's code8 table. -/
structure AluIn where
  tiles : Vector Tile 16
  masks : Vector (BitVec 64) 4
  lfsr : BitVec 32
  code8 : Code8
deriving DecidableEq, Repr

/-- What it writes: tiles in order, one mask register, the LFSR; whether it raises the UE event of R270; and the
cycles it holds the tile ALU, 0 if it does not use it (R326, R354). -/
structure AluOut where
  tiles : List (TReg × Tile)
  mask : Option (MReg × BitVec 64)
  lfsr : Option (BitVec 32)
  ue : Bool
  cycles : Nat
deriving DecidableEq, Repr

/-- An instruction's answer: what it writes, or the cause it traps with. -/
abbrev AluRes := Except Cause AluOut

/-- One tile written. -/
def AluOut.one (a : TReg) (t : Tile) (cycles : Nat) : AluOut :=
  { tiles := [(a, t)], mask := none, lfsr := none, ue := false, cycles := cycles }
/-- One mask register written. -/
def AluOut.maskOnly (a : MReg) (m : BitVec 64) (cycles : Nat) : AluOut :=
  { tiles := [], mask := some (a, m), lfsr := none, ue := false, cycles := cycles }
/-- Nothing written but a UE event. -/
def AluOut.ueOnly (cycles : Nat) : AluOut := { tiles := [], mask := none, lfsr := none, ue := true, cycles := cycles }
/-- Nothing at all. -/
def AluOut.none_ : AluOut := { tiles := [], mask := none, lfsr := none, ue := false, cycles := 0 }

/-- Cycles for b bytes at 8 B per cycle (R326). -/
def aluCycles (b : Nat) : Nat := Nat.max 1 ((b + 7) / 8)

/-- Tile n. -/
def AluIn.tile (x : AluIn) (n : TReg) : Tile := x.tiles[n.toNat]'(by have := n.isLt; omega)
/-- Mask register n; M0 reads as all ones (R120). -/
def AluIn.mask (x : AluIn) (n : MReg) : BitVec 64 :=
  if n = 0 then BitVec.allOnes 64 else x.masks[n.toNat]'(by have := n.isLt; omega)
/-- Bit e of the operand mask; K = 0 masks nothing (R120, R121). -/
def AluIn.bit (x : AluIn) (k : MReg) (e : Nat) : Bool := k = 0 || (x.mask k).getLsbD e

/-- A check that traps with a cause when it fails. -/
def need (c : Cause) (p : Bool) : Except Cause Unit := if p then .ok () else .error c

/-- A source operand as an elementwise instruction sees it: broadcast or not, and its reading at element e. -/
structure Src where
  t : Tile
  bc : Bool
  rd : Nat → Nat

/-- The reading at element e, broadcast or not. -/
def Src.at_ (s : Src) (e : Nat) : Nat := if s.bc then s.rd 0 else s.rd e
/-- Is the operand present at element e (R327)? -/
def Src.present (s : Src) (e : Nat) : Bool := s.bc || s.t.validE e

/-- A source of the integer groups: low n bits, a broadcast of any integer format extended first (R327). -/
def intSrc (ref t : Tile) : Except Cause Src :=
  if t.scalar then
    if isInt t.fmt then .ok ⟨t, true, fun _ => wrapTo (fmtBits ref.fmt) (intOf t.fmt (t.raw 0))⟩ else .error .shape
  else if t.sameShape ref then .ok ⟨t, false, t.raw⟩ else .error .shape
/-- A shift amount: the element extended to 64 bits by its own format, read unsigned (R343). -/
def shiftSrc (ref t : Tile) : Except Cause Src :=
  if t.scalar then
    if isInt t.fmt then .ok ⟨t, true, fun _ => wrapTo 64 (intOf t.fmt (t.raw 0))⟩ else .error .shape
  else if t.sameShape ref then .ok ⟨t, false, fun e => wrapTo 64 (intOf t.fmt (t.raw e))⟩ else .error .shape
/-- A source of the other groups: a broadcast has the reference format (R327, R353). -/
def sameSrc (ref t : Tile) : Except Cause Src :=
  if t.scalar then (if t.fmt = ref.fmt then .ok ⟨t, true, t.raw⟩ else .error .shape)
  else if t.sameShape ref then .ok ⟨t, false, t.raw⟩ else .error .shape
/-- The scale operand of FSCL: any integer format, the reference's rows and columns or 1×1, extended to 64 bits
(R357). -/
def scaleSrc (ref t : Tile) : Except Cause Src :=
  if !isInt t.fmt then .error .shape
  else if t.scalar then .ok ⟨t, true, fun _ => wrapTo 64 (intOf t.fmt (t.raw 0))⟩
  else if t.rows = ref.rows ∧ t.cols = ref.cols then .ok ⟨t, false, fun e => wrapTo 64 (intOf t.fmt (t.raw e))⟩
  else .error .shape
/-- An immediate as a broadcast operand (R345). -/
def immSrc (v : Nat) : Src := ⟨Tile.zero, true, fun _ => v⟩

/-- R121: K names M1 to M3 on a tile of more than 64 elements. -/
def maskFits (k : MReg) (t : Tile) : Bool := k = 0 || decide (t.count ≤ 64)

/-- Elements of the shape's valid region that the mask leaves out. -/
def AluIn.skips (x : AluIn) (k : MReg) (t : Tile) : Bool := t.cells.any fun e => !x.bit k e

/-- The elementwise form (R327): op takes the element index, the operands' readings and Ta's old element. oldTag
says that Ta is itself an operand (R269). -/
def elementwise (x : AluIn) (a : TReg) (k : MReg) (srcs : List Src) (readsA : Bool) (op : Nat → List Nat → Nat → Nat)
    (mult : Nat) : AluRes :=
  let ta := x.tile a
  if !maskFits k ta then .error .shape
  else
    let f (e : Nat) : Nat :=
      if x.bit k e && srcs.all (·.present e) then op e (srcs.map (·.at_ e)) (ta.raw e) else ta.raw e
    let tag := srcs.any (·.t.tag) || (readsA && ta.tag) || (x.skips k ta && ta.tag)
    .ok (AluOut.one a (ta.build f tag) (mult * aluCycles ta.validBytes))

/-- The shaping form (R328): s gives the result shape, f its elements; tag is the tag of what was read. -/
def shaping (x : AluIn) (a : TReg) (k : MReg) (s : Tile) (f : Nat → Nat) (tag : Bool) (cycles : Nat) : AluRes :=
  let ta := x.tile a
  if !s.legal then .error .shape
  else if !maskFits k s then .error .shape
  else if k ≠ 0 ∧ !ta.sameShape s then .error .shape
  else
    let g (e : Nat) : Nat := if x.bit k e then f e else ta.raw e
    .ok (AluOut.one a (s.build g (tag || (x.skips k s && ta.tag))) cycles)

/-- A shape with everything valid. -/
def shapeOf (f : Fmt) (rows cols : Nat) : Tile :=
  { Tile.zero with fmt := f, rows := rows, cols := cols, vrows := rows, vcols := cols }
/-- A shape with a valid region. -/
def shapeOfV (f : Fmt) (rows cols vrows vcols : Nat) : Tile :=
  { Tile.zero with fmt := f, rows := rows, cols := cols, vrows := vrows, vcols := vcols }

/-- One level of the pairwise tree (R206). -/
def treeLevel {α : Type} (node : α → α → α) : List (Option α) → List (Option α)
  | some a :: some b :: l => some (node a b) :: treeLevel node l
  | none :: b :: l => b :: treeLevel node l
  | some a :: none :: l => some a :: treeLevel node l
  | l => l

/-- The tree, level by level; n bounds the number of levels (R206). -/
def treeFold {α : Type} (node : α → α → α) : Nat → List (Option α) → Option α
  | _, [] => none
  | _, [x] => x
  | 0, x :: _ => x
  | n + 1, l => treeFold node n (treeLevel node l)

/-- The reduction of a leaf sequence; a tile has at most 512 leaves (R206). -/
def treeReduce {α : Type} (node : α → α → α) (l : List (Option α)) : Option α := treeFold node 10 l

/-- Leaves of row i in ascending columns, absent where masked or ragged (R207). -/
def rowLeaves {α : Type} (x : AluIn) (k : MReg) (t : Tile) (i : Nat) (leaf : Nat → Option α) : List (Option α) :=
  (List.range t.vcols).map fun j => let e := i * t.cols + j; if x.bit k e then leaf e else none

/-- The row or whole form (R368): shape and leaf sequences, one for each element of the result's valid region. -/
def reduceForm {α : Type} (x : AluIn) (a : TReg) (k : MReg) (t : Tile) (f : Fmt) (leaf : Nat → Option α) :
    Tile × List (List (Option α)) :=
  let rows := (List.range t.vrows).map fun i => rowLeaves x k t i leaf
  if (x.tile a).scalar then (shapeOf f 1 1, [rows.flatten])
  else (shapeOfV f t.rows 1 t.vrows 1, rows)

/-- A reduction's result: the i-th value in element i of S (R368). -/
def reduced (a : TReg) (s : Tile) (vals : List Nat) (tag : Bool) (b : Nat) : AluRes :=
  if !s.legal then .error .shape
  else .ok (AluOut.one a (s.build (fun e => vals.getD e 0) tag) (aluCycles b))

end Sys2Proof.Machine
end

