-- ==== Sys2Proof/Machine/Types.lean ====
section
/-! DEFINITION. The records that State is made of, cores and clusters first: slots, contexts, queues, engines, memory
events (chapters 04 to 06, 08 to 10, 14, 15). All plain data. -/

namespace Sys2Proof.Machine

/-- A sparse table: a value for each listed number, a default for the others. -/
abbrev SMap (α : Type) := List (Nat × α)

/-- PROGRESS (R124). -/
structure Progress where
  live : Bool
  row : BitVec 3
  tile : BitVec 4
deriving DecidableEq, Repr

/-- What a STALLED slot waits on (R97); its instruction stays unissued, or issued where the rule says so. -/
inductive Wait where
  /-- earlier loads that have not written a tile the instruction names (R325) -/
  | tiles
  /-- a stream queue that is empty or full, or a closing stream (R159, R387) -/
  | stream
  /-- a full NI output buffer, timed store or return ring (R389, R392, R102) -/
  | output
  /-- a reply credit (R393) -/
  | credit
  /-- a free retained record (R271) -/
  | retain
  /-- the tile ALU, at work on an earlier instruction (R326) -/
  | alu
  /-- the tile ALU's allowance alone (R14, R15) -/
  | metered
  /-- a code-cache line (R97, R150) -/
  | code (asid : BitVec 16) (line : BitVec 48)
  /-- a translation in the miss queue (R145) -/
  | xlate (asid : BitVec 16) (vpn : BitVec 32)
  /-- the reply to a remote row (R378) -/
  | remote (req : Nat)
  /-- a free place in the island queue (R178) -/
  | island
  /-- a free place in the copy engine (R181) -/
  | copyPlace
  /-- the island's answer to ACCCFG (R403); some answer once it has come: true is PERM -/
  | accCfg (answer : Option Bool)
  /-- earlier accesses performed before the invalidation of CINV (R410) -/
  | drain
  /-- the accesses that precede a remote row (R214) -/
  | edges (ids : List Nat)
  /-- the completion of TLBI (R148): its ASID, its address if it names one, whether it reaches the domain -/
  | tlbi (asid : Option (BitVec 16)) (va : Option (BitVec 48)) (domain : Bool)
  /-- RESTORING of CTXLD (R414) -/
  | ctxld (ctx : BitVec 2)
  /-- the loads of a target slot (R239) -/
  | target (slot : BitVec 2)
  /-- loads and streams of a handler at DONE (R351) -/
  | done
  /-- the compare buffer of a pair (R278, R279) -/
  | pair
  /-- a value that the leader has not sent yet (R277) -/
  | leader
  /-- HARV (R415) and STEP (R418): the job, and for STEP the stepped core and slot -/
  | harv (job : JobId)
  | step (core : CoreId) (slot : BitVec 2)
  /-- the rows of FMTTAB, or an ATOM of the compare buffer that overlaps a read (R384, R278) -/
  | memory (ids : List Nat)
deriving DecidableEq, Repr

/-- The states of R97; launching holds the cycle of selection, frozen what resume makes of the slot (R260): none a
boundary, some a wait; unhandled marks a slot frozen by an unhandled trap (R247). -/
inductive SlotSt where
  | free
  | launching (selected : Nat)
  | ready
  | stalled (w : Wait)
  | trapped
  | frozen (w : Option Wait) (unhandled : Bool)
deriving DecidableEq, Repr

/-- Data on its way into a tile: the events still out, whether every row is sent, the tags so far, whether the mask
left a tagged element unwritten (R269), whether the tile is then pushed to a write stream (R159), and the
instruction count of its handler. -/
structure Pend where
  tile : TReg
  evs : List Nat
  sent : Bool
  tag : Bool
  keep : Bool
  push : Bool
  n : Nat
deriving DecidableEq, Repr

/-- A FENCE still in force: its class mask, kind and the earlier events that its edges name (R219). -/
structure FenceRec where
  mask : BitVec 4
  kind : BitVec 2
  before : List Nat
deriving DecidableEq, Repr

/-- A row-granular instruction as its issue left it, which its later rows go by with no new check (R125, R128): the pointer, its window
(R135), the rows with their offsets and lengths, whether its data are discarded (R270) and whether that has been told, and the tiles and masks it
read. -/
structure Going where
  ptr : Word64
  win : Option Word64
  rows : List (Nat × Int × Nat)
  sink : Bool
  told : Bool
  tiles : Vector Tile 16
  masks : Vector (BitVec 64) 4
deriving DecidableEq, Repr

/-- What launched a handler (R133 origin). -/
inductive Origin where
  | message | flag | counter | tag | timer
deriving DecidableEq, Repr

/-- A launch selected by the dispatcher and not yet made (R96): the context slot, the selector, the handler entry's
code address, receive format and budget, T1, the message if any, its origin, its index, and the LFSR and MSGINFO for
a trailing slot (R277). -/
structure Launch where
  ctx : BitVec 2
  sel : BitVec 12
  code : BitVec 48
  fmt : Fmt
  budget : Nat
  arg : Word64
  msg : Option Msg
  origin : Origin
  index : BitVec 4
  trailer : Option (BitVec 32 × Word64)
deriving DecidableEq, Repr

/-- A handler slot (R97, R114 to R133, R236, R253). uid names the handler it holds; freeAt is the first cycle in which a slot whose DONE
retired counts as FREE (R97); hist holds each retirement's job, ns and cycle (R253); binds are the tiles that its own
stream instructions have bound to write streams, which a trailing slot and a re-run go by (R277, R280);
window is the rank last resolved for a row-granular
instruction with its entry (R135), going that instruction while it is partly done; regs holds registers that firmware wrote over (R151);
stepping is the instruction count at which the last single step since launch or resume began, stepFrom the state it began in, stepStatus how
the last one ended (R257). -/
structure Slot where
  st : SlotSt
  uid : Nat
  ctx : BitVec 2
  pc : BitVec 48
  tiles : Vector Tile 16
  masks : Vector (BitVec 64) 4
  rstack : List (BitVec 46)
  lfsr : BitVec 32
  progress : Progress
  budget : Nat
  setAside : Nat
  allowance : Nat
  launchBudget : Nat
  cause : BitVec 8
  causeFrost : Bool
  fhandler : Bool
  resumeAt : BitVec 46
  taddr : Word64
  msginfo : Word64
  skid : Word64
  launch : Option Launch
  replied : Bool
  pend : List Pend
  fences : List FenceRec
  window : Option (Nat × Word64)
  going : Option Going
  regs : SMap Word64
  popped : List TReg
  icount : Nat
  hist : List (JobId × Nat × Nat)
  freeAt : Nat
  trailing : Bool
  rowOnly : Bool
  binds : List TReg
  stepping : Option Nat
  stepFrom : SlotSt
  stepStatus : BitVec 8
deriving DecidableEq, Repr

/-- Residency of a context on its core (R80). -/
inductive CtxSt where
  | restoring | active | saving
deriving DecidableEq, Repr

/-- A resident context (R80 to R88, R199, R413): trigger words with the cycles each has held (R93), counters, flags,
timers, table, quotas, sequences, credits, selectors, its rank's window, its code8 table with the one before and the
cycle of the change (R384), the Frost registers as they read on this core (R252), its pair word (R276), registers that firmware wrote over (R151). -/
structure Ctx where
  st : CtxSt
  job : JobId
  asid : BitVec 16
  trig : Vector (BitVec 32) 32
  held : Vector Nat 32
  cval : Vector (BitVec 32) 16
  ctgt : Vector (BitVec 32) 16
  carmed : BitVec 16
  flags : BitVec 16
  qarmed : BitVec 4
  qdead : Vector Word64 4
  table : BitVec 48
  tableCount : BitVec 16
  credits : Nat
  budget : Nat
  ageShift : Nat
  retainQ : BitVec 8
  spillQ : BitVec 32
  spill : BitVec 52
  sendSeq : BitVec 16
  retainSeq : BitVec 16
  supSel : BitVec 12
  faultSel : BitVec 12
  window : Word64
  code8 : Code8
  code8Old : Code8
  code8At : Nat
  frozen : Bool
  frostCause : Word64
  frostOrigin : Word64
  frostTime : Word64
  frostSeq : Word64
  evictAsked : Bool
  evicting : Bool
  pair : Word64
  trailing : Bool
  regs : SMap Word64
deriving DecidableEq, Repr

/-- An entry of the inbound queue (R90): its message, context slot, stamp, waiting cycles w (R93), place of entry
(R94), and whether it came from an arrival ring (R92). -/
structure QEntry where
  msg : Msg
  ctx : BitVec 2
  stamp : Nat
  w : Nat
  ord : Nat
  drained : Bool
deriving DecidableEq, Repr

/-- A message in an NI output buffer or timed store: the slot and handler that sent it, the memory events and matrix
entries its release waits for (R220, R221), the instant of a SENDAT (R392), whether its destination is still a rank and
core of a route word (R76), whether it goes to its own context without entering the mesh (R395), and whether its header
keeps its own sequence number and takes no credit (REPLY, HDR), whether a single step sent it (R258), and its place in the order of issue
(R221). -/
structure OutMsg where
  msg : Msg
  slot : BitVec 2
  uid : Nat
  evs : List Nat
  posts : List Nat
  at_ : Option Word64
  route : Bool
  loop : Bool
  asIs : Bool
  stepped : Bool
  ord : Nat
deriving DecidableEq, Repr

/-- A held write of the reply buffer (R255): the return it came by. -/
structure HeldRet where
  slot : BitVec 2
  id : Nat
deriving DecidableEq, Repr

/-- A core (R114): slots, context slots, inbound queue, output buffer, timed store, round-robin place, the cycle of
the last issue and dispatch plus one (0 for never), the cycle until which the tile ALU is held, entry counter of the queue with the cycle
of the last entry plus one (R94), the reply buffer of a freeze. -/
structure Core where
  slots : Vector Slot 4
  ctxs : Vector (Option Ctx) 4
  queue : List QEntry
  out : List OutMsg
  timed : List OutMsg
  rr : BitVec 2
  issued : Nat
  dispatched : Nat
  aluUntil : Nat
  ord : Nat
  niAt : Nat
  replies : List HeldRet
deriving DecidableEq, Repr

/-- Who performs a memory event or asks for a remote row (R209): a handler, a stream, a copy, a gateway for a numbered request, the Ethernet
block for a queue pair. -/
inductive Owner where
  | slot (core : CoreId) (slot : BitVec 2) (uid : Nat)
  | stream (cluster : ClusterId) (uid : Nat)
  | copy (cluster : ClusterId) (uid : Nat)
  | gate (request : Nat)
  | rdma (qp : Nat)
deriving DecidableEq, Repr

/-- An operation of R381 on one element: FN[4:0], width in bits, signedness of AINCB, operand v and compare value a,
whether a value returns, .ORD, and the error tag. -/
structure AtomOp where
  fn : BitVec 5
  size : Nat
  signed : Bool
  v : Nat
  a : Nat
  wants : Bool
  ord : Bool
  tag : Bool
deriving DecidableEq, Repr

/-- What an event does to its granule: reads it, writes the listed bytes, or applies an operation to the element that
starts at the given byte. -/
inductive EvKind where
  | read
  | write (bytes : List (Nat × Byte))
  | atom (off : Nat) (op : AtomOp)
deriving DecidableEq, Repr

/-- Where the bytes of a read go in a tile: (byte of the granule, byte of the storage). -/
abbrev ByteMap := List (Nat × Nat)

/-- One memory event (R212): its granule's key in the part's byte space (a multiple of 16), what it does, its owner,
class, scope of its access, the least scope that holds its point of coherence (R211), the events that precede it,
where its data go, its place of arrival at its Sorrel or atomic unit (log 10), the ECC units that its access writes
whole (R266), the instruction count of its handler, and the job and address that an error in it is told under (R172). -/
structure MemEv where
  id : Nat
  key : Nat
  kind : EvKind
  bytes : List Nat
  owner : Owner
  cls : BitVec 2
  scope : BitVec 2
  near : BitVec 2
  after : List Nat
  dst : TReg
  map : ByteMap
  arrived : Option Nat
  clears : List Nat
  n : Nat
  job : JobId
  va : Word64
deriving DecidableEq, Repr

/-- Data on the way back (R325): the event's id, its owner, the tile and the bytes with their places, the tag, and the
format of the 1×16 tile that an ACCRD fills (R401). -/
structure Ret where
  id : Nat
  owner : Owner
  dst : TReg
  bytes : List (Nat × Byte)
  tag : Bool
  shape : Option Fmt
deriving DecidableEq, Repr

/-- Fields of a stream or copy descriptor that say how it completes (R156, R385). -/
structure Completion where
  done : BitVec 2
  ctr : BitVec 4
  rscope : BitVec 2
  route : Word64
  arg : Word64
deriving DecidableEq, Repr

/-- The state of a stream (R388). -/
inductive StreamSt where
  | open_ | faulted | closing
deriving DecidableEq, Repr

/-- A row of a stream, or the granule of its index list that starts with a row's index, whose events are out (R160, R162). -/
structure Fly where
  row : Nat
  evs : List Nat
  index : Bool
deriving DecidableEq, Repr

/-- A tile of a read stream that is begun and not complete: its number, what it holds, and its rows still to come (R160). -/
structure Fill where
  t : Nat
  tile : Tile
  left : Nat
deriving DecidableEq, Repr

/-- A stream (R155 to R164): the descriptor, the shape of its tiles, rows N, the queue of tiles, the tiles begun, the row and the index next to
be requested, tiles popped or pushed, the events it waits for at its start (R161), what is out now, its fault, whether it is tried again, and the
tile that a write stream writes again before it takes another (R163). -/
structure Stream where
  uid : Nat
  slot : BitVec 2
  handler : Nat
  tile : TReg
  kind : BitVec 2
  shape : Tile
  rows : Nat
  base : Word64
  strides : List Int
  counts : List Nat
  indexed : Bool
  index : Word64
  ifmt : BitVec 5
  op : BitVec 6
  cls : BitVec 2
  scope : BitVec 2
  fin : Completion
  window : Word64
  idxWindow : Word64
  wait : BitVec 4
  waits : List Nat
  queue : List Tile
  filling : List Fill
  nextRow : Nat
  nextIdx : Nat
  moved : Nat
  flying : List Fly
  idx : List (Nat × Nat)
  st : StreamSt
  faultTile : Nat
  faultSub : BitVec 8
  faultAddr : Word64
  retry : Bool
  redo : Option Nat
  ueSent : List Nat
deriving DecidableEq, Repr

/-- The states of R165. -/
inductive EctxSt where
  | resident | draining (since : Nat) | parking | parked | restoring
deriving DecidableEq, Repr

/-- Fennel's state for one context (R154): core and context slot, job, residency and since when it holds its place,
open streams, whether it is for an eviction, whether its context is frozen and whether the Frost found it on its way out (R185). -/
structure Ectx where
  core : CoreId
  ctx : BitVec 2
  job : JobId
  st : EctxSt
  since : Nat
  streams : List Stream
  forEviction : Bool
  frozen : Bool
  asleep : Bool
deriving DecidableEq, Repr

/-- Is an engine context at work in Fennel (R165)? -/
def Ectx.resident (e : Ectx) : Bool := match e.st with
  | .resident | .draining _ => true
  | _ => false
/-- An accumulator (R173): owner, format (true FP32), cells of 32 bits, error tag, held B with its format, K and tag (R176). -/
structure Acc where
  owner : Option JobId
  fp32 : Bool
  cells : BitVec 32768
  tag : Bool
  heldB : Option (List Nat × Fmt × Nat × Bool)
deriving DecidableEq, Repr

/-- Work for the island (R178): a captured post with its operands' elements, code8 decoded to X19, and row bitmaps
(R400), an ACCRD, an ACCZ, an ACCCFG behind earlier entries or decided at acceptance, true for PERM (R403), a post that
the island discards at its turn (R176). -/
inductive IslandOp where
  | post (a : List Nat) (af : Fmt) (maps : List Nat) (b : Option (List Nat × Fmt)) (sp : BitVec 2) (tr zf tag : Bool)
  | accrd (row0 : Nat) (half : Bool) (first : TReg) (n : BitVec 2) (tag : Bool)
  | accz
  | config (v : BitVec 2)
  | answered (perm : Bool)
  | drop (c : Cause)
deriving DecidableEq, Repr

/-- An entry of the island queue or of a slot's held matrix entries: the accumulator, the issuing core, slot, handler
and job, the events that a post waits for (R229), whether its job did not own the accumulator when the island
accepted it (R403), and whether a single step issued it (R258). -/
structure IslandEntry where
  id : Nat
  acc : BitVec 3
  op : IslandOp
  core : CoreId
  slot : BitVec 2
  uid : Nat
  ctx : BitVec 2
  job : JobId
  evs : List Nat
  lost : Bool
  stepped : Bool
deriving DecidableEq, Repr

/-- A copy (R181, R385): owner, pointers, length, class, scope, what it waits for, completed sectors, its fault, whether
it is parked (R184) and whether an uncorrectable error was met (R183); memory events and remote requests of the sector under way, and
its source's bytes (with their tags) once they are all read. -/
structure Copy where
  uid : Nat
  core : CoreId
  ctx : BitVec 2
  job : JobId
  slot : BitVec 2
  dst : Word64
  src : Word64
  length : Nat
  cls : BitVec 2
  scope : BitVec 2
  fin : Completion
  wait : BitVec 4
  waits : List Nat
  sectors : Nat
  faulted : Bool
  parked : Bool
  ue : Bool
  dstWindow : Word64
  srcWindow : Word64
  evs : List Nat
  reqs : List Nat
  taken : Option (List (Byte × Bool))
deriving DecidableEq, Repr

/-- A translation: ASID, first VA and size of the page, its frame, its bits X, W, C, D (R141, R144). -/
structure Tlb where
  asid : BitVec 16
  va : BitVec 48
  size : Nat
  frame : BitVec 52
  x : Bool
  w : Bool
  c : Bool
  d : Bool
deriving DecidableEq, Repr

/-- A non-leaf entry in the walk cache (R144): its ASID, level, the VA bits it covers and the next table. -/
structure WalkEntry where
  asid : BitVec 16
  level : Nat
  va : BitVec 48
  next : BitVec 52
deriving DecidableEq, Repr

/-- A walk in flight (R145): the pair it is for, the level and the table it reads next, and the tables that it has found. -/
structure WalkRun where
  asid : BitVec 16
  vpn : BitVec 32
  level : Nat
  table : Nat
  seen : List (Nat × Nat)
deriving DecidableEq, Repr

/-- Who waits for a translation (R145): a slot, a stream, a copy, the code cache, a gateway or the Ethernet block. -/
inductive Waiter where
  | slot (core : CoreId) (slot : BitVec 2)
  | stream (uid : Nat)
  | copy (uid : Nat)
  | code
  | edge
deriving DecidableEq, Repr

/-- The outcome of a walk that faulted, kept for one access that waited on it (R146): the cause and, for XLATE_UE,
the physical address of the entry. -/
structure WalkFault where
  who : Waiter
  asid : BitVec 16
  vpn : BitVec 32
  cause : Cause
  addr : BitVec 52
deriving DecidableEq, Repr

/-- An access in a cluster's miss queue (R145): the page, what is asked of it, who waits, and whether its walk is over, so that it is to be
tried again. -/
structure Miss where
  asid : BitVec 16
  vpn : BitVec 32
  write : Bool
  fetch : Bool
  who : Waiter
  served : Bool
deriving DecidableEq, Repr

/-- A line of the code cache (R150): ASID, line address, bytes, and whether it arrived tagged or its page lacks X. -/
structure CodeLine where
  asid : BitVec 16
  va : BitVec 48
  bytes : Storage
  tag : Bool
deriving DecidableEq, Repr

/-- The clock gate of a Frost's origin cluster (R249): none, or the cycle it ends, and the job of the origin. -/
structure Gate where
  endAt : Nat
  job : JobId
deriving DecidableEq, Repr

/-- Faults of a cluster over the last hour of Thyme (R288): the instants of the latest 8 uncorrectable and residue errors, of the latest 4 route-check
failures and of the latest 4,096 corrected errors, newest first, and whether a threshold was ever reached. -/
structure Wear where
  faults : List Nat
  routes : List Nat
  fixed : List Nat
  worn : Bool
deriving DecidableEq, Repr

/-- A cluster: code cache, micro-TLB, miss queue, Fennel's engine contexts with the order of service requests
(R166), the stream whose row was requested last with the cycle and the requests made in it (R160), the island, copies, held matrix entries of its slots, its clock gate and last capture with its instant, job and FROST_SEQ (R249, R71), its health
counts (R287) and whether it is retired. -/
structure Cluster where
  code : List CodeLine
  codeWaits : List (BitVec 16 × BitVec 48 × Option (Cause × BitVec 52))
  tlb : List Tlb
  misses : List Miss
  faults : List WalkFault
  ectxs : List Ectx
  wants : List (CoreId × BitVec 2)
  fennelLast : Nat
  fennelAt : Nat
  fennelIn : Nat
  accs : Vector Acc 8
  island : List IslandEntry
  heldPosts : List IslandEntry
  copies : List Copy
  gate : Option Gate
  gateAt : Option (Nat × JobId)
  capture : Option (Nat × Word64 × JobId × Word64)
  ue : Nat
  residue : Nat
  corrected : Nat
  route : Nat
  wear : Wear
  bistFail : Bool
  retired : Bool
  bistAt : Nat
deriving DecidableEq, Repr

/-- A chiplet: last-level TLB, walk cache (R144), miss table and walks in flight (R145), WEAR_LIFE with the minute of Thyme of its last update (R25), and its
lowest months field since the self-test began (R23). -/
structure Chiplet where
  tlb : List Tlb
  walk : List WalkEntry
  table : List (BitVec 16 × BitVec 32)
  walks : List WalkRun
  wearLife : Word64
  wearMinute : Option Nat
  wearLow : Option (BitVec 16)
deriving DecidableEq, Repr

/-- A message in the mesh (R105): where it is, the ring it travels in (true for dimension Y; true for rising coordinates)
or none at its source, its virtual network, and whether it is for the Ethernet block (R64). -/
structure Flight where
  id : Nat
  msg : Msg
  x : Nat
  y : Nat
  ring : Option (Bool × Bool)
  vn : BitVec 1
  host : Bool
deriving DecidableEq, Repr

/-- A record of a spill area (R91): the message, its stamp, the w it has by now (R93) and whether eviction put it there. -/
structure SpillRec where
  msg : Msg
  stamp : Nat
  w : Nat
  evict : Bool
deriving DecidableEq, Repr

/-- A destination held for a context after a NACK (R102), since the last NACK's cycle: its core, and what messages to it carry in their
destination core field, the route word's rank and core index where it is on another part (R40). -/
structure Hold where
  part : PartId
  core : CoreId
  word : CoreId
  since : Nat
deriving DecidableEq, Repr

/-- A retained record (R271 to R274): the message, its place in the retain area, injections made, whether the last is out of the output buffer, and
the cycles since then. -/
structure Retained where
  msg : Msg
  place : Nat
  sent : Bool
  tries : Nat
  age : Nat
deriving DecidableEq, Repr

/-- States of a directory entry (R80, R82). -/
inductive DirSt where
  | absent | resident | evicted | lost
deriving DecidableEq, Repr

/-- A context directory entry with the context's spill area and retain area (R82, R91, R256, R271; log 9): its
physical address, core, job, state, slot while resident, spill area, pages of the save area, retain area (a byte of the vault slice of its cluster),
arrival ring, return ring, overflow
records, refused-source list, whether it is refusing and whether the frozen-arrival buffer set that (R103, R260), folded sums, the frozen-arrival buffer
with its header's counts, the indexes of the oldest records, retained records,
holds, the destination core fields of messages sent to other parts by their sequence numbers (R102), and the parts of the context kept out of its image: parked engine state and copies. -/
structure Dir where
  addr : BitVec 52
  core : CoreId
  job : JobId
  st : DirSt
  slot : BitVec 2
  spill : BitVec 52
  save : List (BitVec 52)
  retain : Nat
  spillQ : Nat
  ring : List SpillRec
  ret : List Msg
  overflow : List Msg
  refused : List (PartId × CoreId)
  refusing : Bool
  byBuffer : Bool
  pendAdd : Vector (BitVec 32) 16
  pendFlags : BitVec 16
  fbuf : List SpillRec
  aHead : Nat
  rHead : Nat
  fHead : Nat
  fpeak : Nat
  frefused : Nat
  fcount : BitVec 24
  retained : List Retained
  holds : List Hold
  sentTo : SMap CoreId
  parked : List Ectx
  copies : List Copy
  asked : Bool
  retainQ : Nat
  pair : Word64
  trailing : Bool
deriving DecidableEq, Repr

end Sys2Proof.Machine
end

