-- ==== Sys2Proof/Machine/TypesSys.lean ====
section
/-! DEFINITION. The records that State is made of, continued: shadow pairs, remote operations, jobs and firmware,
Lamcon, Ethernet, power, the root of trust (chapters 01 to 03, 10, 14). -/

namespace Sys2Proof.Machine

/-- A remote row a slot or an engine waits for (R41, R378): its number, the requester, where loaded bytes go
(byte of the data, byte of the tile), the row's number and pointer, the reply once it came: status, tag and data. A store's map
names the bytes that it writes (log 25). -/
structure RemReq where
  id : Nat
  owner : Owner
  dst : TReg
  map : List (Nat × Nat)
  row : Nat
  addr : Word64
  reply : Option (Nat × Bool × List Byte)
deriving DecidableEq, Repr

/-- A value that a paired leader took from outside its slot (R277): a tile as a load, an
atomic, an ACCRD or a pop left it, or a word. -/
inductive OutVal where
  | tile (a : TReg) (t : Tile)
  | word (w : Word64)
deriving DecidableEq, Repr

/-- An effect of a slot: everything that leaves its tiles, masks, stack, LFSR and PROGRESS (R278), as data, so that a
pair's leader can hold it unperformed. -/
inductive Eff where
  /-- memory events of one row -/
  | events (evs : List MemEv)
  /-- a remote row -/
  | remote (m : Msg) (req : RemReq)
  /-- a message through the NI with its release mask and scope -/
  | send (o : OutMsg) (mask : BitVec 4) (scope : BitVec 2)
  | cset (c : BitVec 4) (v : BitVec 32)
  | carm (c : BitVec 4) (v : BitVec 32)
  | fclr (c : BitVec 4)
  | twen (w : BitVec 5) (v : BitVec 32)
  | tmr (q : BitVec 2) (v : Word64)
  | push (a : TReg) (t : Tile)
  | bind (s : Stream)
  | sclose (a : TReg)
  | copy (c : Copy)
  /-- a matrix entry with the class mask of R229 -/
  | matrix (e : IslandEntry) (mask : BitVec 4)
  | csrw (c : BitVec 12) (v : Word64)
  | fmttab (b : BitVec 8192)
  | cinv (asid : BitVec 16) (line : Option (BitVec 48)) (n : Nat)
  | slotwr (s t : BitVec 2) (n : BitVec 8) (v : Tile)
  | rft (t s : BitVec 2)
  /-- the UE event of R270 -/
  | ue (tile : TReg) (row : Nat) (addr : Word64)
deriving DecidableEq, Repr

/-- A shadow pair's running handler (R276 to R281): the leading slot and handler, the trailing slot once launched, the
leader's unmatched effects with their signatures and instruction counts, the trailer's unmatched signatures, values
sent and not yet taken, the log since the checkpoint with its number of entries, what a re-run still finds in it, the
values that released atomics and remote rows returned
(R279), checkpoint of both slots and the address of its CKPT, the last released signature, and the instruction count with the
kind (0 CKPT, 1 DONE, 2 inserted CKPT) at which each side waits; 0 running, 1 retrying, 2 stopped. -/
structure Pair where
  core : CoreId
  slot : BitVec 2
  uid : Nat
  job : JobId
  tcore : CoreId
  tslot : Option (BitVec 2)
  buf : List (BitVec 32 × Eff × Nat)
  sigs : List (BitVec 32)
  vals : List (Nat × OutVal)
  logVals : List (Nat × OutVal)
  logSigs : List (BitVec 32)
  replayVals : List (Nat × OutVal)
  replaySigs : List (BitVec 32)
  oldVals : List (Nat × TReg × List (Nat × Byte) × Bool)
  replies : List (Nat × Word64 × Nat × Bool × List Byte)
  snapL : Slot
  snapT : Slot
  count : Nat
  lastSig : BitVec 32
  ckptPc : BitVec 48
  atL : Option (Nat × Nat)
  atT : Option (Nat × Nat)
  state : BitVec 2
deriving DecidableEq, Repr

/-- A launch record on its way to the trailer (R277), counted among the 16, with the trailer's slot once that is LAUNCHING for it. -/
structure LaunchRec where
  core : CoreId
  slot : BitVec 2
  uid : Nat
  launch : Launch
  lfsr : BitVec 32
  info : Word64
  tiles : Vector Tile 16
  into : Option (BitVec 2)
deriving DecidableEq, Repr

/-- A job's Frost on this part (R247 to R261): count, the registers' values, detection cycle, the cores not yet
reached, whether a resume is pending and its instant, cores whose resume is under way (R260), counts already resumed, whether a resume was cancelled by the
power-fail quiesce. -/
structure Frost where
  count : BitVec 24
  cause : Word64
  origin : Word64
  time : Word64
  seq : Word64
  detected : Nat
  active : Bool
  waiting : List CoreId
  resume : Option Word64
  resuming : List CoreId
  resumed : List (BitVec 24)
  byWarning : Bool
deriving DecidableEq, Repr

/-- A harvested generation (R282, R283): its number, the slot it lies in, the copied level-1 table, the vault windows
as bytes, accumulators, contexts, slots, directory entries with their context images, copies and engine contexts dumped, handlers of shadow pairs with their
launch records. -/
structure Generation where
  number : BitVec 32
  place : BitVec 1
  root : BitVec 52
  vault : List (Nat × Byte)
  accs : List (ClusterId × BitVec 3 × Acc)
  slots : List (CoreId × BitVec 2 × Slot)
  ctxs : List (CoreId × BitVec 2 × Ctx)
  dirs : List Dir
  images : List (List Byte)
  pairs : List Pair
  launches : List LaunchRec
  engines : List (ClusterId × List Ectx × List Copy)
  ranks : List Word64
deriving DecidableEq, Repr

/-- A job on the part (R69, R76, R82): ASID, quotas, selectors, its rank table, the windows bound in order, frames of
its pool, loaded contexts, initial messages with their instants, GLOBAL pointer of the orphan buffer (R290), Frost, generations, a MAP whose TLBI is not complete (R459), pages
granted by each rkey, overflow pages left (R104), returned initial messages and destinations held for them (R324). -/
structure Job where
  id : JobId
  asid : BitVec 16
  budget : Nat
  ageShift : Nat
  spillQ : Nat
  retainQ : Nat
  supSel : BitVec 12
  faultSel : BitVec 12
  ranks : List Word64
  region : List ClusterId
  windows : List (BitVec 12)
  loaded : Bool
  started : Bool
  initial : List HostRec
  startAt : Word64
  injected : List Nat
  orphanPtr : Word64
  frost : Frost
  gens : Option Generation × Option Generation
  genCount : BitVec 32
  committed : Option (BitVec 32)
  harvesting : Bool
  harvestCmd : Option Cmd
  harvestKeep : Bool
  harvestCommit : Bool
  harvestCut : Bool
  mapWait : Option (Cmd × BitVec 32)
  frames : List (BitVec 52)
  overflowLeft : Nat
  fwRet : List Msg
  fwHolds : List Hold
  parts : List PartId
deriving DecidableEq, Repr

/-- The fields of an entry of the ASID table (R139). -/
structure AsidEntry where
  valid : Bool
  harvest : Bool
  root : BitVec 52
  altRoot : BitVec 52
deriving DecidableEq, Repr

/-- Firmware's memory (R67 to R72, R82, R18): jobs, directory entries, commands received and not performed with the number
of those received, residency requests, relayed Frost commands received (R75), debug mode for captures, free frames, the quiesce of a power-fail warning. -/
structure Fw where
  jobs : List Job
  dirs : List Dir
  cmds : List Cmd
  orders : Nat
  requests : List (CoreId × JobId)
  relays : List FrostCtl
  debugMode : Bool
  freeFrames : List (BitVec 52)
  quiesce : Bool
deriving DecidableEq, Repr

/-- A message that waits at a port for a buffer of its channel (R36), with the fields of its packet's header. -/
structure Queued where
  vc : BitVec 2
  pathSeq : BitVec 32
  srcGw : BitVec 8
  hops : BitVec 8
  msg : Msg
deriving DecidableEq, Repr

/-- A Lamcon port (R31, R36, R44 to R48): status fields, the part's number and the domain key table as they were at its bring-up (R69), the link's
next sequence numbers, what waits for a channel's buffer, retry buffer, consecutive
replays of its first packet, failed retrains, keys written (write-only), the epoch it sends in and the one it received last with whether
the other one's keys are newer, nonce counts, key establishment, the instant of the last Thyme word, the link header of the last packet (R38). -/
structure Port where
  st : BitVec 4
  partner : PartId
  partnerPort : BitVec 4
  lanes : BitVec 4
  far : Bool
  secEvent : Bool
  self : PartId
  table : List (PartId × List Byte)
  retrains : Nat
  replays : Nat
  sendSeq : BitVec 12
  recvSeq : BitVec 12
  queue : List Queued
  retry : List Packet
  replayed : Nat
  failed : Nat
  tagFail : Bool
  keys : SMap (List Byte)
  epoch : BitVec 1
  recvEpoch : BitVec 1
  recvNew : Bool
  counts : SMap Nat
  round : BitVec 32
  keTries : Nat
  keWait : Bool
  keSince : Nat
  keDigest : List Byte
  keKem : Nat
  loaded : Bool
  lastThyme : Nat
  captured : List Byte
deriving DecidableEq, Repr

/-- What a source gateway keeps for one destination part (R35, R39): next path_seq, unacknowledged packets, packets
that wait, whether a path change holds new ones. -/
structure GwOut where
  gw : BitVec 6
  part : PartId
  next : BitVec 32
  unacked : List (BitVec 32 × BitVec 2 × Msg)
  waiting : List (BitVec 2 × Msg)
  held : Bool
deriving DecidableEq, Repr

/-- What the destination part keeps for a source gateway (R39): base and accepted values above it. -/
structure GwIn where
  part : PartId
  gw : BitVec 8
  base : BitVec 32
  accepted : List (BitVec 32)
deriving DecidableEq, Repr

/-- A built-in request that a gateway has accepted and not answered (R41): its message, its number, whether its accesses have begun, and those still
to be performed. -/
structure Request where
  msg : Msg
  id : Nat
  begun : Bool
  evs : List Nat
deriving DecidableEq, Repr

/-- Lamcon as the part sees it: ports, port sets (R32), gateways, built-in requests accepted and not performed (R41; their dstCore,
zero on the wire, holds the place of the gateway that accepted them),
whether the Thyme reference can be reached, has been reached, and is this part (R52), Frost words seen (R50), what was sent on each port. -/
structure Lam where
  ports : Vector Port 12
  sets : SMap (BitVec 12)
  outs : List GwOut
  ins : List GwIn
  requests : List Request
  reference : Bool
  path : Bool
  adopted : Bool
  sent : List (BitVec 4 × Packet)
  control : List (BitVec 4 × FrostWord)
  resumes : List (BitVec 4 × JobId × BitVec 24 × Word64)
  acks : List (BitVec 4 × BitVec 12)
  ends : List (PartId × BitVec 8 × BitVec 32)
  frostSeen : List (JobId × Word64)
  keOut : List (BitVec 4 × List Byte)
  thymeOut : List (BitVec 4 × Word64)
deriving DecidableEq, Repr

/-- States of a queue pair (R55, R56). -/
inductive QpSt where
  | free | wait | ready | error
deriving DecidableEq, Repr

/-- A queue pair (R55 to R58): its state, path MTU, the port that it came by, the packet sequence number it started with, requests that wait in
order behind a page or behind its memory events, those events (R212), and whether it is freed once they have ended. -/
structure Qp where
  st : QpSt
  mtu : Nat
  port : BitVec 2
  psn : BitVec 24
  held : List Instr
  evs : List Nat
  leaving : Bool
deriving DecidableEq, Repr

/-- A message window with its mailbox (R59 to R66): queue pair, management right, job bound, key, the bytes of its ring with the slots written and not yet looked at, last
accepted sequence number, records accepted and not written, the mailbox and its counts, refused messages with the core that refused each and the cycle of its last NACK and the
stop they bring, the last records sent to other parts, the shared secret of its session (R60), whether it closes once its replies are written. -/
structure Window where
  open_ : Bool
  qp : BitVec 12
  mgmt : Bool
  job : JobId
  key : List Byte
  rkey : BitVec 32
  ring : SMap Byte
  fresh : List Nat
  last : BitVec 64
  mbRkey : BitVec 32
  mbAddr : Word64
  slots : Nat
  produced : Nat
  consumed : Nat
  pendingRecs : List (List Byte)
  nacked : List (Msg × CoreId × Nat)
  abroad : List (BitVec 64 × Msg)
  secret : List Byte
  stopped : Bool
  closing : Bool
  owed : Nat
deriving DecidableEq, Repr

/-- A range an rkey names (R57, R459). -/
structure Rkey where
  rkey : BitVec 32
  job : JobId
  va : BitVec 48
  len : Nat
deriving DecidableEq, Repr

/-- What the Ethernet block sends: answers on a queue pair, writes to host memory (rkey, address, bytes), connection
and address traffic (port and kind), NAKs. -/
inductive EthOut where
  | answer (qp : BitVec 12) (bytes : List Byte)
  | write (rkey : BitVec 32) (addr : Word64) (bytes : List Byte)
  | nak (qp : BitVec 12) (access : Bool)
  | readData (qp : BitVec 12) (bytes : List Byte)
  | cm (port : BitVec 2) (kind : String) (qp : BitVec 12) (mtu : Nat) (psn : BitVec 24)
  | cnp (qp : BitVec 12)
  | addr (port : BitVec 2) (kind : String) (data : List Byte)
deriving DecidableEq, Repr

/-- The Ethernet block (R54 to R66): ports up, discarded frames, addresses, queue pairs with their MTU, windows,
rkeys, what was sent, throttled queue pairs. -/
structure Eth where
  up : BitVec 4
  discarded : SMap Nat
  addrs : SMap (List (BitVec 128))
  qps : SMap Qp
  throttled : List (BitVec 12)
  windows : SMap Window
  rkeys : List Rkey
  out : List EthOut
deriving DecidableEq, Repr

/-- States of an image slot (R27). -/
inductive ImageSt where
  | active | pending | spare
deriving DecidableEq, Repr

/-- Where the part stands between power-up and service (R21, R27, R28). -/
inductive Phase where
  | reset | recovery | testing | service
deriving DecidableEq, Repr

/-- The root of trust (R26 to R30) and base flash: phase, image slots with the bytes written there, measurement and version running, minimum
version, transport flag, health report, domain key table and MAC addresses. -/
structure Rot where
  phase : Phase
  slots : Vector (ImageSt × SMap Byte) 2
  measure : List Byte
  version : BitVec 32
  minVersion : BitVec 32
  transport : Bool
  report : List Byte
  domain : List (PartId × List Byte)
  macs : Vector (BitVec 48) 4
deriving DecidableEq, Repr

/-- Power (R14 to R20): supply reading, stretch, flags, the Thyme at which the supply fell below 95 % or rose again,
the allowance at full envelope (log 15), the allowance that the last refill granted, and the credits of each cluster that has spent some of it. -/
structure Power where
  supply : BitVec 8
  stretch : BitVec 8
  warn : Bool
  warnSeen : Bool
  lowSince : Option Nat
  highSince : Option Nat
  full : Nat
  granted : Nat
  quarter : Bool
  credits : SMap Nat
  refillAt : Nat
deriving DecidableEq, Repr

/-- The HBM controllers (R12): corrected and uncorrected counts, all-bank refreshes made at initialisation, each bank's
refreshes with the cycle of its last one, its open row and its activations since it was last managed, and how often it was
managed (log 37), self-refresh, hot stacks, and ECC units, 32 B codewords of HBM and 8 B words of the vault by their first byte's key (R266): those
that are uncorrectable, and those with an error that a read corrects (log 56). -/
structure Hbm where
  corrected : SMap Nat
  uncorrected : SMap Nat
  allBank : Nat
  refreshed : SMap Nat
  refreshAt : SMap Nat
  openRow : SMap Nat
  acts : SMap Nat
  managed : SMap Nat
  hot : BitVec 16
  hold : Bool
  bad : List Nat
  soft : List Nat
deriving DecidableEq, Repr

/-- Time (R1, R7, R17, R52): cycles since power-up, Thyme in ns, its fraction in 1/768 ns, and the ns it holds back
while the part is ahead of the reference. -/
structure Clk where
  cycle : Nat
  thyme : Word64
  frac : Nat
  hold : Nat
deriving DecidableEq, Repr

/-- An occurrence of the environment or a choice of timing (log 2): it happens at the first step at or after its
cycle. -/
structure Sched where
  at_ : Nat
  ev : Instr
deriving DecidableEq, Repr

/-- The mesh (R105): messages in flight, and the marked buffer of each ring and network that has left its first place
(log 16). -/
structure Mesh where
  flights : List Flight
  marks : SMap Nat
deriving DecidableEq, Repr

end Sys2Proof.Machine
end

