-- ==== Sys2Proof/Machine/State.lean ====
section
/-! DEFINITION. The state of one part (module), its reset, and why a step can stop. -/

namespace Sys2Proof.Machine

/-- The part. Tables list only entries that differ from their reset value. mem is the byte space of HBM (physical
addresses) and of the vault slices (from vaultBase), sorted by address, no byte zero: an unlisted byte reads as zero
(log 1). cur is the slot whose instruction step runs. sched, autorun, nextId and freeCnt are the model's own. -/
structure State where
  clk : Clk
  sched : List Sched
  autorun : Bool
  cur : CoreId × BitVec 2
  nextId : Nat
  freeCnt : Nat
  part : PartId
  power : Power
  rot : Rot
  hbm : Hbm
  mem : List Host.Cell
  cores : SMap Core
  clusters : SMap Cluster
  chiplets : SMap Chiplet
  memq : List MemEv
  rets : List Ret
  rems : List RemReq
  mesh : Mesh
  pairs : List Pair
  launches : List LaunchRec
  fw : Fw
  lam : Lam
  eth : Eth
deriving DecidableEq, Repr

/-- Why the machine stops with a fault. -/
inductive Fault where
  /-- Raised by MEMORY_EVENT_PERFORM for a store or an operation at a device address at which the spec gives no
  register (R143, log 20). Safe: the hardware does something there that no rule states. -/
  | noRegister
deriving DecidableEq, Repr

/-- Why a step has no meaning. -/
inductive Refusal where
  /-- Raised by exec for an instruction whose meaning is not written. Safe. -/
  | notModelled (mnemonic : String)
deriving DecidableEq, Repr

/-- First key of the vault slices in the byte space: above every physical address (R138). -/
def vaultBase : Nat := 2 ^ 52

/-- A slot that holds no handler. Registers without a stated reset are zero, the LFSR one (log 4). -/
def Slot.reset : Slot :=
  { st := .free, uid := 0, ctx := 0, pc := 0, tiles := Vector.replicate 16 Tile.zero, masks := Vector.replicate 4 0,
    rstack := [], lfsr := 1, progress := { live := false, row := 0, tile := 0 }, budget := 0, setAside := 0,
    allowance := 0, launchBudget := 0, cause := 0, causeFrost := false, fhandler := false, resumeAt := 0, taddr := 0,
    msginfo := 0, skid := 0, launch := none, replied := false, pend := [], fences := [], window := none, going := none, regs := [], popped := [],
    icount := 0, hist := [], freeAt := 0, trailing := false, rowOnly := false,
    binds := [], stepping := none, stepFrom := .free, stepStatus := 0 }

/-- A core with no context and nothing queued. -/
def Core.reset : Core :=
  { slots := Vector.replicate 4 Slot.reset, ctxs := Vector.replicate 4 none, queue := [], out := [], timed := [],
    rr := 0, issued := 0, dispatched := 0, aluUntil := 0, ord := 0, niAt := 0, replies := [] }

/-- A FREE accumulator, cells zero (R173, log 4). -/
def Acc.reset : Acc := { owner := none, fp32 := false, cells := 0, tag := false, heldB := none }

/-- A cluster with empty caches and idle engines (R287). -/
def Cluster.reset : Cluster :=
  { code := [], codeWaits := [], tlb := [], misses := [], faults := [], ectxs := [], wants := [], fennelLast := 0, fennelAt := 0, fennelIn := 0,
    accs := Vector.replicate 8 Acc.reset, island := [], heldPosts := [], copies := [], gate := none, gateAt := none,
    capture := none, ue := 0, residue := 0, corrected := 0, route := 0, wear := { faults := [], routes := [], fixed := [], worn := false }, bistFail := false, retired := false, bistAt := 0 }

/-- A chiplet with empty TLBs; WEAR_LIFE reads 0 (R25). -/
def Chiplet.reset : Chiplet := { tlb := [], walk := [], table := [], walks := [], wearLife := 0, wearMinute := none, wearLow := none }

/-- A port that is down (R48). -/
def Port.reset : Port :=
  { st := 0, partner := 0, partnerPort := 0, lanes := 0, far := false, secEvent := false, self := 0, table := [], retrains := 0, replays := 0,
    sendSeq := 0, recvSeq := 0, queue := [], retry := [], replayed := 0, failed := 0, tagFail := false, keys := [], epoch := 0,
    recvEpoch := 0, recvNew := false, counts := [], round := 1, keTries := 0, keWait := false, keSince := 0, keDigest := [], keKem := 0,
    loaded := false, lastThyme := 0, captured := List.replicate 16 0 }

/-- No Frost yet: the registers read 0 (R252). -/
def Frost.reset : Frost :=
  { count := 0, cause := 0, origin := 0, time := 0, seq := 0, detected := 0, active := false, waiting := [],
    resume := none, resuming := [], resumed := [], byWarning := false }

/-- The part at reset: nothing listed, Thyme 0 (R52), part number 0 (R69), supply register 0 (R20), slot 0 of base
flash active (log 4), nothing scheduled. -/
def State.reset : State :=
  { clk := { cycle := 0, thyme := 0, frac := 0, hold := 0 }
    sched := [], autorun := true, cur := (0, 0), nextId := 1, freeCnt := 0, part := 0
    power := { supply := 0, stretch := 0, warn := false, warnSeen := false, lowSince := none, highSince := none,
               full := 5886, granted := 5886, quarter := false, credits := [], refillAt := 64 }
    rot := { phase := .reset, slots := #v[(.active, []), (.spare, [])], measure := [], version := 0,
             minVersion := 0, transport := false, report := [], domain := [], macs := Vector.replicate 4 0 }
    hbm := { corrected := [], uncorrected := [], allBank := 0, refreshed := [], refreshAt := [], openRow := [], acts := [], managed := [], hot := 0,
             hold := false, bad := [], soft := [] }
    mem := [], cores := [], clusters := [], chiplets := [], memq := [], rets := [], rems := []
    mesh := { flights := [], marks := [] }
    pairs := [], launches := []
    fw := { jobs := [], dirs := [], cmds := [], orders := 0, requests := [], relays := [], debugMode := false,
            freeFrames := [], quiesce := false }
    lam := { ports := Vector.replicate 12 Port.reset, sets := [], outs := [], ins := [], requests := [],
             reference := true, path := false, adopted := false, sent := [], control := [], resumes := [], acks := [],
             ends := [], frostSeen := [], keOut := [], thymeOut := [] }
    eth := { up := 0xF, discarded := [], addrs := [], qps := [], throttled := [], windows := [], rkeys := [],
             out := [] } }

end Sys2Proof.Machine
end

