-- ==== Sys2Proof/Machine/Header.lean ====
section
/-! DEFINITION. The two header flits as bits (04 R74), the route check (10 R267), CRC-32C, and SHAKE256 with KMAC256
(FIPS 202 and SP 800-185, log 7). -/

namespace Sys2Proof.Machine

/-- Payload flits of a message (R74). -/
def Msg.flits (m : Msg) : Nat := 2 + m.payload.length / 16

/-- Flit 0 (R74). -/
def flit0 (m : Msg) : BitVec 128 :=
  m.dstPart ++ m.dstCore ++ m.srcCore ++ m.srcPart ++ BitVec.ofNat 5 (Msg.flits m) ++ m.vnet ++ m.kind ++ m.prio
    ++ m.rcheck ++ BitVec.ofBool m.etag ++ m.job ++ m.zeros.extractLsb' 0 12

/-- Flit 1 (R74). -/
def flit1 (m : Msg) : BitVec 128 :=
  m.sel ++ m.tag ++ m.pfmt ++ m.seq ++ m.residue ++ m.aux ++ m.arg ++ m.zeros.extractLsb' 12 11

/-- A message from two flits and a payload (R74). -/
def msgOf (a b : BitVec 128) (payload : List Byte) : Msg :=
  { dstPart := a.extractLsb' 112 16, dstCore := a.extractLsb' 92 20, srcCore := a.extractLsb' 72 20,
    srcPart := a.extractLsb' 56 16, vnet := a.extractLsb' 50 1, kind := a.extractLsb' 46 4, prio := a.extractLsb' 41 5,
    rcheck := a.extractLsb' 29 12, etag := a.getLsbD 28, job := a.extractLsb' 12 16, sel := b.extractLsb' 116 12,
    tag := b.extractLsb' 112 4, pfmt := b.extractLsb' 107 5, seq := b.extractLsb' 91 16, residue := b.extractLsb' 83 8,
    aux := b.extractLsb' 75 8, arg := b.extractLsb' 11 64, zeros := b.extractLsb' 0 11 ++ a.extractLsb' 0 12,
    retained := false, fixed := false, args := [], payload := payload }

/-- One step of a most-significant-first CRC of width n. -/
def crcStep (n poly crc : Nat) (bit : Bool) : Nat :=
  let top := crc.testBit (n - 1)
  let c := (crc * 2) % 2 ^ n
  if top != bit then c ^^^ poly else c

/-- The 221-bit string of R267, most significant bit first. -/
def checkBits (m : Msg) : List Bool :=
  let a := flit0 m
  let b := flit1 m
  ((List.range 87).map fun i => a.getLsbD (127 - i)) ++ ((List.range 17).map fun i => a.getLsbD (28 - i))
    ++ ((List.range 117).map fun i => b.getLsbD (127 - i))

/-- The route check a header should carry (R267). -/
def routeCheck (m : Msg) : BitVec 12 := BitVec.ofNat 12 ((checkBits m).foldl (crcStep 12 0x80F) 0xFFF)

/-- The residue of a payload (R264). -/
def payloadResidue (l : List Byte) : BitVec 8 := BitVec.ofNat 8 (l.foldl (fun acc b => (acc + b.toNat) % 255) 0)

/-- A message with its route check formed (R267). -/
def Msg.checked (m : Msg) : Msg := { m with rcheck := routeCheck m }
/-- A message with its residue and route check formed. -/
def Msg.formed (m : Msg) : Msg := Msg.checked { m with residue := payloadResidue m.payload }

/-- Does the header pass the checks every router makes of its bits (R267)? -/
def Msg.headerOk (m : Msg) : Bool := m.rcheck == routeCheck m && m.zeros == 0

/-- vnet agrees with the kind (R75). -/
def Msg.netOk (m : Msg) : Bool :=
  let k := m.kind.toNat
  if k ≤ 2 ∨ k = 8 then m.vnet == 0
  else if k = 11 then true
  else if k ≤ 10 then m.vnet == 1
  else true

/-- CRC-32C of bytes, reflected, as R38 and R278 use it. -/
def crc32c (l : List Byte) : BitVec 32 :=
  let step (c : Nat) (b : Byte) : Nat :=
    (List.range 8).foldl (fun c _ => if c % 2 = 1 then (c / 2) ^^^ 0x82F63B78 else c / 2) (c ^^^ b.toNat)
  BitVec.ofNat 32 ((l.foldl step 0xFFFFFFFF) ^^^ 0xFFFFFFFF)

/-- A lane of 64 bits turned left by n, n below 64. -/
def turnLane (n v : Nat) : Nat := v * 2 ^ n % 2 ^ 64 + v / 2 ^ (64 - n)
/-- Where rho and pi take the lanes beside the first, which stays: from lane x + 5y to lane y + 5(2x + 3y), turned by the t-th triangular number. n
moves are left. -/
def laneMoves : Nat → Nat → Nat → Nat → List (Nat × Nat × Nat)
  | 0, _, _, _ => []
  | n + 1, t, x, y =>
    let z := (2 * x + 3 * y) % 5
    (y + 5 * z, x + 5 * y, (t + 1) * (t + 2) / 2 % 64) :: laneMoves n (t + 1) y z
/-- n bits of the register that makes the round constants, from its state r on. -/
def constBits : Nat → Nat → List Bool
  | 0, _ => []
  | n + 1, r => r.testBit 0 :: constBits n (if r.testBit 7 then (2 * r) ^^^ 0x171 else 2 * r)
/-- The 24 round constants: seven bits each, bit j at place 2^j - 1. -/
def roundConsts : List Nat :=
  let bits := constBits 168 1
  (List.range 24).map fun i => (List.range 7).foldl (fun w j => if bits.getD (7 * i + j) false then w + 2 ^ (2 ^ j - 1) else w) 0
/-- One round of the permutation on 25 lanes: every lane takes the parity of two columns, the lanes move, each row mixes its neighbours, and the
first lane takes the constant. -/
def mixLanes (moves : List (Nat × Nat × Nat)) (a : List Nat) (const : Nat) : List Nat :=
  let parity := (List.range 5).map fun x => ((List.range 5).map fun y => a.getD (x + 5 * y) 0).foldl (· ^^^ ·) 0
  let p (x : Nat) : Nat := parity.getD (x % 5) 0
  let even := a.zipIdx.map fun q => q.1 ^^^ p (q.2 + 4) ^^^ turnLane 1 (p (q.2 + 1))
  let moved := (List.range 25).map fun i => match moves.find? fun m => m.1 == i with
    | some m => turnLane m.2.2 (even.getD m.2.1 0)
    | none => even.headD 0
  let near (i k : Nat) : Nat := moved.getD (i / 5 * 5 + (i + k) % 5) 0
  match (List.range 25).map fun i => near i 0 ^^^ (near i 2 - (near i 1 &&& near i 2)) with
  | [] => []
  | first :: rest => (first ^^^ const) :: rest
/-- Keccak-f[1600]. -/
def permuteLanes (a : List Nat) : List Nat := let moves := laneMoves 24 0 1 0; roundConsts.foldl (mixLanes moves) a
/-- The lanes after a message of whole 136 B blocks, f blocks at most, each added to the first 17 lanes. -/
def soak : Nat → List Nat → List Byte → List Nat
  | 0, a, _ => a
  | f + 1, a, l =>
    if l.isEmpty then a
    else
      let word (i : Nat) : Nat := if i < 17 then natOf ((l.drop (8 * i)).take 8) else 0
      soak f (permuteLanes (a.zipIdx.map fun q => q.1 ^^^ word q.2)) (l.drop 136)
/-- Output of f + 1 blocks at most, n bytes wanted. -/
def wring : Nat → Nat → List Nat → List Byte
  | 0, n, a => (a.flatMap (bytesOf 8)).take (Nat.min n 136)
  | f + 1, n, a => if n ≤ 136 then wring 0 n a else wring 0 136 a ++ wring f (n - 136) (permuteLanes a)
/-- The sponge of rate 136 B: the message with its domain bits, padded to whole blocks, and n bytes of output. -/
def sponge (dom : Byte) (l : List Byte) (n : Nat) : List Byte :=
  let blocks := l.length / 136 + 1
  let free := 136 * blocks - l.length
  let pad : List Byte := (List.range free).map fun i => (if i = 0 then dom else 0) ^^^ (if i + 1 = free then 0x80 else 0)
  wring (n / 136) n (soak blocks (List.replicate 25 0) (l ++ pad))
/-- SHAKE256 with n bytes of output (log 7). -/
def shake256 (l : List Byte) (n : Nat) : List Byte := sponge 0x1F l n
/-- Minimal big-endian bytes of a number, at least one; f bounds their count. -/
def beBytes : Nat → Nat → List Byte
  | 0, x => [BitVec.ofNat 8 x]
  | f + 1, x => if x < 256 then [BitVec.ofNat 8 x] else beBytes f (x / 256) ++ [BitVec.ofNat 8 x]
/-- left_encode of SP 800-185. -/
def leftEncode (x : Nat) : List Byte := let b := beBytes 8 x; BitVec.ofNat 8 b.length :: b
/-- right_encode of SP 800-185. -/
def rightEncode (x : Nat) : List Byte := let b := beBytes 8 x; b ++ [BitVec.ofNat 8 b.length]
/-- encode_string of SP 800-185. -/
def encodeString (l : List Byte) : List Byte := leftEncode (8 * l.length) ++ l
/-- bytepad of SP 800-185 to 136 bytes. -/
def bytepad (l : List Byte) : List Byte :=
  let b := leftEncode 136 ++ l
  b ++ List.replicate ((136 - b.length % 136) % 136) 0
/-- The ASCII bytes of a string. -/
def ascii (s : String) : List Byte := s.toList.map fun c => BitVec.ofNat 8 c.toNat
/-- KMAC256 with n bytes of output under a key and a customisation string (R60, log 7). -/
def kmac256 (key data : List Byte) (custom : String) (n : Nat) : List Byte :=
  sponge 0x04 (bytepad (encodeString (ascii "KMAC") ++ encodeString (ascii custom)) ++ bytepad (encodeString key) ++ data
    ++ rightEncode (8 * n)) n

end Sys2Proof.Machine
end

