-- ==== Sys2Proof/Machine/Ops.lean ====
section
/-! DEFINITION. Named operations over the state: tables, memory, slots and contexts; delivering a VN-A message to a
context (04 R101, R461), raising a Frost (09 R247 to R249), taking a precise trap (R235 to R237), resuming from one
(R240), stalling and retiring. -/

namespace Sys2Proof.Machine

/-- The value listed for a number. -/
def SMap.look {α : Type} : SMap α → Nat → Option α
  | [], _ => none
  | (j, w) :: m, k => if j = k then some w else SMap.look m k

/-- A value put in a table. -/
def SMap.put {α : Type} : SMap α → Nat → α → SMap α
  | [], k, v => [(k, v)]
  | (j, w) :: m, k, v => if j = k then (k, v) :: m else if k < j then (k, v) :: (j, w) :: m else (j, w) :: SMap.put m k v

/-- The byte at a key; an unlisted byte reads as zero (log 1). -/
def memRead : List Host.Cell → Nat → Byte
  | [], _ => 0
  | (j, w) :: m, k => if k = j then w else if k < j then 0 else memRead m k

/-- A byte stored, keeping the list sorted and free of zeros. -/
def memWrite : List Host.Cell → Nat → Byte → List Host.Cell
  | [], k, v => if v = 0 then [] else [(k, v)]
  | (j, w) :: m, k, v =>
    if k < j then (if v = 0 then (j, w) :: m else (k, v) :: (j, w) :: m)
    else if k = j then (if v = 0 then m else (k, v) :: m)
    else (j, w) :: memWrite m k v

/-- The canonical form: keys rising from above lo, no byte zero. -/
def memFrom (lo : Nat) : List Host.Cell → Bool
  | [] => true
  | (j, w) :: m => decide (lo ≤ j) && w != 0 && memFrom (j + 1) m
/-- The canonical form of memory. -/
def Memory.wf (m : List Host.Cell) : Bool := memFrom 0 m

/-- n bytes from a key. -/
def memBytes (m : List Host.Cell) (k n : Nat) : List Byte := (List.range n).map fun i => memRead m (k + i)
/-- Bytes stored from a key. -/
def memStore (m : List Host.Cell) (k : Nat) (l : List Byte) : List Host.Cell :=
  (l.zipIdx).foldl (fun m p => memWrite m (k + p.2) p.1) m

/-- The cluster of a core (R4). -/
def clusterOf (c : CoreId) : ClusterId := c.extractLsb' 8 12
/-- The chiplet of a cluster (R4). -/
def chipletOf (k : ClusterId) : BitVec 4 := k.extractLsb' 8 4
/-- Key of byte s of a cluster's vault slice (R138). -/
def vaultKey (k : ClusterId) (s : Nat) : Nat := vaultBase + k.toNat * Config.sliceBytes + s

namespace State

/-- A core. -/
def core (s : State) (c : CoreId) : Core := (s.cores.look c.toNat).getD Core.reset
/-- A core replaced. -/
def setCore (s : State) (c : CoreId) (k : Core) : State := { s with cores := s.cores.put c.toNat k }
/-- A core changed. -/
def updCore (s : State) (c : CoreId) (f : Core → Core) : State := s.setCore c (f (s.core c))
/-- A cluster. -/
def cluster (s : State) (k : ClusterId) : Cluster := (s.clusters.look k.toNat).getD Cluster.reset
/-- A cluster changed. -/
def updCluster (s : State) (k : ClusterId) (f : Cluster → Cluster) : State :=
  { s with clusters := s.clusters.put k.toNat (f (s.cluster k)) }
/-- A chiplet. -/
def chiplet (s : State) (k : BitVec 4) : Chiplet := (s.chiplets.look k.toNat).getD Chiplet.reset
/-- A chiplet changed. -/
def updChiplet (s : State) (k : BitVec 4) (f : Chiplet → Chiplet) : State :=
  { s with chiplets := s.chiplets.put k.toNat (f (s.chiplet k)) }
/-- Thyme (R52). -/
def now (s : State) : Word64 := s.clk.thyme
/-- The job with an id, if it exists on the part. -/
def job (s : State) (j : JobId) : Option Job := s.fw.jobs.find? fun x => x.id == j
/-- A job changed. -/
def updJob (s : State) (j : JobId) (f : Job → Job) : State :=
  { s with fw := { s.fw with jobs := s.fw.jobs.map fun x => if x.id == j then f x else x } }
/-- The directory entry of a job on a core (R82). -/
def dir (s : State) (c : CoreId) (j : JobId) : Option Dir := s.fw.dirs.find? fun d => d.core == c && d.job == j
/-- A directory entry changed. -/
def updDir (s : State) (c : CoreId) (j : JobId) (f : Dir → Dir) : State :=
  { s with fw := { s.fw with dirs := s.fw.dirs.map fun d => if d.core == c && d.job == j then f d else d } }
/-- A fresh number for a message, an event, a handler. -/
def fresh (s : State) : Nat × State := (s.nextId, { s with nextId := s.nextId + 1 })

end State

/-- Is a cluster's execution clock gated (R249)? -/
def gated (s : State) (k : ClusterId) : Bool := (s.cluster k).gate.isSome

/-- Slot i of a core. -/
def Core.slot (k : Core) (i : BitVec 2) : Slot := k.slots[i.toNat]'(by have := i.isLt; omega)
/-- Slot i replaced. -/
def Core.setSlot (k : Core) (i : BitVec 2) (x : Slot) : Core :=
  { k with slots := k.slots.set i.toNat x (by have := i.isLt; omega) }
/-- Context slot i of a core. -/
def Core.ctx (k : Core) (i : BitVec 2) : Option Ctx := k.ctxs[i.toNat]'(by have := i.isLt; omega)
/-- Context slot i replaced. -/
def Core.setCtx (k : Core) (i : BitVec 2) (x : Option Ctx) : Core :=
  { k with ctxs := k.ctxs.set i.toNat x (by have := i.isLt; omega) }
/-- The context slot that holds a job's context (R81). -/
def Core.ctxOf (k : Core) (j : JobId) : Option (BitVec 2) :=
  [0, 1, 2, 3].find? fun i => match k.ctx i with
    | some x => x.job == j
    | none => false

/-- The same without trailing contexts of pairs, which messages never name (R276). -/
def Core.leadOf (k : Core) (j : JobId) : Option (BitVec 2) :=
  [0, 1, 2, 3].find? fun i => match k.ctx i with
    | some x => x.job == j && !x.trailing
    | none => false

namespace State

/-- Slot i of core c. -/
def slot (s : State) (c : CoreId) (i : BitVec 2) : Slot := (s.core c).slot i
/-- Slot i of core c changed. -/
def updSlot (s : State) (c : CoreId) (i : BitVec 2) (f : Slot → Slot) : State :=
  s.updCore c fun k => k.setSlot i (f (k.slot i))
/-- The slot whose instruction runs. -/
def me (s : State) : Slot := s.slot s.cur.1 s.cur.2
/-- That slot changed. -/
def updMe (s : State) (f : Slot → Slot) : State := s.updSlot s.cur.1 s.cur.2 f
/-- The context in a context slot. -/
def ctxAt (s : State) (c : CoreId) (i : BitVec 2) : Option Ctx := (s.core c).ctx i
/-- A context changed. -/
def updCtx (s : State) (c : CoreId) (i : BitVec 2) (f : Ctx → Ctx) : State :=
  s.updCore c fun k => k.setCtx i ((k.ctx i).map f)

end State

/-- A context of the management job with nothing in it: what an empty context slot reads as. -/
def Ctx.reset : Ctx :=
  { st := .active, job := 0, asid := 0, trig := Vector.replicate 32 0, held := Vector.replicate 32 0,
    cval := Vector.replicate 16 0, ctgt := Vector.replicate 16 0, carmed := 0, flags := 0, qarmed := 0,
    qdead := Vector.replicate 4 0, table := 0, tableCount := 0, credits := 256, budget := Config.defaultBudget,
    ageShift := 12, retainQ := 16, spillQ := 1024, spill := 0, sendSeq := 0, retainSeq := 0, supSel := 0, faultSel := 0,
    window := 0, code8 := none, code8Old := none, code8At := 0, frozen := false, frostCause := 0, frostOrigin := 0,
    frostTime := 0, frostSeq := 0, evictAsked := false, evicting := false, pair := 0x3C000000000, trailing := false, regs := [] }

namespace State

/-- The context of the running slot. -/
def myCtx (s : State) : Ctx := (s.ctxAt s.cur.1 s.me.ctx).getD Ctx.reset
/-- The context of the running slot changed. -/
def updMyCtx (s : State) (f : Ctx → Ctx) : State := s.updCtx s.cur.1 s.me.ctx f
/-- Is the running slot's context a firmware context, one of the management job (R61, R74)? -/
def firmware (s : State) : Bool := s.myCtx.job == 0

end State

/-- Tile n of a slot as an instruction reads it: T0 under R118, the others under R266. -/
def Slot.tile (x : Slot) (n : TReg) : Tile :=
  if n = 0 then Tile.zero else (x.tiles[n.toNat]'(by have := n.isLt; omega)).checked
/-- Tile n as it stands, residue unchecked. -/
def Slot.tileRaw (x : Slot) (n : TReg) : Tile :=
  if n = 0 then Tile.zero else x.tiles[n.toNat]'(by have := n.isLt; omega)
/-- Tile n written; a write to T0 is discarded (R118). -/
def Slot.setTile (x : Slot) (n : TReg) (t : Tile) : Slot :=
  if n = 0 then x else { x with tiles := x.tiles.set n.toNat t (by have := n.isLt; omega) }
/-- Mask register n; M0 reads as all ones (R120). -/
def Slot.mask (x : Slot) (n : MReg) : BitVec 64 :=
  if n = 0 then BitVec.allOnes 64 else x.masks[n.toNat]'(by have := n.isLt; omega)
/-- Mask register n written. -/
def Slot.setMask (x : Slot) (n : MReg) (m : BitVec 64) : Slot :=
  if n = 0 then x else { x with masks := x.masks.set n.toNat m (by have := n.isLt; omega) }
/-- Does a load still owe this tile bytes (R325)? -/
def Slot.tileBusy (x : Slot) (n : TReg) : Bool := x.pend.any fun p => p.tile == n && !p.evs.isEmpty

/-- The code of a cause (R233, R242). -/
def causeCode (c : Cause) : BitVec 8 :=
  match c with
  | .illegal => 0x01 | .shape => 0x02 | .align => 0x03 | .bounds => 0x04 | .xlate => 0x05 | .perm => 0x06
  | .xlateUe => 0x07 | .poison => 0x08 | .budget => 0x09 | .stack => 0x0A | .brk => 0x0B | .trap => 0x0C
  | .pairMismatch => 0x0D | .stream => 0x0E | .table => 0x0F | .priv => 0x10
  | .engine => 0x40 | .ue => 0x41 | .topology => 0x42 | .contextLost => 0x43 | .undeliverable => 0x44
  | .opaSparsity => 0x45

/-- The cause of a remote status (R41). -/
def causeOfStatus (n : Nat) : Cause :=
  match n with
  | 0x01 => .illegal | 0x03 => .align | 0x04 => .bounds | 0x05 => .xlate | 0x06 => .perm | 0x07 => .xlateUe
  | _ => .illegal

/-- Mesh column of a core (R4). -/
def meshX (c : CoreId) : Nat :=
  let ch := (c.extractLsb' 16 4).toNat
  let cl := (c.extractLsb' 8 8).toNat
  256 * (ch % 4) + 16 * (cl % 16) + (c.extractLsb' 0 8).toNat % 16
/-- Mesh row of a core (R4). -/
def meshY (c : CoreId) : Nat :=
  let ch := (c.extractLsb' 16 4).toNat
  let cl := (c.extractLsb' 8 8).toNat
  256 * (ch / 4) + 16 * (cl / 16) + (c.extractLsb' 0 8).toNat / 16

/-- A message put on the mesh at a core, or handed to the Ethernet block. -/
def putFlight (s : State) (c : CoreId) (m : Msg) (host : Bool) : State :=
  let f : Flight := { id := s.nextId, msg := m, x := meshX c, y := meshY c, ring := none, vn := m.vnet, host := host }
  { s with nextId := s.nextId + 1, mesh := { s.mesh with flights := s.mesh.flights ++ [f] } }

/-- Fields of a fault event's argument word (R241). -/
structure FaultArg where
  source : BitVec 4
  slot : BitVec 2
  tile : BitVec 4
  row : BitVec 3
  acc : BitVec 3
  sub : BitVec 8
  count : BitVec 32
deriving DecidableEq, Repr

/-- The argument word of a fault event (R241). -/
def FaultArg.word (a : FaultArg) : Word64 :=
  a.source ++ a.slot ++ a.tile ++ a.row ++ a.acc ++ a.sub ++ (0 : BitVec 8) ++ a.count

/-- A fault event for a context of a job on a core of this part (R241): to the fault selector, elements 0 and 1 the
address and the instant. -/
def faultEvent (s : State) (core : CoreId) (job : JobId) (sel : BitVec 12) (cause : Cause) (a : FaultArg) (addr : Word64) : Msg :=
  Msg.formed {
    dstPart := s.part, dstCore := core, srcCore := core, srcPart := s.part, vnet := 1, kind := 7, prio := 30, rcheck := 0,
    etag := false, job := job, sel := sel, tag := 0, pfmt := 7, seq := 0, residue := 0, aux := causeCode cause,
    arg := a.word, zeros := 0, retained := false, fixed := false, args := [], payload := bytesOf 8 addr.toNat ++ bytesOf 8 s.now.toNat }

/-- Is the context diverting (R92)? -/
def Dir.diverting (d : Dir) : Bool := !d.ring.isEmpty || d.pendFlags != 0 || d.pendAdd.toList.any (· != 0)

/-- A record added to the tail of an arrival ring, with a residency request when an evicted context's ring was empty
(R91, R110). -/
def ringAppend (s : State) (c : CoreId) (j : JobId) (r : SpillRec) : State :=
  match s.dir c j with
  | none => s
  | some d =>
    let s := s.updDir c j fun d => { d with ring := d.ring ++ [r] }
    if d.st = .evicted ∧ d.ring = [] then
      { s with fw := { s.fw with requests := s.fw.requests ++ [(c, j)] } }
    else s

/-- A record added to a frozen-arrival buffer, its header kept (R256). -/
def frozenAppend (s : State) (c : CoreId) (j : JobId) (count : BitVec 24) (r : SpillRec) : State :=
  s.updDir c j fun d =>
    let n := d.fbuf.length + 1
    if d.fcount = count then { d with fbuf := d.fbuf ++ [r], fpeak := Nat.max d.fpeak n }
    else { d with fbuf := d.fbuf ++ [r], fpeak := n, fcount := count }

/-- May the NI of a core make an entry into the inbound queue in this cycle: one at most (R94)? -/
def niFree (s : State) (c : CoreId) : Bool := decide ((s.core c).niAt ≤ s.clk.cycle)
/-- A message placed in the inbound queue (R89, R90). -/
def enqueue (s : State) (c : CoreId) (i : BitVec 2) (m : Msg) (stamp w : Nat) (drained : Bool) : State :=
  s.updCore c fun k => { k with
    queue := k.queue ++ [{ msg := m, ctx := i, stamp := stamp, w := w, ord := k.ord, drained := drained }], ord := k.ord + 1
    niAt := s.clk.cycle + 1 }

/-- A record for every mailbox of a job (R65), by the firmware or the Ethernet block: queued at each bound window. -/
def toMailboxes (s : State) (j : JobId) (rec : List Byte) : State :=
  match s.job j with
  | none => s
  | some x =>
    let put (p : Nat × Window) : Nat × Window :=
      if x.windows.contains (BitVec.ofNat 12 p.1) then (p.1, { p.2 with pendingRecs := p.2.pendingRecs ++ [rec] }) else p
    { s with eth := { s.eth with windows := s.eth.windows.map put } }

/-- Bytes 8 to 311 of a mailbox record (R65): type, status, job, selector with tag, arg, payload. -/
def mailboxRec (ty status : Nat) (job : JobId) (sel : BitVec 12) (tag : BitVec 4) (arg : Word64) (payload : List Byte) :
    List Byte :=
  bytesOf 2 ty ++ bytesOf 2 status ++ bytesOf 2 job.toNat ++ bytesOf 2 ((tag ++ sel).toNat) ++ bytesOf 8 arg.toNat
    ++ bytesOf 2 payload.length ++ bytesOf 6 0 ++ (payload ++ List.replicate (256 - payload.length) 0) ++ bytesOf 24 0

/-- A returned-message record, type 3 (R104, R461). -/
def returnedRec (m : Msg) : List Byte := mailboxRec 3 0 m.job m.sel m.tag m.arg m.payload

/-- A VN-A message for a context reaches its core: queue, arrival ring, frozen-arrival buffer, mailbox, or nothing
(R89, R92, R101, R461). -/
def deliverVnA (s : State) (c : CoreId) (m : Msg) : State :=
  let k := s.core c
  let rec_ : SpillRec := { msg := m, stamp := 0, w := 0, evict := false }
  match k.leadOf m.job with
  | some i =>
    match k.ctx i with
    | none => s
    | some x =>
      if x.st ≠ .active then ringAppend s c m.job rec_
      else if x.frozen then frozenAppend s c m.job ((s.job m.job).map (·.frost.count) |>.getD 0) rec_
      else if ((s.dir c m.job).map Dir.diverting).getD false then ringAppend s c m.job rec_
      else if k.queue.length < Config.queueEntries then enqueue s c i m s.clk.cycle 0 false
      else ringAppend s c m.job rec_
  | none =>
    match s.dir c m.job with
    | some d =>
      if d.st = .evicted ∨ d.st = .lost then ringAppend s c m.job rec_
      else if (s.job m.job).isSome then toMailboxes s m.job (returnedRec m)
      else s
    | none => if (s.job m.job).isSome then toMailboxes s m.job (returnedRec m) else s

/-- A fault event of a slot's or an engine's work, to the fault selector of the context on that core (R242). -/
def sendFault (s : State) (c : CoreId) (j : JobId) (cause : Cause) (a : FaultArg) (addr : Word64) : State :=
  let sel := match (s.core c).leadOf j with
    | some i => ((s.ctxAt c i).map (·.faultSel)).getD 0
    | none => ((s.job j).map (·.faultSel)).getD 0
  putFlight s c (faultEvent s c j sel cause a addr) false

/-- FROST_ORIGIN of a core and slot of a part (R252). -/
def originWord (p : PartId) (c : CoreId) (i : BitVec 2) : Word64 := p ++ (0 : BitVec 4) ++ c ++ i ++ (0 : BitVec 22)
/-- FROST_SEQ (R252). -/
def seqWord (n : BitVec 24) (p : PartId) (c : CoreId) (i : BitVec 2) : Word64 := n ++ p ++ c ++ i ++ (0 : BitVec 2)
/-- FROST_CAUSE of a kind and code, frozen set when the wave is at work (R252). -/
def causeWord (kind : BitVec 4) (code : BitVec 8) : Word64 :=
  (0 : BitVec 24) ++ code ++ (0 : BitVec 20) ++ kind ++ (0 : BitVec 6) ++ BitVec.ofBool (decide (kind.toNat ≤ 4)) ++ (1 : BitVec 1)

/-- Cores of the part that hold a resident context of the job. -/
def coresOf (s : State) (j : JobId) : List CoreId :=
  (s.cores.filter fun p => (p.2.ctxOf j).isSome).map fun p => BitVec.ofNat 20 p.1

/-- Every core of the job on the part: those of its region's clusters, and those with a resident context (R250). -/
def jobCores (s : State) (j : JobId) : List CoreId :=
  let region := ((s.job j).map (·.region)).getD []
  (region.flatMap fun k => (List.range 256).map fun n => k ++ BitVec.ofNat 8 n) ++ (coresOf s j).filter fun c => !region.contains (clusterOf c)

/-- Frost words flood every up port but one (R50). -/
def floodFrost (s : State) (w : FrostWord) (except : Option (BitVec 4)) : State :=
  let up (p : Nat) : Bool :=
    decide (some (BitVec.ofNat 4 p) ≠ except) && (match s.lam.ports[p]? with
      | some x => x.st == 2
      | none => false)
  { s with lam := { s.lam with control := s.lam.control ++ (((List.range 12).filter up).map fun p => (BitVec.ofNat 4 p, w)) } }

/-- A new Frost of a job on this part (R247, R248): the registers' values, the wave to every core, and the gate of the
origin's cluster 12 cycles later when the origin is a slot of the job (R249). -/
def raiseFrost (s : State) (j : JobId) (kind : BitVec 4) (code : BitVec 8) (c : CoreId) (i : BitVec 2) (gated : Bool) : State :=
  match s.job j with
  | none => s
  | some x =>
    let n := x.frost.count + 1
    let w : FrostWord := { job := j, count := n, part := s.part, core := c, slot := i, kind := kind, code := code, time := s.now }
    let s := s.updJob j fun x => { x with frost := { x.frost with
      count := n, cause := causeWord kind code, origin := originWord s.part c i, time := s.now,
      seq := seqWord n s.part c i, detected := s.clk.cycle, active := true, waiting := if x.frost.active then x.frost.waiting else jobCores s j, resume := none, resuming := [] } }
    let s := floodFrost s w none
    if gated then s.updCluster (clusterOf c) fun q => { q with gateAt := some (s.clk.cycle + 12, j) } else s

/-- The latest n instants once k more faults came at t, newest first. -/
def latest (l : List Nat) (t k n : Nat) : List Nat := (List.replicate k t ++ l).take n
/-- Are there n faults within the hour before t (R288)? -/
def inHour (l : List Nat) (t n : Nat) : Bool := l.length == n && l.all fun o => decide (t ≤ o + 3600000000000)
/-- Uncorrectable or residue errors of a cluster, at an instant (R288). -/
def Wear.fault (w : Wear) (t k : Nat) : Wear :=
  let l := latest w.faults t k 8
  { w with faults := l, worn := w.worn || inHour l t 8 }
/-- A route-check failure (R288). -/
def Wear.route (w : Wear) (t : Nat) : Wear :=
  let l := latest w.routes t 1 4
  { w with routes := l, worn := w.worn || inHour l t 4 }
/-- A corrected error (R288). -/
def Wear.fix (w : Wear) (t : Nat) : Wear :=
  let l := latest w.fixed t 1 4096
  { w with fixed := l, worn := w.worn || inHour l t 4096 }

/-- A residue error counted at a cluster (R266, R287, R288), saturating. -/
def countResidue (s : State) (k : ClusterId) (n : Nat) : State :=
  s.updCluster k fun q => { q with residue := Nat.min 0xFFFF (q.residue + n), wear := q.wear.fault s.now.toNat n }

/-- Is a job frozen or freezing, and is a resume pending (R248)? -/
def frostState (s : State) (j : JobId) : Bool × Bool :=
  match s.job j with
  | none => (false, false)
  | some x => (x.frost.active, x.frost.resume.isSome)

/-- An unhandled trap or fault event, BRK or FROST (R237, R248): a new Frost unless the job already freezes; answers
whether the job was already freezing. -/
def frostFrom (s : State) (j : JobId) (kind : BitVec 4) (code : BitVec 8) (c : CoreId) (i : BitVec 2) : Bool × State :=
  if (frostState s j).1 then (true, s) else (false, raiseFrost s j kind code c i true)

/-- First byte of an ASID's entry in the table (R139, log 9). -/
def asidKey (asid : BitVec 16) : Nat := Config.asidTable + 16 * asid.toNat
/-- The ASID-table entry (R139); an ASID beyond the table has none. -/
def asidEntry (s : State) (asid : BitVec 16) : AsidEntry :=
  let w : BitVec 128 := if 1024 ≤ asid.toNat then 0 else BitVec.ofNat 128 (natOf (memBytes s.mem (asidKey asid) 16))
  { valid := w.getLsbD 0, harvest := w.getLsbD 1, root := w.extractLsb' 24 40 ++ (0 : BitVec 12), altRoot := w.extractLsb' 64 40 ++ (0 : BitVec 12) }
/-- First key of the ECC unit of a byte: a 32 B codeword of HBM, an 8 B word of a vault (R266). -/
def eccUnit (k : Nat) : Nat := if k < vaultBase then k / 32 * 32 else k / 8 * 8
/-- Bytes of an ECC unit. -/
def eccSize (k : Nat) : Nat := if k < vaultBase then 32 else 8
/-- Does a range of bytes touch a bad unit? -/
def badAt (s : State) (l : List Nat) : Bool := l.any fun k => s.hbm.bad.contains (eccUnit k)
/-- Does a range of bytes touch a unit whose error is corrected? -/
def softAt (s : State) (l : List Nat) : Bool := l.any fun k => s.hbm.soft.contains (eccUnit k)

/-- An 8-byte page-table entry's fields (R141). -/
structure Pte where
  raw : Word64
  leaf : Bool
  valid : Bool
deriving DecidableEq, Repr

/-- An entry read as R141 says. -/
def pteOf (w : Word64) : Pte := { raw := w, leaf := w.getLsbD 1, valid := w.getLsbD 0 }
/-- First VA bit that an entry of a level is indexed by (R140). -/
def levelShift (l : Nat) : Nat := if l = 1 then 39 else if l = 2 then 30 else if l = 3 then 21 else 16
/-- Entries of a table of a level (R140). -/
def levelEntries (l : Nat) : Nat := if l = 4 then 32 else 512
/-- Is an entry of a level malformed (R141)? -/
def pteBad (l : Nat) (p : Pte) : Bool :=
  let w := p.raw
  if w.extractLsb' 52 12 ≠ 0 then true
  else if p.leaf then
    l == 1 || w.extractLsb' 7 9 != 0 || (l == 3 && w.extractLsb' 16 5 != 0) || (l == 2 && w.extractLsb' 16 14 != 0)
  else l == 4 || w.extractLsb' 2 6 != 0 || (l != 3 && w.extractLsb' 8 4 != 0)
/-- Physical address that a leaf of a level maps its page to. -/
def pteFrame (p : Pte) : BitVec 52 := (p.raw.extractLsb' 16 36 : BitVec 36) ++ (0 : BitVec 16)
/-- Table that a non-leaf entry names. -/
def pteNext (p : Pte) : BitVec 52 := (p.raw.extractLsb' 8 44 : BitVec 44) ++ (0 : BitVec 8)
/-- Index of an address in a table of a level (R140). -/
def levelIndex (l : Nat) (va : BitVec 48) : Nat := va.toNat / 2 ^ levelShift l % levelEntries l

/-- What a walk comes to: a leaf with its level, its entry's address and the tables read; or a fault, with the entry's
address for an uncorrectable one. -/
inductive Walk where
  | leaf (l : Nat) (at_ : Nat) (p : Pte) (seen : List (Nat × Nat))
  | fault (c : Cause) (at_ : Nat)
deriving DecidableEq, Repr

/-- A walk from a table of level l; n bounds the levels left (R140, R141, R147). -/
def walkFrom (s : State) (va : BitVec 48) : Nat → Nat → Nat → List (Nat × Nat) → Walk
  | 0, _, at_, _ => .fault .xlate at_
  | n + 1, l, table, seen =>
    let a := table + 8 * levelIndex l va
    if badAt s ((List.range 8).map (a + ·)) then .fault .xlateUe a
    else
      let p := pteOf (BitVec.ofNat 64 (natOf (memBytes s.mem a 8)))
      if !p.valid || pteBad l p then .fault .xlate a
      else if p.leaf then .leaf l a p seen
      else walkFrom s va n (l + 1) (pteNext p).toNat (seen ++ [(l, (pteNext p).toNat)])

/-- The leaf that maps an address with the physical address it gives, if a walk of the tables as they stand finds one (R140). -/
def leafOf (s : State) (asid : BitVec 16) (va : BitVec 48) : Option (Pte × Nat) :=
  let e := asidEntry s asid
  if !e.valid then none
  else match walkFrom s va 4 1 e.root.toNat [] with
    | .leaf l _ p _ => some (p, (pteFrame p).toNat + va.toNat % 2 ^ levelShift l)
    | .fault _ _ => none

/-- The bytes of a handler-table entry as the dispatcher reads it (R78), from a code-cache line or from memory. -/
structure Entry where
  code : BitVec 48
  fmt : Fmt
  budget : Nat
deriving DecidableEq, Repr

/-- An entry's fields, or none where R79 calls it invalid. -/
def entryOf (b : BitVec 128) : Option Entry :=
  let f := b.extractLsb' 75 5
  let bud := b.extractLsb' 47 25
  if b.getLsbD 74 = false ∨ b.extractLsb' 80 2 ≠ 0 ∨ b.extractLsb' 72 2 ≠ 0 ∨ b.extractLsb' 0 47 ≠ 0 ∨ Config.maxBudget < bud.toNat then none
  else
    match fmtOf f.toNat with
    | none => none
    | some g => some { code := b.extractLsb' 80 48, fmt := g, budget := bud.toNat }

/-- The line of the code cache that holds an address (R150). -/
def codeLine (s : State) (k : ClusterId) (asid : BitVec 16) (va : BitVec 48) : Option CodeLine :=
  (s.cluster k).code.find? fun l => l.asid == asid && l.va == va &&& ~~~(0x3F : BitVec 48)

/-- What the dispatcher finds for a selector: nothing cached yet, an invalid entry, or an entry (R78, R79, R462). -/
inductive EntryRead where
  | miss
  | invalid
  | found (e : Entry)
deriving DecidableEq, Repr

/-- The handler-table entry of a selector (R78, R79, R462). A line whose fetch faulted is invalid (R142). -/
def readEntry (s : State) (c : CoreId) (x : Ctx) (sel : BitVec 12) : EntryRead :=
  if x.tableCount.toNat ≤ sel.toNat then .invalid
  else
    let va := x.table + BitVec.ofNat 48 (16 * sel.toNat)
    match codeLine s (clusterOf c) x.asid va with
    | none =>
      if (s.cluster (clusterOf c)).codeWaits.any fun w => w.1 == x.asid && w.2.1 == va &&& ~~~(0x3F : BitVec 48) && w.2.2.isSome
      then .invalid else .miss
    | some l =>
      if l.tag then .invalid
      else
        match entryOf ((l.bytes >>> (8 * (va.toNat % 64))).setWidth 128) with
        | none => .invalid
        | some e => .found e

/-- The entry of a selector, read from memory where no line holds it (R237). -/
def readEntryNow (s : State) (c : CoreId) (x : Ctx) (sel : BitVec 12) : EntryRead :=
  match readEntry s c x sel with
  | .miss =>
    let va := x.table + BitVec.ofNat 48 (16 * sel.toNat)
    match leafOf s x.asid va with
    | none => .invalid
    | some p =>
      let keys := (List.range 16).map (p.2 + ·)
      if !p.1.raw.getLsbD 3 || badAt s keys then .invalid
      else match entryOf (BitVec.ofNat 128 (natOf (memBytes s.mem p.2 16))) with
        | none => .invalid
        | some e => .found e
  | r => r

/-- A slot frozen by an unhandled trap (R235, R237). -/
def freezeTrapped (s : State) (c : CoreId) (i : BitVec 2) (cause : BitVec 8) (kind : BitVec 4) : State :=
  let j := ((s.ctxAt c (s.slot c i).ctx).map (·.job)).getD 0
  let (already, s) := frostFrom s j kind cause c i
  let _ := already
  s.updSlot c i fun x => { x with st := .frozen none true, causeFrost := true }

/-- A precise trap of a slot (R235): TRAPPED, TRAPCAUSE and TRAPADDR written, budget set aside, allowance started;
unhandled traps freeze the slot and the job (R237; the fault selector's entry is looked at in memory where no line holds it), others send a trap event to the context itself. resume is the
address at which RFT continues, tile and row the fields of R241. A trailing slot sends nothing (R278). -/
def takeTrap (s : State) (c : CoreId) (i : BitVec 2) (cause : Cause) (taddr : Word64) (resume : BitVec 48)
    (tile : BitVec 4) : State :=
  let x := s.slot c i
  let x' := { x with
    st := .trapped, cause := causeCode cause, resumeAt := resume.extractLsb' 2 46, taddr := taddr, pc := resume,
    setAside := x.budget, allowance := Config.trapAllowance, causeFrost := false, going := if cause = .budget then x.going else none }
  let s := s.updSlot c i fun _ => x'
  let k := (s.ctxAt c x.ctx).getD Ctx.reset
  if x.trailing then
    -- BRK freezes both slots of a pair at one count (R280, R419)
    if cause = .brk then s.updSlot c i fun x => { x with st := .frozen none true, causeFrost := true } else s
  else
    let bad := match readEntryNow s c k k.faultSel with
      | .invalid => true
      | _ => false
    if cause = .brk then freezeTrapped s c i 0x0B 1
    else if x.fhandler || bad then freezeTrapped s c i (causeCode cause) 2
    else
      let fz := frostState s k.job
      let s := if fz.1 then s.updSlot c i fun x => { x with causeFrost := true } else s
      let a : FaultArg := { source := 0, slot := i, tile := tile, row := if x'.progress.live then x'.progress.row else 0,
                            acc := 0, sub := 0, count := 0 }
      putFlight s c (faultEvent s c k.job k.faultSel cause a taddr) false

/-- A trap of the running instruction, TRAPADDR and the resume address its own address (R233). -/
def trapHere (s : State) (cause : Cause) (tile : BitVec 4) : State :=
  takeTrap s s.cur.1 s.cur.2 cause (s.me.pc.setWidth 64) s.me.pc tile

/-- The running slot waits with its instruction unissued (R97). -/
def stall (s : State) (w : Wait) : State := s.updMe fun x => { x with st := .stalled w }

/-- Retirements of the last 8,192 ns, for SKID (R253). -/
def pruneHist (now : Nat) (l : List (JobId × Nat × Nat)) : List (JobId × Nat × Nat) := l.filter fun p => decide (now ≤ p.2.1 + 8192)

/-- Loads of an instruction that is over send no further row: those with nothing out are gone. -/
def endPends (l : List Pend) (n : Nat) : List Pend :=
  l.filterMap fun p => if p.n == n && !p.sent then (if p.evs.isEmpty then none else some { p with sent := true }) else some p

/-- The running instruction is complete and the next is at an address (R293). -/
def retireTo (s : State) (pc : BitVec 48) : State :=
  let j := s.myCtx.job
  let t := s.now.toNat
  s.updMe fun x => { x with
    st := .ready, pc := pc, icount := x.icount + 1, popped := [], window := none, going := none, rowOnly := false,
    pend := endPends x.pend x.icount,
    hist := pruneHist t ((j, t, s.clk.cycle) :: x.hist) }

/-- The running instruction is complete (R293). -/
def retire (s : State) : State := retireTo s (s.me.pc + 4)

end Sys2Proof.Machine
end

