-- ==== Sys2Proof/Machine/Areas.lean ====
section
/-! DEFINITION. What lies in memory as bytes beside plain data: the ASID table (05 R139), context images (15 R413), records (04 R91) in spill
areas and retain areas (09 R256, 10 R271). -/

namespace Sys2Proof.Machine

/-- Bytes put in the place of a range, the list kept sorted and free of zeros. -/
def memPut (m : List Host.Cell) (k : Nat) (l : List Byte) : List Host.Cell :=
  (m.filter fun c => decide (c.1 < k)) ++ (l.zipIdx.filterMap fun (p : Byte × Nat) => if p.1 = 0 then none else some (k + p.2, p.1))
    ++ m.filter fun c => decide (k + l.length ≤ c.1)

/-- An entry as 128 bits (R139). -/
def AsidEntry.word (e : AsidEntry) : BitVec 128 :=
  (0 : BitVec 24) ++ e.altRoot.extractLsb' 12 40 ++ e.root.extractLsb' 12 40 ++ (0 : BitVec 22) ++ BitVec.ofBool e.harvest ++ BitVec.ofBool e.valid
/-- An ASID's entry rewritten: one 16 B store of firmware (R139). -/
def putAsid (s : State) (asid : BitVec 16) (e : AsidEntry) : State :=
  if 1024 ≤ asid.toNat then s else { s with mem := memPut s.mem (asidKey asid) (bytesOf 16 (AsidEntry.word e).toNat) }

/-- A record of 320 B (R91, R290): message, stamp, type 0 arrival, 1 return, 2 abandoned handler. -/
def recordBytes (m : Msg) (stamp type : Nat) : List Byte :=
  bytesOf 16 (flit0 m).toNat ++ bytesOf 16 (flit1 m).toNat ++ (List.range 256).map (m.payload.getD · 0) ++ bytesOf 8 stamp ++ bytesOf 24 type
/-- Byte o of the place n of a ring of a size, whose oldest record has an index: none where the place holds no record. -/
def ringByte (recs : List (List Byte)) (size head n o : Nat) : Option Byte := (recs[(n + size - head % size) % size]?).map fun l => l.getD o 0

/-- The header of a spill area (R91). -/
def Dir.header (d : Dir) : List Byte :=
  bytesOf 4 d.aHead ++ bytesOf 4 d.ring.length ++ bytesOf 4 d.rHead ++ bytesOf 4 d.ret.length ++ bytesOf 4 d.spillQ ++ bytesOf 2 d.pendFlags.toNat
    ++ bytesOf 2 ((if d.diverting then 1 else 0) + (if d.refusing then 2 else 0)) ++ bytesOf 8 d.refused.length
    ++ (d.pendAdd.toList.flatMap fun v => bytesOf 4 v.toNat) ++ bytesOf 32 0
/-- The header of a frozen-arrival area (R256). -/
def Dir.frozenHeader (d : Dir) : List Byte :=
  bytesOf 4 d.fHead ++ bytesOf 4 d.fbuf.length ++ bytesOf 4 d.fpeak ++ bytesOf 4 d.frefused ++ bytesOf 4 d.fcount.toNat ++ bytesOf 44 0
/-- Records of the arrival ring, whole ring (R91). -/
def Dir.ringSize (d : Dir) : Nat := d.spillQ + 288
/-- Offset of the frozen-arrival area (R256). -/
def Dir.frozenAt (d : Dir) : Nat := 128 + (2 * d.spillQ + 288) * 320 + 8192
/-- A byte of a spill area that its context's records give (R91, R256); an entry of the refused-source list is part and core as one number (log 9). -/
def Dir.spillByte (d : Dir) (o : Nat) : Option Byte :=
  let n := (o - 128) / 320
  let list := 128 + (2 * d.spillQ + 288) * 320
  if o < 128 then some ((d.header).getD o 0)
  else if n < d.ringSize then ringByte (d.ring.map fun r => recordBytes r.msg r.stamp 0) d.ringSize d.aHead n ((o - 128) % 320)
  else if o < list then ringByte (d.ret.map fun m => recordBytes m 0 1) d.spillQ d.rHead (n - d.ringSize) ((o - 128) % 320)
  else if o < d.frozenAt then (d.refused[(o - list) / 8]?).map fun p => (bytesOf 8 ((p.1 ++ p.2).toNat)).getD ((o - list) % 8) 0
  else if o < d.frozenAt + 64 then some (d.frozenHeader.getD (o - d.frozenAt) 0)
  else
    let q := o - d.frozenAt - 64
    ringByte (d.fbuf.map fun r => recordBytes r.msg r.stamp 0) 1024 d.fHead (q / 320) (q % 320)
/-- Bytes of a spill area (R91, R256). -/
def Dir.spillBytes (d : Dir) : Nat := d.frozenAt + 64 + 1024 * 320
/-- First key of a context's retain area (R271). -/
def Dir.retainKey (d : Dir) : Nat := vaultKey (clusterOf d.core) d.retain
/-- The byte that a context's areas give at a key. -/
def Dir.areaByte (d : Dir) (k : Nat) : Option Byte :=
  if d.trailing then none
  else if d.spill.toNat ≤ k ∧ k < d.spill.toNat + d.spillBytes then d.spillByte (k - d.spill.toNat)
  else if d.retainKey ≤ k ∧ k < d.retainKey + 320 * d.retainQ then
    ((d.retained.find? fun r => r.place == (k - d.retainKey) / 320).map fun r => (recordBytes r.msg 0 0).getD ((k - d.retainKey) % 320) 0)
  else none
/-- Byte o of a save area, by its list of pages of 64 KiB (R82; log 9). -/
def Dir.saveKey (d : Dir) (o : Nat) : Nat := (d.save.getD (o / 65536) 0).toNat + o % 65536
/-- The byte of a paired context's pair save area at a key, which holds its handlers' checkpoints (R279, R413). -/
def Dir.pairByte (d : Dir) (pairs : List Pair) (k : Nat) : Option Byte :=
  let a := d.saveKey 2048
  if d.pair.getLsbD 37 && decide (a ≤ k ∧ k < a + 6144) then
    some (Config.pairSave ((pairs.filter fun p => p.core == d.core && p.job == d.job).flatMap fun p => [p.slot.toNat, p.uid, p.snapL.icount]) (k - a))
  else none
/-- The byte that a read of plain memory meets at a key: a record's in an area of a context, or one of a pair save area, else the byte stored
there (log 9). -/
def State.byteAt (s : State) (k : Nat) : Byte :=
  (s.fw.dirs.findSome? fun d => (d.areaByte k).orElse fun _ => d.pairByte s.pairs k).getD (memRead s.mem k)

/-- The 256 containers of a code8 table (R199). -/
def code8Words (t : Code8) : List Nat := (List.range 256).map (code8Entry t)
/-- The first 2,048 B of a context image (R413). -/
def Ctx.imageBytes (k : Ctx) : List Byte :=
  (k.trig.toList.flatMap fun w => bytesOf 4 w.toNat) ++ (k.cval.toList.flatMap fun w => bytesOf 4 w.toNat) ++ (k.ctgt.toList.flatMap fun w => bytesOf 4 w.toNat)
    ++ bytesOf 2 k.carmed.toNat ++ bytesOf 2 k.flags.toNat ++ bytesOf 4 k.qarmed.toNat ++ (k.qdead.toList.flatMap fun w => bytesOf 8 w.toNat)
    ++ bytesOf 8 k.table.toNat ++ bytesOf 2 k.tableCount.toNat ++ bytesOf 2 k.asid.toNat ++ bytesOf 2 k.job.toNat ++ bytesOf 2 k.credits ++ bytesOf 4 k.budget
    ++ bytesOf 1 k.ageShift ++ bytesOf 3 k.retainQ.toNat ++ bytesOf 8 k.spillQ.toNat ++ bytesOf 8 k.spill.toNat ++ bytesOf 2 k.sendSeq.toNat
    ++ bytesOf 2 k.retainSeq.toNat ++ bytesOf 2 k.supSel.toNat ++ bytesOf 2 k.faultSel.toNat ++ bytesOf 8 k.window.toNat ++ List.replicate 672 0
    ++ (code8Words k.code8).flatMap fun c => bytesOf 4 c
/-- The number in n bytes from o. -/
def fieldAt (b : List Byte) (o n : Nat) : Nat := natOf ((b.drop o).take n)
/-- A context as its image says (R413), with what no image holds as it stands. -/
def Ctx.ofImage (k : Ctx) (b : List Byte) : Ctx :=
  let table := b.drop 1024
  let code8 : Code8 := if table = (code8Words none).flatMap (fun c => bytesOf 4 c) then none else some (BitVec.ofNat 8192 (natOf table))
  { k with
    trig := Vector.ofFn fun (i : Fin 32) => BitVec.ofNat 32 (fieldAt b (4 * i.val) 4)
    held := Vector.replicate 32 0
    cval := Vector.ofFn fun (i : Fin 16) => BitVec.ofNat 32 (fieldAt b (128 + 4 * i.val) 4)
    ctgt := Vector.ofFn fun (i : Fin 16) => BitVec.ofNat 32 (fieldAt b (192 + 4 * i.val) 4)
    carmed := BitVec.ofNat 16 (fieldAt b 256 2), flags := BitVec.ofNat 16 (fieldAt b 258 2), qarmed := BitVec.ofNat 4 (fieldAt b 260 1)
    qdead := Vector.ofFn fun (i : Fin 4) => BitVec.ofNat 64 (fieldAt b (264 + 8 * i.val) 8)
    table := BitVec.ofNat 48 (fieldAt b 296 6), tableCount := BitVec.ofNat 16 (fieldAt b 304 2), asid := BitVec.ofNat 16 (fieldAt b 306 2)
    credits := fieldAt b 310 2, budget := fieldAt b 312 4, ageShift := fieldAt b 316 1, retainQ := BitVec.ofNat 8 (fieldAt b 317 1)
    spillQ := BitVec.ofNat 32 (fieldAt b 320 4), spill := BitVec.ofNat 52 (fieldAt b 328 8), sendSeq := BitVec.ofNat 16 (fieldAt b 336 2)
    retainSeq := BitVec.ofNat 16 (fieldAt b 338 2), supSel := BitVec.ofNat 12 (fieldAt b 340 2), faultSel := BitVec.ofNat 12 (fieldAt b 342 2)
    window := BitVec.ofNat 64 (fieldAt b 344 8), code8 := code8, code8Old := code8 }
/-- The image's bytes written (R108, R414); an image lies in the first page. -/
def writeImage (s : State) (d : Dir) (k : Ctx) : State := { s with mem := memPut s.mem (d.saveKey 0) k.imageBytes }
/-- The image's bytes. -/
def imageOf (s : State) (d : Dir) : List Byte := memBytes s.mem (d.saveKey 0) 2048

/-- A context whose image is being read (R109): what its directory entry says, with its image as it is now. -/
def restoringCtx (s : State) (d : Dir) : Ctx :=
  { Ctx.ofImage { Ctx.reset with pair := d.pair } (imageOf s d) with st := .restoring, job := d.job }

end Sys2Proof.Machine
end

