-- ==== Sys2Proof/Machine/Net.lean ====
section
/-! DEFINITION. The NI's output: mesh coordinates, fixing a destination (04 R76, R77), holding behind NACKs (R102),
returning a message (R99) and releasing output (08 R221, 09 R254). -/

namespace Sys2Proof.Machine

/-- The refused or undeliverable form of a message: ends exchanged, VN-A, the given kind (R99). -/
def Msg.back (m : Msg) (kind : BitVec 4) : Msg :=
  Msg.checked { m with
    dstPart := m.srcPart, dstCore := m.srcCore, srcPart := m.dstPart, srcCore := m.dstCore, vnet := 1, kind := kind }

/-- A message returned to its source from a core (R99). -/
def sendBack (s : State) (at_ : CoreId) (m : Msg) (kind : BitVec 4) : State := putFlight s at_ (Msg.back m kind) false

/-- The cluster of a rank of a job (R76, R137). -/
def rankEntry (s : State) (j : JobId) (rank : Nat) : Option Word64 := (s.job j).bind fun x => x.ranks[rank]?
/-- The cluster that a rank-table entry names (R137). -/
def entryCluster (e : Word64) : ClusterId := e.extractLsb' 48 12
/-- The rank of a cluster in a job's table. -/
def rankOf (s : State) (j : JobId) (k : ClusterId) : Option Nat :=
  (s.job j).bind fun x => x.ranks.findIdx? fun e => entryCluster e == k

/-- Is the destination of a message held for its sender (R102)? -/
def heldFor (s : State) (c : CoreId) (m : Msg) : Bool :=
  match s.dir c m.job with
  | none => false
  | some d => m.kind == 0 && m.vnet == 0 && d.holds.any fun h => h.part == m.dstPart && h.word == m.dstCore
/-- Is a return ring full? While overflow pages hold records behind it, nothing newer may take a place in it (R102, R104, R107). -/
def Dir.retFull (d : Dir) : Bool := decide (d.spillQ ≤ d.ret.length) || !d.overflow.isEmpty

/-- The number under which a context keeps where a message to another part went: its sequence number, the retain sequence apart (R389, R271). -/
def sentNo (m : Msg) : Nat := m.seq.toNat + if m.retained then 65536 else 0
/-- A message whose destination is fixed leaves core c: into the return ring while its destination is held, else
onto the mesh (R102). What a handler message to another part carries as its destination is kept for its return (log 51). -/
def emitFixed (s : State) (c : CoreId) (m : Msg) : State :=
  if heldFor s c m then s.updDir c m.job fun d => { d with ret := d.ret ++ [m] }
  else
    let s := if m.kind = 0 ∧ m.vnet = 0 ∧ m.dstPart ≠ s.part then s.updDir c m.job fun d => { d with sentTo := d.sentTo.put (sentNo m) m.dstCore } else s
    putFlight s c m false

/-- Where the NI finds that a message goes (R76, R77): a rank of the own part becomes a core, rank 0xFFF is the host (R64), and a
rank that reaches no core sends the message back. -/
inductive Goes where
  | to (m : Msg)
  | host
  | back
deriving DecidableEq, Repr

/-- R76 and R77. -/
def goesTo (s : State) (m : Msg) (route : Bool) : Goes :=
  if !route || m.dstPart ≠ s.part then .to m
  else
    let rank := m.dstCore.extractLsb' 8 12
    if rank = 0xFFF then .host
    else
      match rankEntry s m.job rank.toNat with
      | some e => .to (Msg.checked { m with dstCore := entryCluster e ++ m.dstCore.extractLsb' 0 8 })
      | none => .back

/-- The NI injects a message (R76, R77). -/
def niInject (s : State) (c : CoreId) (m : Msg) (route : Bool) : State :=
  match goesTo s m route with
  | .to g => emitFixed s c g
  | .host => putFlight s c m true
  | .back => sendBack s c m 10

/-- Does a message wait for a place in the return ring, its destination held and the ring full (R102)? -/
def ringWaits (s : State) (c : CoreId) (o : OutMsg) : Bool :=
  !o.loop && (match goesTo s o.msg o.route with
    | .to g => heldFor s c g && ((s.dir c g.job).map Dir.retFull).getD false
    | _ => false)

/-- Ids of the events a slot of a pair still holds in its compare buffer (R278): not yet performed either. -/
def heldEvents (s : State) : List Nat :=
  s.pairs.flatMap fun p => p.buf.flatMap fun e => match e.2.1 with
    | .events l => l.map (·.id)
    | _ => []
/-- Is a memory event still to be performed? -/
def outstanding (s : State) (id : Nat) : Bool := (s.memq.any fun e => e.id == id) || (heldEvents s).contains id
/-- Is a matrix entry still to be accepted by its island (R220)? -/
def postWaiting (s : State) (k : ClusterId) (id : Nat) : Bool := (s.cluster k).heldPosts.any fun e => e.id == id

/-- May this message leave, its release met (R221)? -/
def released (s : State) (c : CoreId) (o : OutMsg) : Bool :=
  !o.evs.any (outstanding s) && !o.posts.any (postWaiting s (clusterOf c))

/-- Is the context of a job on a core frozen (R254)? -/
def frozenAt (s : State) (c : CoreId) (j : JobId) : Bool :=
  match (s.core c).ctxOf j with
  | some i => ((s.ctxAt c i).map (·.frozen)).getD false
  | none => false

/-- A released message goes: to its own context as an arrival still to come, or through the NI. The age of a retained record counts from here
(R274). -/
def emit (s : State) (c : CoreId) (o : OutMsg) : State :=
  let s := if o.msg.retained then s.updDir c o.msg.job fun d => { d with
    retained := d.retained.map fun r => if r.msg.seq = o.msg.seq then { r with sent := true, age := 0 } else r } else s
  if o.loop then putFlight s c o.msg false else niInject s c o.msg o.route

/-- Does a message of core c stand behind one that its slot sent before it and whose release is not met (R221)? -/
def behindHeld (s : State) (c : CoreId) (o : OutMsg) : Bool :=
  o.uid != 0 && ((s.core c).out ++ (s.core c).timed).any fun p => p.uid != 0 && p.slot == o.slot && decide (p.ord < o.ord) && !released s c p

/-- Release what the output buffer may release, in order; what a single step sent does not wait for what the freeze holds (R254, R258). blocked names
the slots that wait; a message to a held destination waits while the return ring is full (R102). A re-send or re-injection belongs to no slot (uid 0). -/
def flushLoop (s : State) (c : CoreId) : List OutMsg → List (BitVec 2) → List OutMsg → State
  | [], _, keep => s.updCore c fun k => { k with out := keep }
  | o :: l, blocked, keep =>
    if !o.stepped && (o.uid != 0 && blocked.contains o.slot || frozenAt s c o.msg.job) || !released s c o || behindHeld s c o || ringWaits s c o then
      flushLoop s c l (if o.uid = 0 then blocked else o.slot :: blocked) (keep ++ [o])
    else flushLoop (emit s c o) c l blocked keep

/-- The NI releases every message it may (R221). -/
def flushOut (s : State) (c : CoreId) : State := flushLoop s c (s.core c).out [] []

/-- Every core with output releases what it may, after an event was performed or an entry accepted. -/
def flushAll (s : State) : State :=
  (s.cores.filter fun p => !p.2.out.isEmpty).foldl (fun s p => flushOut s (BitVec.ofNat 20 p.1)) s

end Sys2Proof.Machine
end

