-- ==== Sys2Proof/Machine/Access.lean ====
section
/-! DEFINITION. Tagged pointers and their checks (05 R130, R134 to R137, R143), translation (R139 to R147), and memory
events with their edges (08 R211 to R219). -/

namespace Sys2Proof.Machine

/-- A tagged pointer's fields (R134). -/
structure Ptr where
  raw : Word64
  space : Nat
  addr : Nat
  width : Nat
  zeroOk : Bool
deriving DecidableEq, Repr

/-- The fields of a pointer, none for a reserved space (R134). -/
def ptrOf (p : Word64) : Option Ptr :=
  let mk (sp w : Nat) (z : Bool) : Option Ptr :=
    some { raw := p, space := sp, addr := p.toNat % 2 ^ w, width := w, zeroOk := z }
  match (p.extractLsb' 60 4).toNat with
  | 0 => mk 0 23 (p.extractLsb' 23 37 == 0)
  | 1 => mk 1 23 (p.extractLsb' 23 25 == 0)
  | 2 => mk 2 48 (p.extractLsb' 48 12 == 0)
  | 3 => mk 3 44 true
  | 5 => mk 5 52 (p.extractLsb' 52 8 == 0)
  | _ => none

/-- The same pointer with another address, in the width of its field (R134). -/
def Ptr.at_ (q : Ptr) (a : Int) : Word64 :=
  BitVec.ofNat 64 (q.raw.toNat / 2 ^ q.width * 2 ^ q.width + wrapTo q.width a)

/-- A SYSTEM pointer to a physical address (R134). -/
def sysPtr (pa : BitVec 52) : Word64 := (5 : BitVec 4) ++ (0 : BitVec 8) ++ pa

/-- The rank that a vault pointer names, the own one apart (R135). -/
def Ptr.rankKey (q : Ptr) : Nat := if q.space = 0 then 4096 else (q.raw.extractLsb' 48 12).toNat

/-- A row of an access: its number, its offset from the pointer and its length in bytes. -/
structure Row where
  n : Nat
  off : Int
  len : Nat
deriving DecidableEq, Repr

/-- The core whose place a slot's accesses are checked for: the leader's for a trailing slot (R277). -/
def homeCore (s : State) : CoreId :=
  if s.me.trailing then
    match s.pairs.find? fun p => p.tcore == s.cur.1 && p.tslot == some s.cur.2 with
    | some p => p.core
    | none => s.cur.1
  else s.cur.1

/-- The rank-table entry that a vault pointer is resolved to (R135, R137): the own cluster's for LOCAL. -/
def resolve (s : State) (job : JobId) (core : CoreId) (q : Ptr) : Option Word64 :=
  if q.space = 0 then
    match rankOf s job (clusterOf core) with
    | some r => rankEntry s job r
    | none => none
  else rankEntry s job (q.raw.extractLsb' 48 12).toNat

/-- Window base of an entry in bytes (R137). -/
def winBase (e : Word64) : Nat := (e.extractLsb' 24 17).toNat * 64
/-- Window size of an entry in bytes (R137). -/
def winSize (e : Word64) : Nat := (e.extractLsb' 0 17).toNat * 64

/-- Checks 2 to 6 of R130 on every valid row: the cause and what TRAPADDR takes, none for PRIV, whose TRAPADDR is the
instruction's address (R233). whole names the spaces whose rows start and end on 16 B boundaries (R377, R386). -/
def checkRows (p : Word64) (firmware : Bool) (win : Option Word64) (rows : List Row) (align : Nat) (whole : Nat → Bool) :
    Option (Cause × Option Word64) :=
  match ptrOf p with
  | none => some (.bounds, some p)
  | some q =>
    if q.space = 5 ∧ firmware = false then some (.priv, none)
    else
      let a (r : Row) : Int := (q.addr : Int) + r.off
      let fits (r : Row) : Bool := decide (0 ≤ a r ∧ a r + r.len ≤ 2 ^ q.width)
      let aligned (r : Row) : Bool :=
        a r % align == 0 && (!whole q.space || (a r % 16 == 0 && r.len % 16 == 0))
      let inside (r : Row) : Bool := match win with
        | none => false
        | some e => decide (a r + r.len ≤ winSize e)
      let trap (c : Cause) (r : Row) : Option (Cause × Option Word64) := some (c, some (q.at_ (a r)))
      match rows.find? fun r => !(q.zeroOk && fits r) with
      | some r => trap .bounds r
      | none =>
        match rows.find? fun r => !aligned r with
        | some r => trap .align r
        | none =>
          if q.space ≤ 1 then
            match rows.find? fun r => !inside r with
            | some r => trap .bounds r
            | none => none
          else none

/-- Does a translation cover an address (R144)? -/
def Tlb.covers (t : Tlb) (asid : BitVec 16) (va : BitVec 48) : Bool :=
  t.asid == asid && decide (t.va.toNat ≤ va.toNat ∧ va.toNat < t.va.toNat + t.size)
/-- A translation held by a cluster's micro-TLB or its chiplet's last-level TLB (R144). -/
def tlbLook (s : State) (k : ClusterId) (asid : BitVec 16) (va : BitVec 48) : Option Tlb :=
  match (s.cluster k).tlb.find? fun t => t.covers asid va with
  | some t => some t
  | none => (s.chiplet (chipletOf k)).tlb.find? fun t => t.covers asid va

/-- What a translation answers: a physical address, a fault with TRAPADDR's value, or nothing yet. -/
inductive XRes where
  | ok (pa : Nat)
  | fault (c : Cause) (addr : Option Word64)
  | miss
deriving DecidableEq, Repr

/-- The page of an address (R145). -/
def vpnOf (va : BitVec 48) : BitVec 32 := va.extractLsb' 16 32

/-- Translation of one address for a waiting access (R142, R144, R146): a fault kept for this access comes first. -/
def xlate (s : State) (k : ClusterId) (who : Waiter) (asid : BitVec 16) (va : BitVec 48) (write fetch : Bool) : XRes :=
  match (s.cluster k).faults.find? fun f => f.who == who && f.asid == asid && f.vpn == vpnOf va with
  | some f => .fault f.cause (if f.cause = .xlateUe then some (sysPtr f.addr) else none)
  | none =>
    match tlbLook s k asid va with
    | none => .miss
    | some t =>
      if fetch && !t.x then .fault .perm none
      else if write && !t.w then .fault .perm none
      else if write && (!t.d || (t.c && (asidEntry s asid).harvest)) then .miss
      else .ok (t.frame.toNat + (va.toNat - t.va.toNat))

/-- Does an access of the miss queue still wait, its agent able to try it again (R145)? -/
def stillWaits (s : State) (k : ClusterId) (m : Miss) : Bool :=
  match m.who with
  | .slot c i => match (s.slot c i).st with
    | .stalled (.xlate a v) => a == m.asid && v == m.vpn
    | _ => false
  | .stream uid => (s.cluster k).ectxs.any fun e => e.resident && e.streams.any fun r => r.uid == uid
  | .copy uid => (s.cluster k).copies.any fun d => d.uid == uid && !d.faulted
  | .code => (s.cluster k).codeWaits.any fun w => w.1 == m.asid && vpnOf w.2.1 == m.vpn && w.2.2.isNone
  | .edge => true
/-- An access takes a place in the miss queue (R145); a queue of 64 has none free. Accesses that nobody waits for any longer leave it. -/
def noteMiss (s : State) (k : ClusterId) (m : Miss) : State :=
  s.updCluster k fun q =>
    let l := q.misses.filter fun x => x.who == m.who || !x.served || stillWaits s k x
    if l.contains m || 64 ≤ l.length then { q with misses := l } else { q with misses := l ++ [m] }
/-- Is an access's turn to be tried again: its walk over, and those before it in the queue that are to be tried again gone (R145)? -/
def retryTurn (s : State) (k : ClusterId) (m : Miss) : Bool :=
  m.served && !((s.cluster k).misses.takeWhile fun x => x != m).any fun x => x.served && stillWaits s k x
/-- May an agent's access to a page go on, as far as its place in the miss queue says: it has none, or its turn has come? -/
def mayRetry (s : State) (k : ClusterId) (who : Waiter) (asid : BitVec 16) (vpn : BitVec 32) : Bool :=
  match (s.cluster k).misses.find? fun m => m.who == who && m.asid == asid && m.vpn == vpn with
  | none => true
  | some m => retryTurn s k m
/-- The same for every access of an agent. -/
def mayGo (s : State) (k : ClusterId) (who : Waiter) : Bool := (s.cluster k).misses.all fun m => m.who != who || retryTurn s k m
/-- An agent tries its accesses again: their places in the queue are free. -/
def retried (s : State) (k : ClusterId) (who : Waiter) : State :=
  if (s.cluster k).misses.any fun m => m.who == who && m.served then
    s.updCluster k fun q => { q with misses := q.misses.filter fun m => !(m.who == who && m.served) }
  else s
/-- The fault kept for an access is delivered (R146). -/
def takeFault (s : State) (k : ClusterId) (who : Waiter) : State :=
  s.updCluster k fun q => { q with faults := q.faults.filter fun f => f.who != who }

/-- First addresses, one in each page, of n bytes from an address. -/
def pagesOf (a n : Nat) : List Nat :=
  if n = 0 then []
  else (List.range ((a + n - 1) / 65536 - a / 65536 + 1)).map fun i => if i = 0 then a else (a / 65536 + i) * 65536

/-- Translation of n bytes from a GLOBAL address: one answer for each page, in order. -/
def xlateRange (s : State) (k : ClusterId) (who : Waiter) (asid : BitVec 16) (a n : Nat) (write : Bool) : List (Nat × XRes) :=
  (pagesOf a n).map fun b => (b, xlate s k who asid (BitVec.ofNat 48 b) write false)

/-- What a row's translation comes to: the byte-space key of each address, a fault at an address, or a page to wait
for. -/
inductive RowX where
  | keys (f : List (Nat × Nat))
  | fault (c : Cause) (at_ : Nat) (addr : Option Word64)
  | miss (vpn : BitVec 32)
deriving DecidableEq, Repr

/-- The first page that answers other than ok decides (R125). -/
def rowX : List (Nat × XRes) → List (Nat × Nat) → RowX
  | [], acc => .keys acc
  | (a, .ok pa) :: l, acc => rowX l (acc ++ [(a, pa)])
  | (a, .fault c t) :: _, _ => .fault c a t
  | (a, .miss) :: _, _ => .miss (vpnOf (BitVec.ofNat 48 a))

/-- The key of an address, from the first addresses of its pages. -/
def keyIn (f : List (Nat × Nat)) (a : Nat) : Nat :=
  match (f.filter fun p => decide (p.1 ≤ a)).getLast? with
  | some p => p.2 + (a - p.1)
  | none => a

/-- Least scope that holds the point of coherence of a vault access (R211). -/
def vaultNear (core : CoreId) (e : Word64) : BitVec 2 := if entryCluster e = clusterOf core then 1 else 2

/-- Units that a list of keys covers whole (R266). -/
def wholeUnits (l : List Nat) : List Nat :=
  ((l.map eccUnit).eraseDups).filter fun u => (List.range (eccSize u)).all fun i => l.contains (u + i)
/-- Bytes are written (R266): their units have fresh check bits, but one written in part keeps its uncorrectable mark. -/
def freshUnits (h : Hbm) (l : List Nat) (whole : Nat → Bool) : Hbm :=
  { h with bad := h.bad.filter fun u => !whole u, soft := h.soft.filter fun u => !(l.map eccUnit).contains u }
/-- A whole range is written (R266). -/
def freshRange (h : Hbm) (base n : Nat) : Hbm :=
  let out (u : Nat) : Bool := !decide (base ≤ u ∧ u + eccSize u ≤ base + n)
  { h with bad := h.bad.filter out, soft := h.soft.filter out }
/-- The HBM stack of a physical address (R143). -/
def hbmStack (pa : Nat) : Nat := (bitsOf pa 11 8) ^^^ (bitsOf pa 15 12) ^^^ (bitsOf pa 19 16) ^^^ (bitsOf pa 23 20)
/-- The pseudo-channel of a physical address within its stack (R143). -/
def hbmChannel (pa : Nat) : Nat := (bitsOf pa 17 12) ^^^ (bitsOf pa 29 24)
/-- Number of a bank of the module: stack, pseudo-channel, bank (R12). -/
def bankNo (stack channel bank : Nat) : Nat := (bank * 64 + channel) * 16 + stack

/-- An access to a line of HBM (R12, log 37): another row than its bank has open is an activation, which the controller counts. -/
def activate (s : State) (k : Nat) : State :=
  if k < Config.deviceBase then
    let p := Config.hbmPlace (k / 64)
    let n := bankNo (hbmStack k) (hbmChannel k) p.1
    let same := s.hbm.openRow.look n == some p.2
    { s with hbm := { s.hbm with
      openRow := if same then s.hbm.openRow else s.hbm.openRow.put n p.2
      acts := if same then s.hbm.acts else s.hbm.acts.put n ((s.hbm.acts.look n).getD 0 + 1) } }
  else s
/-- The lines of several keys, each accessed once. -/
def activateAll (s : State) (l : List Nat) : State := ((l.map (· / 64)).eraseDups).foldl (fun s n => activate s (64 * n)) s

/-- Bytes of a row grouped by aligned 16 B granule (R212): granule key, and (byte of the granule, byte of the tile). -/
def granules (l : List (Nat × Nat)) : List (Nat × List (Nat × Nat)) :=
  l.foldl (fun acc p =>
    let g := p.1 / 16 * 16
    if acc.any fun q => q.1 == g then acc.map fun q => if q.1 = g then (g, q.2 ++ [(p.1 - g, p.2)]) else q
    else acc ++ [(g, [(p.1 - g, p.2)])]) []

/-- Do two events touch a common byte (R215)? -/
def MemEv.overlaps (x y : MemEv) : Bool := x.key == y.key && x.bytes.any fun b => y.bytes.contains b
/-- Does an event write? -/
def MemEv.writes (e : MemEv) : Bool := match e.kind with
  | .read => false
  | _ => true
/-- Does an event read? -/
def MemEv.reads (e : MemEv) : Bool := match e.kind with
  | .write _ => false
  | _ => true

/-- Is an event an operation that its tag discards (R172)? It has no edge (R212). -/
def MemEv.dropped (e : MemEv) : Bool := match e.kind with
  | .atom _ op => op.tag
  | _ => false

/-- Events of a handler not yet performed, those held by a pair's buffer among them (R278). -/
def ownEvents (s : State) (o : Owner) : List MemEv :=
  let held := s.pairs.flatMap fun p => p.buf.flatMap fun e => match e.2.1 with
    | .events l => l
    | _ => []
  (s.memq ++ held).filter fun e => e.owner == o

/-- The events that precede an event of a handler: bytes in common (R215), its class within the earlier access's scope
(R217), and fences (R219). A held store that a read of its pair overlaps is no edge (R278). -/
def edgesOf (s : State) (fences : List FenceRec) (earlier : List MemEv) (y : MemEv) : List Nat :=
  let heldId (id : Nat) : Bool := !(s.memq.any fun e => e.id == id)
  let pre := earlier.filter fun x =>
    if x.dropped || y.dropped || decide (y.n < x.n) then false
    else if x.overlaps y then !(heldId x.id && x.writes && !x.reads && !y.writes)
    else x.cls == y.cls && decide (x.near.toNat ≤ x.scope.toNat)
  let fen := fences.flatMap fun f =>
    if f.mask.getLsbD y.cls.toNat && (f.kind != 2 || y.writes) then f.before.filter (outstanding s) else []
  (pre.map (·.id) ++ fen).eraseDups

/-- The events of one row: fresh numbers and edges. Events of one row have no edge among themselves (R217). -/
def makeEvents (s : State) (fences : List FenceRec) (evs : List MemEv) : State × List MemEv :=
  match evs with
  | [] => (s, [])
  | e :: _ =>
    let earlier := ownEvents s e.owner
    let l := evs.zipIdx.map fun p => { p.1 with id := s.nextId + p.2, after := edgesOf s fences earlier p.1 }
    ({ s with nextId := s.nextId + evs.length }, l)

/-- Ids of outstanding events that a handler issued before its n-th instruction, in the classes of a mask that lie within a scope (R220, R226, R229; near of
3 is every scope). -/
def coveredBy (s : State) (o : Owner) (mask : BitVec 4) (scope n : Nat) : List Nat :=
  ((ownEvents s o).filter fun e => decide (e.n < n) && mask.getLsbD e.cls.toNat && decide (e.near.toNat ≤ scope)).map (·.id)

/-- The events of an access that no slot issues and no stream: (key, place of the data) by granule (R212), with no edge among themselves; their numbers. -/
def plainEvents (s : State) (o : Owner) (job : JobId) (cls scope near : BitVec 2) (va : Word64) (l : List (Nat × Nat))
    (kind : List (Nat × Nat) → EvKind) : List Nat × State :=
  let units := wholeUnits (l.map (·.1))
  let mk (g : Nat × List (Nat × Nat)) : MemEv :=
    { id := 0, key := g.1, kind := kind g.2, bytes := g.2.map (·.1), owner := o, cls := cls, scope := scope, near := near, after := [], dst := 0,
      map := g.2, arrived := none, clears := units.filter fun u => g.1 ≤ u + eccSize u - 1 && u + eccSize u - 1 < g.1 + 16,
      n := 0, job := job, va := va }
  let evs := ((granules l).map mk).zipIdx.map fun p => { p.1 with id := s.nextId + p.2 }
  (evs.map (·.id), { s with nextId := s.nextId + evs.length, memq := s.memq ++ evs })

/-- Data that read events returned: bytes by place, with the tag of the granule that each came from; the returns are taken. -/
def takeRets (s : State) (ids : List Nat) : List (Nat × Byte × Bool) × State :=
  let mine := s.rets.filter fun r => ids.contains r.id
  (mine.flatMap fun r => r.bytes.map fun p => (p.1, p.2, r.tag), { s with rets := s.rets.filter fun r => !ids.contains r.id })

/-- The cluster that an owner's access comes from, for its health counts (R287). -/
def Owner.cluster : Owner → Option ClusterId
  | .slot c _ _ => some (clusterOf c)
  | .stream k _ => some k
  | .copy k _ => some k
  | _ => none

/-- The owner of what the running slot does. -/
def ownerOf (s : State) : Owner := .slot s.cur.1 s.cur.2 s.me.uid

end Sys2Proof.Machine
end

