-- ==== Sys2Proof/WellFormed.lean ====
section
/-! DEFINITION. Which instructions a word of R294 to R312 can stand for: the ranges of fields that R297 step 4
checks. A step without a word is well formed when its operands lie in the ranges its rule names. -/

namespace Sys2Proof

/-- A release mask and scope of a sending word: both zero or both nonzero (R310). -/
def releaseOk (m : BitVec 4) (v : BitVec 2) : Bool := (m == 0) == (v == 0)

/-- The payload fields of a sending word: N is zero without payload and the range stays within T15 (R310). -/
def payloadOk (c : TReg) (n : BitVec 2) : Bool :=
  if c == 0 then n == 0 else decide (c.toNat + n.toNat ≤ 15)

/-- The CSR numbers that R151 assigns; a word with another number is ILLEGAL (R409). -/
def csrAssigned (c : BitVec 12) : Bool :=
  [0x000, 0x001, 0x002, 0x003, 0x004, 0x005, 0x006, 0x008, 0x010, 0x020, 0x021, 0x022, 0x030, 0x031,
   0x040, 0x041, 0x042, 0x043, 0x050, 0x060, 0x061, 0x062, 0x063, 0x070].contains c

/-- The item of SLOTRD and SLOTWR (R298): tile 1 to 15, shape word 1 to 15, mask 1 to 3, or any CSR number. -/
def itemOk (t : BitVec 2) (n : BitVec 8) : Bool :=
  if t == 0 || t == 1 then decide (1 ≤ n.toNat ∧ n.toNat ≤ 15)
  else if t == 2 then decide (1 ≤ n.toNat ∧ n.toNat ≤ 3)
  else true

/-- The fields of i lie in the ranges the spec gives (R297 step 4). -/
def WellFormed (i : Instr) : Bool :=
  match i with
  | .rft t _ => t != 3
  | .csrr _ c => csrAssigned c
  | .csrw _ c => csrAssigned c
  | .cinv b l => !(b == 0) || l == 0
  | .tlbi a b _ k => if k == 0 then true else if k == 1 then b == 0 else if k == 2 then a == 0 && b == 0 else false
  | .slotrd _ _ t n => itemOk t n
  | .slotwr _ _ t n => itemOk t n
  | .shapei _ f _ _ => decide (f.toNat ≤ 16)
  | .cmp a _ _ _ f => a != 0 && decide (f.toNat ≤ 5)
  | .fcmp a _ _ _ _ => a != 0
  | .perm8 _ b _ _ => decide (b.toNat ≤ 8)
  | .mand a _ _ => a != 0
  | .mor a _ _ => a != 0
  | .mxor a _ _ => a != 0
  | .mnot a _ => a != 0
  | .mld a _ => a != 0
  | .mset a _ => a != 0
  | .fence s m t => s != 0 && m != 0 && t != 3
  | .send _ _ c n m v => payloadOk c n && releaseOk m v
  | .sendr _ _ c n m v => payloadOk c n && releaseOk m v
  | .sendat _ _ c n m v => payloadOk c n && releaseOk m v
  | .reply _ c n m v => payloadOk c n && releaseOk m v
  | .fwd _ _ m v => releaseOk m v
  | .cinc _ _ _ m v => releaseOk m v
  | .fset _ _ m v => releaseOk m v
  | .post a b _ n _ _ _ =>
    decide (a.toNat ≤ 12) && (if n == 0 || n == 3 then decide (b.toNat ≤ 12) else decide (b.toNat ≤ 10))
  | .posth a _ _ _ _ _ => decide (a.toNat ≤ 12)
  | .accrd a _ _ n => decide (a.toNat + n.toNat ≤ 15)
  | .acccfg _ v => v != 3
  | .brCond c _ _ => decide (1 ≤ c.toNat ∧ c.toNat ≤ 4)
  | .loop c _ => c != 0
  | .supplyDroop _ x => decide (x.toNat ≤ 64)
  | .rdmaWrite _ _ _ d => decide (d.length ≤ 2 ^ 31)
  | .attestation _ m => decide (m.nonce.length = 32)
  | .imageBlock _ _ d => decide (d.length ≤ 4000)
  | _ => true

end Sys2Proof
end

