-- ==== Sys2Proof/Machine/Csr.lean ====
section
/-! DEFINITION. Control and status registers (05 R151 to R153, R124, R133, R236, 09 R252, R253, 15 R413). -/

namespace Sys2Proof.Machine

/-- PROGRESS as a register (R124). -/
def Progress.word (p : Progress) : Word64 :=
  (0 : BitVec 48) ++ BitVec.ofBool p.live ++ p.row ++ (0 : BitVec 8) ++ p.tile
/-- PROGRESS written whole; its zero fields stay zero (R124). -/
def progressOf (v : Word64) : Progress :=
  { live := v.getLsbD 15, row := v.extractLsb' 12 3, tile := v.extractLsb' 0 4 }

/-- TRAPCAUSE (R236). -/
def Slot.trapCause (x : Slot) : Word64 :=
  x.resumeAt ++ (0 : BitVec 8) ++ BitVec.ofBool x.fhandler ++ BitVec.ofBool x.causeFrost ++ x.cause
/-- TRAPCAUSE written by firmware (R151). -/
def Slot.setTrapCause (x : Slot) (v : Word64) : Slot :=
  { x with resumeAt := v.extractLsb' 18 46, fhandler := v.getLsbD 9, causeFrost := v.getLsbD 8, cause := v.extractLsb' 0 8 }

/-- NETPAY (R152). -/
def netpay : Word64 := 0x0000010010101010

/-- A CSR as it reads for slot i of core c (R151). While a slot is TRAPPED, BUDGET_LEFT is its allowance (R239). -/
def csrRead (s : State) (c : CoreId) (i : BitVec 2) (n : BitVec 12) : Word64 :=
  let x := s.slot c i
  let k := (s.ctxAt c x.ctx).getD Ctx.reset
  match n.toNat with
  | 0x000 => c.setWidth 64
  | 0x001 => s.part.setWidth 64
  | 0x002 => (k.regs.look 2).getD (BitVec.ofNat 64 ((rankOf s k.job (clusterOf c)).getD 0))
  | 0x003 => (k.regs.look 3).getD (BitVec.ofNat 64 (((s.job k.job).map fun j => j.ranks.length).getD 0))
  | 0x004 => k.job.setWidth 64
  | 0x005 => (k.regs.look 5).getD (x.ctx.setWidth 64)
  | 0x006 => (x.regs.look 6).getD (i.setWidth 64)
  | 0x008 => netpay
  | 0x010 => s.now
  | 0x020 => x.progress.word
  | 0x021 => x.msginfo
  | 0x022 => BitVec.ofNat 64 (if x.st = .trapped then x.allowance else x.budget)
  | 0x030 => x.trapCause
  | 0x031 => x.taddr
  | 0x040 => BitVec.ofNat 64 k.budget
  | 0x041 => BitVec.ofNat 64 k.ageShift
  | 0x042 => k.spillQ.setWidth 64
  | 0x043 => k.retainQ.setWidth 64
  | 0x050 => x.skid
  | 0x060 => k.frostCause
  | 0x061 => k.frostOrigin
  | 0x062 => k.frostTime
  | 0x063 => k.frostSeq
  | 0x070 => (s.chiplet (chipletOf (clusterOf c))).wearLife
  | _ => 0

/-- May a context's own CSRW write a number with a value (R151, R153)? The ranges of BUDGET and AGE_SHIFT bind a job's. -/
def csrWritable (firmware : Bool) (n : BitVec 12) (v : Word64) : Bool :=
  match n.toNat with
  | 0x020 => true
  | 0x040 => firmware || decide (1 ≤ v.toNat ∧ v.toNat ≤ Config.maxBudget)
  | 0x041 => firmware || decide (4 ≤ v.toNat ∧ v.toNat ≤ 20)
  | 0x042 | 0x043 | 0x030 => firmware
  | _ => false

/-- A CSR of slot i of core c, or of its context, written (R151); fields named zero stay zero (R3). RANK, CLUSTERS, CTXSLOT and SLOT
read as written from then on, and BUDGET and AGE_SHIFT have the widths of a context image (log 22); the registers of a core, the part, the domain or a chiplet belong to no slot or context. -/
def csrWrite (s : State) (c : CoreId) (i : BitVec 2) (n : BitVec 12) (v : Word64) : State :=
  let j := (s.slot c i).ctx
  match n.toNat with
  | 0x002 => s.updCtx c j fun k => { k with regs := k.regs.put 2 (v &&& 0xFFF) }
  | 0x003 => s.updCtx c j fun k => { k with regs := k.regs.put 3 v }
  | 0x005 => s.updCtx c j fun k => { k with regs := k.regs.put 5 (v &&& 3) }
  | 0x006 => s.updSlot c i fun x => { x with regs := x.regs.put 6 (v &&& 3) }
  | 0x004 => s.updCtx c j fun k => { k with job := v.setWidth 16 }
  | 0x020 => s.updSlot c i fun x => { x with progress := progressOf v }
  | 0x021 => s.updSlot c i fun x => { x with msginfo := v &&& ~~~(7 : Word64) }
  | 0x022 => s.updSlot c i fun x => if x.st = .trapped then { x with allowance := v.toNat } else { x with budget := v.toNat }
  | 0x030 => s.updSlot c i fun x => x.setTrapCause v
  | 0x031 => s.updSlot c i fun x => { x with taddr := v }
  | 0x040 => s.updCtx c j fun k => { k with budget := v.toNat % 2 ^ 32 }
  | 0x041 => s.updCtx c j fun k => { k with ageShift := v.toNat % 2 ^ 8 }
  | 0x042 => s.updCtx c j fun k => { k with spillQ := v.setWidth 32 }
  | 0x043 => s.updCtx c j fun k => { k with retainQ := v.setWidth 8 }
  | 0x050 => s.updSlot c i fun x => { x with skid := v &&& ~~~(0xFE : Word64) }
  | _ => s

end Sys2Proof.Machine
end

