-- ==== Sys2Proof/Machine/Engine.lean ====
section
/-! DEFINITION. Engine contexts and streams (06 R154 to R167): lookup, binding, pops, pushes and closing. -/

namespace Sys2Proof.Machine

/-- The streams of a core's contexts, with their engine contexts. -/
def streamsOn (s : State) (c : CoreId) : List (Ectx × Stream) :=
  ((s.cluster (clusterOf c)).ectxs.filter fun e => e.core == c).flatMap fun e => e.streams.map fun r => (e, r)

/-- The stream that binds a tile of a slot (R155). A closing stream still binds it (R387). -/
def boundTo (s : State) (c : CoreId) (i : BitVec 2) (t : TReg) : Option (Ectx × Stream) :=
  (streamsOn s c).find? fun p => p.2.slot == i && p.2.tile == t

/-- A stream changed. -/
def updStream (s : State) (k : ClusterId) (uid : Nat) (f : Stream → Stream) : State :=
  s.updCluster k fun q => { q with
    ectxs := q.ectxs.map fun e => { e with streams := e.streams.map fun r => if r.uid = uid then f r else r } }

/-- Streams removed; an engine context without one is gone (R154, R165). -/
def dropStreams (s : State) (k : ClusterId) (p : Ectx → Stream → Bool) : State :=
  s.updCluster k fun q => { q with
    ectxs := (q.ectxs.map fun e => { e with streams := e.streams.filter fun r => !p e r }).filter fun e => !e.streams.isEmpty }

/-- Does a stream write (R155)? -/
def Stream.isWrite (r : Stream) : Bool := 2 ≤ r.kind.toNat
/-- Tiles that a stream holds (R157). -/
def Stream.tiles (r : Stream) : Nat := (r.rows + r.shape.vrows - 1) / r.shape.vrows
/-- Rows of tile t of a stream (R157). -/
def Stream.rowsIn (r : Stream) (t : Nat) : Nat := Nat.min r.rows ((t + 1) * r.shape.vrows) - t * r.shape.vrows

/-- A service request, in order of arrival, once (R166). -/
def askService (s : State) (c : CoreId) (i : BitVec 2) : State :=
  s.updCluster (clusterOf c) fun q => if q.wants.contains (c, i) then q else { q with wants := q.wants ++ [(c, i)] }

/-- Does an engine context hold one of Fennel's two places (R154, R165)? -/
def Ectx.holds (e : Ectx) : Bool := match e.st with
  | .parked => false
  | _ => true

/-- A new stream: the engine context exists from now on; without a place it asks for service, and a parked one asks
again (R166). One that a single step of a frozen context makes is frozen with it (R185). -/
def addStream (s : State) (c : CoreId) (i : BitVec 2) (job : JobId) (r : Stream) : State :=
  let q := s.cluster (clusterOf c)
  if q.ectxs.any fun e => e.core == c && e.ctx == i then
    let parked := q.ectxs.any fun e => e.core == c && e.ctx == i && !e.resident
    let s := s.updCluster (clusterOf c) fun q => { q with
      ectxs := q.ectxs.map fun e => if e.core = c ∧ e.ctx = i then { e with streams := e.streams ++ [r] } else e }
    if parked then askService s c i else s
  else
    let e : Ectx := { core := c, ctx := i, job := job, st := .parked, since := s.clk.cycle, streams := [r],
                      forEviction := false, frozen := ((s.ctxAt c i).map (·.frozen)).getD false, asleep := false }
    askService (s.updCluster (clusterOf c) fun q => { q with ectxs := q.ectxs ++ [e] }) c i

/-- What a read of a bound tile meets (R159, R163). -/
inductive Pop where
  /-- not bound to a read stream -/
  | unbound
  | tile (t : Tile)
  | stall
  /-- STREAM, with TRAPADDR where a faulted tile is reached -/
  | trap (addr : Option Word64)
deriving DecidableEq, Repr

/-- May slots pop and push at an engine context: it is not PARKED, nor its image on the way back (R165, log 53)? -/
def Ectx.usable (e : Ectx) : Bool := match e.st with
  | .parked | .restoring => false
  | _ => true

/-- A pop of a stream (R159, R163). A retried tile is waited for as on an empty queue. -/
def popOf (e : Ectx) (r : Stream) : Pop :=
  if r.isWrite then .trap none
  else
    match r.queue with
    | t :: _ => if e.usable then .tile t else .stall
    | [] =>
      if r.tiles ≤ r.moved then .trap none
      else if r.st = .faulted ∧ r.retry = false ∧ r.faultTile ≤ r.moved then .trap (some r.faultAddr)
      else .stall

/-- What a write of a bound tile meets (R159, R163). -/
inductive Push where
  | unbound
  | room
  | stall
  | trap (addr : Option Word64)
deriving DecidableEq, Repr

/-- A push to a stream (R159, R163). The push that met the fault waits until the tile is written again. -/
def pushOf (e : Ectx) (r : Stream) : Push :=
  if !r.isWrite then .trap none
  else if r.tiles ≤ r.moved then .trap none
  else if r.st = .faulted ∧ r.retry = false then .trap (some r.faultAddr)
  else if !e.usable || r.redo.isSome || decide (Config.streamQueue ≤ r.queue.length) then .stall
  else .room

/-- A tile taken from a stream's queue. -/
def takePop (s : State) (k : ClusterId) (uid : Nat) : State :=
  updStream s k uid fun r => { r with queue := r.queue.drop 1, moved := r.moved + 1 }
/-- A tile joined to a stream's queue. -/
def givePush (s : State) (k : ClusterId) (uid : Nat) (t : Tile) : State :=
  updStream s k uid fun r => { r with queue := r.queue ++ [t], moved := r.moved + 1 }
/-- The RFT of an instruction that met a faulted tile makes Fennel take the tile again, or write it again from its failing row (R163). -/
def retryStream (s : State) (k : ClusterId) (uid : Nat) : State :=
  updStream s k uid fun r => { r with retry := true, redo := if r.isWrite then some r.faultTile else none }

/-- SCLOSE or DONE on one stream (R159): a read stream unbinds, a write stream closes behind its pushed tiles. -/
def closeStream (s : State) (k : ClusterId) (r : Stream) : State :=
  if r.isWrite then updStream s k r.uid fun x => { x with
    st := .closing, queue := if x.st = .faulted then [] else x.queue }
  else dropStreams s k fun _ x => x.uid == r.uid

/-- Every stream of a slot closes, as DONE does (R159, R351). -/
def closeAll (s : State) (c : CoreId) (i : BitVec 2) : State :=
  ((streamsOn s c).filter fun p => p.2.slot == i && p.2.handler == (s.slot c i).uid).foldl
    (fun s p => closeStream s (clusterOf c) p.2) s

/-- Bytes of a row (R157). -/
def Stream.rowBytes (r : Stream) : Nat := r.shape.vcols * fmtSize r.shape.fmt
/-- Tile of row n. -/
def Stream.tileOf (r : Stream) (n : Nat) : Nat := n / r.shape.vrows
/-- Row n within its tile. -/
def Stream.rowAt (r : Stream) (n : Nat) : Nat := n % r.shape.vrows
/-- Is a tile begun and not finished (R165)? -/
def Stream.begun (r : Stream) : Bool := !r.flying.isEmpty || !r.filling.isEmpty || r.isWrite && r.nextRow % r.shape.vrows != 0

/-- What Fennel can request for a stream: a row, or the granule of its index list that holds a row's index (R160, R162). -/
inductive Want where
  | row (n : Nat)
  | index (n : Nat)
deriving DecidableEq, Repr
/-- The row that a request is for. -/
def Want.at_ : Want → Nat
  | .row n => n
  | .index n => n

/-- May a row be formed as far as a fault goes: it is of a tile before the FAULTED one, or the stream is tried again (R163)? -/
def Stream.clear (r : Stream) (n : Nat) : Bool := r.st != .faulted || r.retry || decide (r.tileOf n < r.faultTile)
/-- Is the index of a row at hand? -/
def Stream.indexed? (r : Stream) (n : Nat) : Bool := !r.indexed || r.idx.any fun p => p.1 == n

/-- What a stream's next request is: for a write stream the next row of its oldest tile, one at a time (R227); for a read stream the next row for
whose tile there is room, while others are out, and indices ahead of the rows (R160, R162). -/
def Stream.want (s : State) (r : Stream) : Option Want :=
  if r.waits.any (outstanding s) then none
  else if r.isWrite then
    if r.queue.isEmpty || !r.flying.isEmpty || decide (r.rows ≤ r.nextRow) || !r.clear r.nextRow then none
    else some (if r.indexed? r.nextRow then .row r.nextRow else .index r.nextRow)
  else
    let t := r.tileOf r.nextRow
    let room := (r.filling.any fun q => q.t == t) || decide (r.queue.length + r.filling.length < Config.streamQueue)
    if decide (r.nextRow < r.rows) && room && r.clear r.nextRow && r.indexed? r.nextRow then some (.row r.nextRow)
    else if r.indexed && decide (r.nextIdx < r.rows ∧ r.nextIdx < r.nextRow + Config.streamQueue * r.shape.vrows) && r.clear r.nextIdx then some (.index r.nextIdx)
    else none

/-- Is a request for a tile that is begun (R165)? -/
def Stream.goesOn (r : Stream) (n : Nat) : Bool :=
  if r.isWrite then r.nextRow % r.shape.vrows != 0 else r.filling.any fun q => q.t == r.tileOf n

/-- Does a stream have work that Fennel can do now in its engine context's state (R165, R185): what it requests? -/
def Stream.work (s : State) (e : Ectx) (r : Stream) : Option Want :=
  (Stream.want s r).filter fun w => match e.st with
    | .resident | .draining _ => !e.frozen || r.goesOn w.at_
    | .parking => r.goesOn w.at_
    | _ => false

/-- Has a stream work, requested or to be requested (R166)? -/
def Stream.busy (s : State) (r : Stream) : Bool := !r.flying.isEmpty || (Stream.want s r).isSome
/-- Is a sector of a copy under way (R184)? -/
def Copy.busy (d : Copy) : Bool := !d.reqs.isEmpty || !d.evs.isEmpty || d.taken.isSome

end Sys2Proof.Machine
end

