-- ==== Sys2Proof/Machine/Effects.lean ====
section
/-! DEFINITION. What an instruction does outside its slot: ending a handler (12 R351), RFT and SLOTWR on a target (09
R239, R240, 15 R412), and every effect of R278 performed. -/

namespace Sys2Proof.Machine

/-- The state field of a context's pair word (R276): its handlers' worst. -/
def showPairs (s : State) (c : CoreId) (i : BitVec 2) (j : JobId) : State :=
  let has (v : BitVec 2) : Bool := s.pairs.any fun p => p.core == c && p.job == j && p.state == v
  let v : BitVec 2 := if has 2 then 2 else if has 1 then 1 else 0
  let set (w : Word64) : Word64 := w.extractLsb' 37 27 ++ v ++ w.extractLsb' 0 35
  let s := s.updCtx c (s.slot c i).ctx fun k => { k with pair := set k.pair }
  s.updDir c j fun d => { d with pair := set d.pair }

/-- A pair in another state. -/
def setPairState (s : State) (p : Pair) (v : BitVec 2) : State :=
  let s := { s with pairs := s.pairs.map fun q => if q.core == p.core && q.slot == p.slot && q.uid == p.uid then { q with state := v } else q }
  showPairs s p.core p.slot p.job

/-- A slot without a handler; SKID and its history stay (R253). -/
def freeSlot (s : State) (c : CoreId) (i : BitVec 2) : State :=
  let uid := (s.slot c i).uid
  let s := s.updSlot c i fun x => { x with
    st := .free, progress := { live := false, row := 0, tile := 0 }, pend := [], fences := [], launch := none, popped := [],
    window := none, going := none, regs := [], trailing := false, rowOnly := false, binds := [],
    stepping := none }
  let mine (p : Pair) : Bool := p.core == c && p.slot == i && p.uid == uid
  let s := match s.pairs.find? mine with
    | some p => showPairs { s with pairs := s.pairs.filter fun p => !mine p } c i p.job
    | none => s
  { s with
    launches := s.launches.filter fun p => !(p.core == c && p.slot == i && p.uid == uid) }

/-- DONE retires: counted for SKID, and the slot is FREE in the cycle after (R97, R351, R253). -/
def doneSlot (s : State) (c : CoreId) (i : BitVec 2) : State :=
  let j := ((s.ctxAt c (s.slot c i).ctx).map (·.job)).getD 0
  let t := s.now.toNat
  freeSlot (s.updSlot c i fun x => { x with freeAt := s.clk.cycle + 1, hist := pruneHist t ((j, t, s.clk.cycle) :: x.hist) }) c i

/-- A handler waiting at its end retires once its loads have written their tiles (R351). -/
def settleDone (s : State) (c : CoreId) (i : BitVec 2) : State :=
  let x := s.slot c i
  if x.st = .stalled .done ∧ x.pend = [] then doneSlot s c i else s

/-- The slot ends as DONE ends it (R351, R240): streams closed, loads awaited. -/
def endSlot (s : State) (c : CoreId) (i : BitVec 2) : State :=
  let s := (closeAll s c i).updSlot c i fun x => { x with pend := endPends x.pend x.icount }
  if (s.slot c i).pend = [] then doneSlot s c i
  else s.updSlot c i fun x => { x with st := .stalled .done, progress := { live := false, row := 0, tile := 0 } }

/-- The trailing slot of a leading slot's pair (R277). -/
def trailerOf (s : State) (c : CoreId) (i : BitVec 2) : Option (CoreId × BitVec 2) :=
  match s.pairs.find? fun p => p.core == c && p.slot == i && p.uid == (s.slot c i).uid with
  | some p => p.tslot.map fun t => (p.tcore, t)
  | none => none

/-- RFT on one TRAPPED slot (R240): resume, renew or abandon. A slot of a frozen context stays frozen. -/
def rftOne (s : State) (c : CoreId) (t : BitVec 2) (action : BitVec 2) : State :=
  let x := s.slot c t
  if x.st ≠ .trapped then s
  else if action = 2 then endSlot s c t
  else
    let back : SlotSt := if ((s.ctxAt c x.ctx).map (·.frozen)).getD false then .frozen none false else .ready
    let s := if x.cause = causeCode .stream then
        ((streamsOn s c).filter fun p => p.2.slot == t && p.2.st == .faulted && p.2.faultAddr == x.taddr).foldl
          (fun s p => retryStream s (clusterOf c) p.2.uid) s
      else s
    s.updSlot c t fun x => { x with
      st := back, pc := x.resumeAt ++ (0 : BitVec 2), budget := if action = 1 then x.launchBudget else x.setAside }

/-- A pair's slots back at their checkpoint; what was released stays in the log for the re-run (R280). -/
def rewindPair (s : State) (p : Pair) (state : BitVec 2) : State :=
  let same (q : Pair) : Bool := q.core == p.core && q.slot == p.slot && q.uid == p.uid
  let s := { s with pairs := s.pairs.map fun q => if same q then { q with
    buf := [], sigs := [], vals := [], replayVals := q.logVals, replaySigs := q.logSigs, atL := none, atT := none } else q }
  let back (snap x : Slot) : Slot := { x with
    tiles := snap.tiles, masks := snap.masks, rstack := snap.rstack, lfsr := snap.lfsr, progress := snap.progress,
    pc := snap.pc, icount := snap.icount, binds := snap.binds, replied := snap.replied, pend := [],
    -- a fence before the checkpoint still orders what was released before it (R225)
    fences := snap.fences.filter fun f => f.before.any (outstanding s)
    window := none, going := none, popped := [], st := .ready }
  let s := s.updSlot p.core p.slot (back p.snapL)
  let s := match p.tslot with
    | some t => s.updSlot p.tcore t (back p.snapT)
    | none => s
  setPairState s p state

/-- RFT on a target and, for a paired target, on its counterpart (R240, R280, R419). -/
def rftDo (s : State) (c : CoreId) (t action : BitVec 2) : State :=
  let x := s.slot c t
  match s.pairs.find? fun p => p.core == c && p.slot == t && p.uid == x.uid with
  | none => rftOne s c t action
  | some p =>
    if x.cause = causeCode .pairMismatch ∧ x.st = .trapped ∧ action ≠ 2 then
      let s := rftOne s c t action
      let st := (s.slot c t).st
      let s := rewindPair s p 0
      s.updSlot c t fun y => { y with st := st }
    else
      let s := match p.tslot with
        | some u => if action = 2 then freeSlot s p.tcore u else rftOne s p.tcore u action
        | none => s
      rftOne s c t action

/-- A shape word's fields put on a tile (R331): storage kept in the valid region, ragged elements zero, tag kept. -/
def Tile.reshape (t shape : Tile) : Tile :=
  Tile.clearRagged { t with fmt := shape.fmt, rows := shape.rows, cols := shape.cols, vrows := shape.vrows, vcols := shape.vcols }

/-- SLOTWR on one slot (R412): tile, shape word, mask or CSR. Between a trap and its RFT it makes a partly done instruction go by the new state
(R126); on a slot that a Frost or a step stopped it does not (R128, log 52). -/
def slotWriteOne (s : State) (c : CoreId) (t kind : BitVec 2) (n : BitVec 8) (v : Tile) : State :=
  let r : TReg := n.setWidth 4
  let s := if (s.slot c t).st = .trapped then s.updSlot c t fun x => { x with going := none } else s
  match kind.toNat with
  | 0 => s.updSlot c t fun x => x.setTile r (v.withBytes v.bytes)
  | 1 =>
    match shapeFromBits v.word.toNat with
    | some sh => s.updSlot c t fun x => x.setTile r ((x.tileRaw r).reshape sh)
    | none => s
  | 2 => s.updSlot c t fun x => x.setMask (n.setWidth 2) v.word
  | _ => csrWrite s c t (n.setWidth 12) v.word

/-- SLOTWR on a target and its trailing counterpart (R412). -/
def slotWriteDo (s : State) (c : CoreId) (t kind : BitVec 2) (n : BitVec 8) (v : Tile) : State :=
  let s' := slotWriteOne s c t kind n v
  match trailerOf s c t with
  | some u => slotWriteOne s' u.1 u.2 kind n v
  | none => s'

/-- Is the instruction lines' cache entry among those that CINV names (R410)? -/
def cinvHits (asid : BitVec 16) (line : Option (BitVec 48)) (n : Nat) (l : CodeLine) : Bool :=
  l.asid == asid && match line with
    | none => true
    | some a => (List.range n).any fun j => l.va == a + BitVec.ofNat 48 (64 * j)

/-- A trigger word written (R395, R93): its w starts again. -/
def Ctx.setTrig (k : Ctx) (w : BitVec 5) (v : BitVec 32) : Ctx :=
  { k with trig := k.trig.set w.toNat v (by have := w.isLt; omega), held := k.held.set w.toNat 0 (by have := w.isLt; omega) }
/-- Counter value written. -/
def Ctx.setCval (k : Ctx) (c : BitVec 4) (v : BitVec 32) : Ctx :=
  { k with cval := k.cval.set c.toNat v (by have := c.isLt; omega) }
/-- Counter n. -/
def Ctx.cvalAt (k : Ctx) (c : BitVec 4) : BitVec 32 := k.cval[c.toNat]'(by have := c.isLt; omega)
/-- Target n. -/
def Ctx.ctgtAt (k : Ctx) (c : BitVec 4) : BitVec 32 := k.ctgt[c.toNat]'(by have := c.isLt; omega)
/-- Bit n of a 16-bit field set or cleared. -/
def putBit16 (w : BitVec 16) (n : BitVec 4) (b : Bool) : BitVec 16 :=
  let m : BitVec 16 := 1#16 <<< n.toNat
  if b then w ||| m else w &&& ~~~m
/-- CARM (R395). -/
def Ctx.arm (k : Ctx) (c : BitVec 4) (v : BitVec 32) : Ctx :=
  { k with ctgt := k.ctgt.set c.toNat v (by have := c.isLt; omega), carmed := putBit16 k.carmed c true }
/-- TMR (R395): all ones disarm. -/
def Ctx.setTimer (k : Ctx) (q : BitVec 2) (v : Word64) : Ctx :=
  let m : BitVec 4 := 1#4 <<< q.toNat
  if v = BitVec.allOnes 64 then { k with qarmed := k.qarmed &&& ~~~m }
  else { k with qdead := k.qdead.set q.toNat v (by have := q.isLt; omega), qarmed := k.qarmed ||| m }

/-- Does a message expect a reply (R393)? -/
def Msg.expectsReply (m : Msg) : Bool := m.kind == 0 && m.tag != 0 && m.sel != 0xFFF

/-- The first place of a retain area that holds no record (R271). -/
def freePlace (d : Dir) : Nat := ((List.range 64).find? fun n => !(d.retained.any fun r => r.place == n)).getD 0
/-- A message leaves the slot for the NI (R389 to R393, R271): its sequence number, its credit, its retain record, the
release it waits for, and its place in the output buffer or the timed store. n is its instruction's count in its handler: later accesses and entries
are not waited for (R220), nor is another handler's, but for the matrix entries of its slot. -/
def sendOut (s : State) (c : CoreId) (i : BitVec 2) (o : OutMsg) (mask : BitVec 4) (scope : BitVec 2) (n : Nat) : State :=
  let x := s.slot c i
  let k := (s.ctxAt c x.ctx).getD Ctx.reset
  let seq := if o.asIs then o.msg.seq else if o.msg.retained then k.retainSeq else k.sendSeq
  let m := Msg.checked { o.msg with seq := seq }
  let s := s.updCtx c x.ctx fun k => { k with
    sendSeq := if o.asIs || o.msg.retained then k.sendSeq else k.sendSeq + 1
    retainSeq := if o.msg.retained then k.retainSeq + 1 else k.retainSeq
    credits := if Msg.expectsReply m && !o.asIs then k.credits - 1 else k.credits }
  let s := if m.retained then s.updDir c m.job fun d => { d with retained := d.retained ++ [{ msg := m, place := freePlace d, sent := false, tries := 0, age := 0 }] }
    else s
  let evs := if scope = 0 then [] else coveredBy s (.slot c i x.uid) mask scope.toNat n
  let posts := if scope = 0 then [] else
    ((s.cluster (clusterOf c)).heldPosts.filter fun e => e.core == c && e.slot == i).map (·.id)
  let o := { o with msg := m, evs := evs, posts := posts, ord := s.nextId }
  let s := { s with nextId := s.nextId + 1 }
  match o.at_ with
  | some _ => s.updCore c fun q => { q with timed := q.timed ++ [o] }
  | none => flushOut (s.updCore c fun q => { q with out := q.out ++ [o] }) c

/-- An effect of the n-th instruction of slot i of core c performed (R278). -/
def performEff (s : State) (c : CoreId) (i : BitVec 2) (n : Nat) (e : Eff) : State :=
  let x := s.slot c i
  let k := clusterOf c
  let frozen := ((s.ctxAt c x.ctx).map (·.frozen)).getD false
  let own : Owner := .slot c i x.uid
  match e with
  | .events evs => { s with memq := s.memq ++ evs }
  | .remote m req => putFlight { s with rems := s.rems ++ [req] } c m false
  | .send o mask scope => sendOut s c i o mask scope n
  | .cset r v => s.updCtx c x.ctx fun q => q.setCval r v
  | .carm r v => s.updCtx c x.ctx fun q => q.arm r v
  | .fclr r => s.updCtx c x.ctx fun q => { q with flags := putBit16 q.flags r false }
  | .twen w v => s.updCtx c x.ctx fun q => q.setTrig w v
  | .tmr q v => s.updCtx c x.ctx fun d => d.setTimer q v
  | .push a t =>
    match boundTo s c i a with
    | some r => givePush s k r.2.uid t
    | none => s
  | .bind r =>
    addStream { s with nextId := s.nextId + 1 } c x.ctx ((s.ctxAt c x.ctx).map (·.job) |>.getD 0)
      { r with uid := s.nextId, waits := coveredBy s own r.wait r.scope.toNat n }
  | .sclose a =>
    match boundTo s c i a with
    | some r => closeStream s k r.2
    | none => s
  | .copy d =>
    ({ s with nextId := s.nextId + 1 }).updCluster k fun q => { q with
      copies := q.copies ++ [{ d with uid := s.nextId, parked := frozen, waits := coveredBy s own d.wait d.scope.toNat n }] }
  | .matrix m mask =>
    s.updCluster k fun q => { q with heldPosts := q.heldPosts ++ [{ m with evs := coveredBy s own mask 3 n }] }
  | .csrw r v => csrWrite s c i r v
  | .fmttab b => s.updCtx c x.ctx fun q => { q with code8Old := q.code8, code8At := s.clk.cycle + 1, code8 := some b }
  | .cinv asid line l =>
    { s with clusters := s.clusters.map fun p => (p.1, { p.2 with code := p.2.code.filter fun q => !cinvHits asid line l q }) }
  | .slotwr t kind item v => slotWriteDo s c t kind item v
  | .rft t a => rftDo s c t a
  | .ue tile row addr =>
    sendFault s c ((s.ctxAt c x.ctx).map (·.job) |>.getD 0) .ue
      { source := 0, slot := i, tile := tile, row := BitVec.ofNat 3 row, acc := 0, sub := 0x08, count := 0 } addr

/-- The code8 table that governs an instruction issued now (R384). -/
def tableNow (s : State) (k : Ctx) : Code8 := if s.clk.cycle < k.code8At then k.code8Old else k.code8

end Sys2Proof.Machine
end

