-- ==== Sys2Proof/Machine/Pairs.lean ====
section
/-! DEFINITION. Shadow pairs at an instruction's issue (10 R276 to R280): which side the running slot is, what it waits
for, values from outside the slot, effects with their signatures, checkpoints. -/

namespace Sys2Proof.Machine

/-- The pair that the running slot leads. -/
def leadPair (s : State) : Option Pair :=
  if s.me.trailing then none
  else s.pairs.find? fun p => p.core == s.cur.1 && p.slot == s.cur.2 && p.uid == s.me.uid
/-- The pair that the running slot trails in. -/
def trailPair (s : State) : Option Pair :=
  if s.me.trailing then s.pairs.find? fun p => p.tcore == s.cur.1 && p.tslot == some s.cur.2 else none
/-- A pair changed. -/
def updPair (s : State) (p : Pair) (f : Pair → Pair) : State :=
  { s with pairs := s.pairs.map fun q => if q.core == p.core && q.slot == p.slot && q.uid == p.uid then f q else q }

/-- The pair word of a pair's leading context (R276). -/
def pairWord (s : State) (p : Pair) : Word64 :=
  ((s.ctxAt p.core (s.slot p.core p.slot).ctx).map (·.pair)).getD 0
/-- Unmatched entries the leader may hold (R276, R278). -/
def slackOf (w : Word64) : Nat := (w.extractLsb' 38 6).toNat + 1

/-- The checkpoint of both slots, the log emptied (R279). -/
def checkpoint (s : State) (p : Pair) (pc : BitVec 48) : State :=
  match p.tslot with
  | none => s
  | some t =>
    let s := updPair s p fun q => { q with
      snapL := s.slot p.core p.slot, snapT := s.slot p.tcore t, logVals := [], logSigs := [], replayVals := [], replaySigs := [], oldVals := [], replies := [],
      count := 0, ckptPc := pc, atL := none, atT := none }
    setPairState s p 0

/-- The word that the running slot issues, for its signature (R278). -/
def currentWord (s : State) : BitVec 32 :=
  match codeLine s (clusterOf s.cur.1) s.myCtx.asid s.me.pc with
  | some l => (l.bytes >>> (8 * (s.me.pc.toNat % 64))).setWidth 32
  | none => 0

/-- The signature of an effect: CRC-32C over the word, addresses and route words, and bytes (R278). -/
def signature (s : State) (addr data : List Byte) : BitVec 32 := crc32c (bytesOf 4 (currentWord s).toNat ++ addr ++ data)

/-- Is the running instruction the one whose result R276 inverts? -/
def injects (s : State) : Bool :=
  match trailPair s with
  | some p => (pairWord s p).extractLsb' 16 16 != 0 && (pairWord s p).extractLsb' 16 16 == BitVec.ofNat 16 (s.me.icount + 1)
  | none => false
/-- Bit 0 of byte 0 inverted. -/
def flipFirst : List Byte → List Byte
  | [] => []
  | b :: l => (b ^^^ 1) :: l
/-- Bit 0 of byte 0 of a tile's storage inverted, where R276 injects an error. -/
def flipTile (s : State) (t : Tile) : Tile := if injects s then t.withBytes (t.bytes ^^^ 1) else t
/-- The inject field cleared as its instruction retires (R276). -/
def clearInject (s : State) : State :=
  if injects s then
    match trailPair s with
    | some p =>
      let set (w : Word64) : Word64 := w.extractLsb' 32 32 ++ (0 : BitVec 16) ++ w.extractLsb' 0 16
      let s := s.updCtx p.core (s.slot p.core p.slot).ctx fun k => { k with pair := set k.pair }
      s.updDir p.core p.job fun d => { d with pair := set d.pair }
    | none => s
  else s

/-- An effect of the running slot: performed at once, placed in the compare buffer, or only signed (R278). plain says
that the instruction writes no tile or mask, so that R276 inverts the data. -/
def effect (s : State) (addr data : List Byte) (plain : Bool) (e : Eff) : State :=
  match trailPair s with
  | some p =>
    let d := if plain && injects s then flipFirst data else data
    updPair s p fun q => { q with sigs := q.sigs ++ [signature s addr d] }
  | none =>
    match leadPair s with
    | some p => updPair s p fun q => { q with buf := q.buf ++ [(signature s addr data, e, s.me.icount)], count := q.count + 1 }
    | none => performEff s s.cur.1 s.cur.2 s.me.icount e

/-- A UE event of R270; none from a trailing slot (R278). -/
def ueEvent (s : State) (tile : TReg) (row : Nat) (addr : Word64) : State :=
  if s.me.trailing then s
  else
    match leadPair s with
    | some p => updPair s p fun q => { q with buf := q.buf ++ [(0, .ue tile row addr, s.me.icount)] }
    | none => performEff s s.cur.1 s.cur.2 s.me.icount (.ue tile row addr)

/-- A free value for the address of a UE event that has no row (log 23). -/
def freeAddr (s : State) : Word64 × State := (Config.freeWord s.freeCnt, { s with freeCnt := s.freeCnt + 1 })

/-- A value listed for an instruction and a tile. -/
def valFor (l : List (Nat × OutVal)) (n : Nat) (a : TReg) : Option Tile :=
  match l.find? fun p => p.1 == n && match p.2 with
    | .tile b _ => b == a
    | .word _ => false with
  | some (_, .tile _ t) => some t
  | _ => none

/-- What an instruction count's value from outside is on this side: the leader's for a trailing slot, the log's in a
re-run (R277, R280). -/
def suppliedTile (s : State) (a : TReg) : Option Tile :=
  match trailPair s with
  | some p => valFor p.vals s.me.icount a
  | none => match leadPair s with
    | some p => valFor p.replayVals s.me.icount a
    | none => none

/-- A value that a slot took from outside is sent and logged by a leader (R277, R279), rows log entries long. -/
def sendValue (s : State) (c : CoreId) (i : BitVec 2) (n : Nat) (a : TReg) (t : Tile) (rows : Nat) : State :=
  { s with pairs := s.pairs.map fun p =>
      if p.core == c && p.slot == i && p.uid == (s.slot c i).uid then
        if (valFor p.replayVals n a).isSome then { p with vals := p.vals ++ [(n, .tile a t)] }
        else { p with vals := p.vals ++ [(n, .tile a t)], logVals := p.logVals ++ [(n, .tile a t)], count := p.count + rows }
      else p }

/-- A trap that only the leader can find, taken by the trailing slot too (R280). -/
def mirrored (x : Slot) : Bool :=
  x.st == .trapped && (x.progress.live || [0x05, 0x06, 0x07, 0x09, 0x0E, 0x0F].contains x.cause.toNat)

/-- Does a slot wait for an answer in the middle of its instruction? -/
def waitsOutside : SlotSt → Bool
  | .stalled (.remote _) => true
  | .stalled (.accCfg _) => true
  | .frozen (some (.remote _)) _ => true
  | .frozen (some (.accCfg _)) _ => true
  | _ => false

/-- What issue answers: go on with a state, or the state in which the slot waits or has trapped. -/
inductive Gate1 where
  | go (s : State)
  | stop (s : State)

/-- Is a held effect the replacement of the code8 table? What follows it reads the new table (R384, log 14). -/
def tableHeld (e : BitVec 32 × Eff × Nat) : Bool := match e.2.1 with
  | .fmttab _ => true
  | _ => false

/-- The waits of a pair before an instruction issues (R277 to R280): the trailing slot stays behind the leader, the
leader within its slack and the log. cost is the largest number of log entries that the instruction can add. -/
def pairGate (s : State) (cost : Nat) : Gate1 :=
  let n := s.me.icount
  match trailPair s with
  | some p =>
    let l := s.slot p.core p.slot
    if p.atL = some (n, 2) then .stop (stall (updPair s p fun q => { q with atT := some (n, 2) }) .pair)
    else if n < l.icount ∨ p.atL = some (n, 0) ∨ p.atL = some (n, 1) then .go s
    else if l.icount = n ∧ mirrored l then
      .stop (s.updMe fun x => { x with
        st := .trapped, cause := l.cause, taddr := l.taddr, resumeAt := l.resumeAt, progress := l.progress, setAside := x.budget,
        allowance := Config.trapAllowance, causeFrost := l.causeFrost })
    else if l.icount = n ∧ (l.st = .trapped ∨ l.st = .frozen none true) then .go s
    else if l.icount = n ∧ waitsOutside l.st = true ∧ s.me.progress.row.toNat ≤ l.progress.row.toNat then .go s
    -- rows of a row-granular instruction that the leader is through with (R278)
    else if l.icount = n ∧ l.progress.live ∧ (if s.me.progress.live then s.me.progress.row.toNat else 0) < l.progress.row.toNat then .go s
    else .stop (stall s .leader)
  | none =>
    match leadPair s with
    | none => .go s
    | some p =>
      if slackOf (pairWord s p) ≤ p.buf.length || p.buf.any tableHeld then .stop (stall s .pair)
      else if p.count + cost ≤ 512 ∨ s.me.progress.live then .go s
      else if p.buf ≠ [] ∨ s.me.pend ≠ [] then .stop (stall s .pair)
      else if p.atT = some (n, 2) then
        let s := checkpoint s p s.me.pc
        match p.tslot with
        | some t => .go (s.updSlot p.tcore t fun x => { x with st := .ready })
        | none => .go s
      else .stop (stall (updPair s p fun q => { q with atL := some (n, 2) }) .pair)

/-- A tile that an earlier instruction's data still have to reach; rows of the running instruction are its own (R325). -/
def owedTile (x : Slot) (a : TReg) : Bool := a != 0 && x.pend.any fun p => p.tile == a && p.n != x.icount

/-- Every instruction's issue: the pair's waits (R277 to R279), then the tiles it names (R325). -/
def issue (s : State) (cost : Nat) (tiles : List TReg) (body : State → State) : State :=
  match pairGate s cost with
  | .stop s' => s'
  | .go s' => if tiles.any (owedTile s'.me) then stall s' .tiles else body s'

end Sys2Proof.Machine
end

