-- ==== Sys2Proof/Machine/Operands.lean ====
section
/-! DEFINITION. Operands of the running slot: bound tiles popped and pushed (06 R159), the tile ALU and its credits (01
R14, 12 R326), and the one way an instruction reads tiles and writes tiles, masks and the LFSR (12 R325, R330). -/

namespace Sys2Proof.Machine

/-- Distinct tiles, T0 left out (R118, R330). -/
def namedTiles (l : List TReg) : List TReg := (l.filter fun a => a != 0).eraseDups

/-- Does the leader's re-run still lie within the log (R280): a value of this instruction or a later one, or a released effect not formed again? -/
def inLog (p : Pair) (n : Nat) : Bool :=
  (p.replayVals.any fun v => decide (n ≤ v.1)) || decide ((p.buf.filter fun e => match e.2.1 with
    | .ue _ _ _ => false
    | _ => true).length < p.replaySigs.length)
/-- Is the binding of a tile known to the slot only from its own stream instructions (R277, R280)? -/
def ownBinds (s : State) : Bool :=
  s.me.trailing || (match leadPair s with
    | some p => inLog p s.me.icount
    | none => false)

/-- Does a leader hold a binding or closing of a tile unperformed? What names the tile waits for it. -/
def heldBind (s : State) (a : TReg) : Bool := match leadPair s with
  | some p => p.buf.any fun e => match e.2.1 with
    | .bind r => r.tile == a
    | .sclose b => b == a
    | _ => false
  | none => false
/-- Pushes of a tile that a leader holds unperformed. -/
def heldPushes (s : State) (a : TReg) : Nat := match leadPair s with
  | some p => (p.buf.filter fun e => match e.2.1 with
    | .push b _ => b == a
    | _ => false).length
  | none => 0

/-- What the read of a tile meets (R159): a supplied pop, the stream's queue, or nothing; once popped, no more. -/
def readBound (s : State) (a : TReg) : Pop :=
  if s.me.popped.contains a then .unbound
  else
    match suppliedTile s a with
    | some t => .tile t
    | none =>
      if ownBinds s then .unbound
      else if heldBind s a then .stall
      else match boundTo s s.cur.1 s.cur.2 a with
        | none => .unbound
        | some p => if p.2.st = .closing then .stall else popOf p.1 p.2
/-- What the write of a tile meets (R159). -/
def writeBound (s : State) (a : TReg) : Push :=
  if ownBinds s then (if s.me.binds.contains a then .room else .unbound)
  else if heldBind s a then .stall
  else match boundTo s s.cur.1 s.cur.2 a with
    | none => .unbound
    | some p =>
      if p.2.st = .closing then .stall
      else pushOf p.1 { p.2 with moved := p.2.moved + heldPushes s a, queue := p.2.queue ++ List.replicate (heldPushes s a) Tile.zero }

/-- The pops and pushes of an instruction: what is popped and pushed, whether it waits, whether it traps STREAM. -/
structure Bound where
  pops : List (TReg × Tile)
  pushes : List TReg
  stalls : Bool
  trap : Option (Option Word64)

/-- The bound tiles of an instruction's reads and writes (R159, R330). -/
def boundOf (s : State) (reads writes : List TReg) : Bound :=
  let rs := (namedTiles reads).map fun a => (a, readBound s a)
  let ws := (namedTiles writes).map fun a => (a, writeBound s a)
  let trapR := rs.findSome? fun p => match p.2 with
    | .trap x => some x
    | _ => none
  let trapW := ws.findSome? fun p => match p.2 with
    | .trap x => some x
    | _ => none
  { pops := rs.filterMap fun p => match p.2 with
      | .tile t => some (p.1, t)
      | _ => none
    pushes := ws.filterMap fun p => match p.2 with
      | .room => some p.1
      | _ => none
    stalls := (rs.any fun p => p.2 == .stall) || (ws.any fun p => p.2 == .stall)
    trap := match trapR with
      | some x => some x
      | none => trapW }

/-- Log entries that the bound tiles of an instruction add at most (R279): one for each tile it can pop and one for each it can push. -/
def logBound (s : State) (reads writes : List TReg) : Nat :=
  let bound (w : Bool) (a : TReg) : Bool := match boundTo s s.cur.1 s.cur.2 a with
    | some p => p.2.isWrite == w
    | none => false
  ((namedTiles reads).filter (bound false)).length + ((namedTiles writes).filter (bound true)).length

/-- STREAM at the running instruction (R233). -/
def streamTrap (s : State) (addr : Option Word64) (a : TReg) : State :=
  takeTrap s s.cur.1 s.cur.2 .stream (addr.getD (s.me.pc.setWidth 64)) s.me.pc a

/-- The slot waits for a stream; a pop or push of an engine context that is not at work asks for service (R165, R166, log 53). -/
def stallStream (s : State) (tiles : List TReg) : State :=
  let asks := tiles.any fun a => match boundTo s s.cur.1 s.cur.2 a with
    | some p => !p.1.resident
    | none => false
  stall (if asks && s.me.stepping.isNone then askService s s.cur.1 s.me.ctx else s) .stream

/-- A pop taken: the tile gets the data, the queue loses them, a leader sends them on (R159, R277). -/
def doPop (s : State) (p : TReg × Tile) : State :=
  let s := match suppliedTile s p.1 with
    | some _ => s
    | none => match boundTo s s.cur.1 s.cur.2 p.1 with
      | some r => takePop s (clusterOf s.cur.1) r.2.uid
      | none => s
  let s := sendValue s s.cur.1 s.cur.2 s.me.icount p.1 p.2 1
  let t := p.2.checked
  s.updMe fun x => { x.setTile p.1 (t.withBytes t.bytes) with popped := p.1 :: x.popped }

/-- The tiles as an instruction reads them, its pops taken. -/
def tilesIn (x : Slot) (pops : List (TReg × Tile)) : Vector Tile 16 :=
  Vector.ofFn fun i : Fin 16 => match pops.find? fun p => p.1 == BitVec.ofNat 4 i.val with
    | some p => p.2.checked
    | none => x.tile (BitVec.ofNat 4 i.val)

/-- What the running slot's tile ALU reads. -/
def aluIn (s : State) (pops : List (TReg × Tile)) : AluIn :=
  { tiles := tilesIn s.me pops, masks := s.me.masks, lfsr := s.me.lfsr, code8 := tableNow s s.myCtx }

/-- A cluster's current allowance (R14, R18). -/
def allowanceOf (s : State) : Nat := if s.power.quarter then s.power.full / 4 else s.power.full
/-- Credits a cluster has left: what the last refill granted, where it has spent none since (R14). -/
def creditsOf (s : State) (k : ClusterId) : Nat := (s.power.credits.look k.toNat).getD s.power.granted
/-- Credits that an instruction takes: one for each 8 B of valid destination data, at least one (R14). -/
def creditsFor (o : AluOut) : Nat :=
  match o.tiles with
  | [] => o.cycles
  | l => aluCycles (l.foldl (fun n p => n + p.2.validBytes) 0)

/-- Tiles read, popped ones among them, whose storage does not match their residue: counted, and tagged before use (R266). -/
def noteResidues (s : State) (reads : List TReg) (pops : List (TReg × Tile)) : State :=
  let popped := pops.map (·.1)
  let bad := (namedTiles reads).filter fun a => !popped.contains a && !(s.me.tileRaw a).residueOk
  let n := bad.length + (pops.filter fun p => !p.2.residueOk).length
  if n = 0 then s
  else
    let s := countResidue s (clusterOf s.cur.1) n
    s.updMe fun x => bad.foldl (fun x a => x.setTile a { x.tileRaw a with tag := true }) x

/-- The first result with bit 0 inverted, where R276 injects an error. -/
def injectOut (s : State) (o : AluOut) : AluOut :=
  if !injects s then o
  else match o.tiles with
    | (a, t) :: l => { o with tiles := (a, t.withBytes (t.bytes ^^^ 1)) :: l }
    | [] => match o.mask with
      | some (a, m) => { o with mask := some (a, m ^^^ 1) }
      | none => o

/-- The bytes of a tile's valid elements, in row-major order; bits of MASK1 one to a byte. -/
def Tile.validData (t : Tile) : List Byte := t.cells.flatMap fun e => bytesOf (Nat.max 1 (fmtBits t.fmt / 8)) (t.raw e)
/-- The pushes of written tiles (R159): each is an effect with the valid bytes as its data (R278). -/
def pushAll (s : State) (l : List TReg) : State :=
  l.foldl (fun s a => effect s [] (s.me.tileRaw a).validData false (.push a (s.me.tileRaw a))) s

/-- Writing an instruction's results (R325): tiles in order, mask, LFSR, then pushes, the UE event, the ALU's time and
credits, and the next instruction. -/
def commit (s : State) (o : AluOut) (pushes : List TReg) (a : TReg) : State :=
  let o := injectOut s o
  let s := s.updMe fun x =>
    let x := o.tiles.foldl (fun x p => x.setTile p.1 p.2) x
    let x := match o.mask with
      | some (m, v) => x.setMask m v
      | none => x
    match o.lfsr with
    | some v => { x with lfsr := v }
    | none => x
  let s := pushAll s pushes
  let s := if o.ue then
      let f := freeAddr s
      ueEvent f.2 a 0 f.1
    else s
  let s := if o.cycles = 0 then s
    else
      let k := clusterOf s.cur.1
      let s := { s with power := { s.power with credits := s.power.credits.put k.toNat (creditsOf s k - creditsFor o) } }
      s.updCore s.cur.1 fun q => { q with aluUntil := s.clk.cycle + o.cycles }
  retire (clearInject s)

/-- An instruction that reads and writes tiles, masks and the LFSR of its slot (R325, R330). a is its field A, reads
and writes the tiles it names; f is its meaning; cost is what it adds to a pair's log beside pops and pushes. Of several causes the lowest code is
taken (R234). -/
def issueCost (cost : Nat) (s : State) (a : TReg) (reads writes : List TReg) (f : AluIn → AluRes) : State :=
  issue s (logBound s reads writes + cost) (reads ++ writes) fun s =>
    let b := boundOf s reads writes
    if b.trap.isNone && b.stalls then stallStream s (reads ++ writes)
    else
      match f (aluIn s b.pops) with
      | .error c => if b.trap.isSome ∧ 0x0E < (causeCode c).toNat then streamTrap s (b.trap.getD none) a else trapHere s c a
      | .ok o =>
        match b.trap with
        | some x => streamTrap s x a
        | none =>
          let busy := o.cycles ≠ 0 ∧ s.clk.cycle < (s.core s.cur.1).aluUntil
          let poor := o.cycles ≠ 0 ∧ creditsOf s (clusterOf s.cur.1) < creditsFor o
          if busy then stall s .alu
          else if poor then stall s .metered
          else commit (b.pops.foldl doPop (noteResidues s reads b.pops)) o b.pushes a

/-- An instruction that takes no other value from outside its slot. -/
def issueAlu (s : State) (a : TReg) (reads writes : List TReg) (f : AluIn → AluRes) : State := issueCost 0 s a reads writes f

/-- What an instruction's checks answer: what it acts on, or a cause with TRAPADDR's value where that is not the
instruction's address (R233). -/
abbrev Check (β : Type) := Except (Cause × Option Word64) β
/-- A check that traps with a cause when it fails. -/
def needs (c : Cause) (p : Bool) : Check Unit := if p then .ok () else .error (c, none)
/-- A control operand: 1×1 of an integer format, extended to 64 bits by it (R329, R406). -/
def controlOf (t : Tile) : Check Word64 :=
  match t.control with
  | some v => .ok (BitVec.ofInt 64 v)
  | none => .error (.shape, none)
/-- A 1×1 INT64 or UINT64 tile's value, else SHAPE (R313, R375). -/
def wordOf (t : Tile) : Check Word64 := if t.isWord then .ok t.word else .error (.shape, none)

/-- A trap of the running instruction with TRAPADDR's value (R233). -/
def trapWith (s : State) (c : Cause) (addr : Option Word64) (a : TReg) : State :=
  takeTrap s s.cur.1 s.cur.2 c (addr.getD (s.me.pc.setWidth 64)) s.me.pc a

/-- An instruction that reads tiles and then acts outside its tiles, writing at most tiles that it also reads: pre is what it waits for before issue, check finds
its cause or what it acts on, wait what it still waits for, body acts and retires. -/
def issueRead {β : Type} (s : State) (a : TReg) (reads writes : List TReg) (cost : Nat)
    (pre : State → Option Wait) (check : State → AluIn → Check β) (wait : State → β → Option Wait) (body : State → β → State) : State :=
  issue s (logBound s reads writes + cost) (reads ++ writes) fun s =>
    let b := boundOf s reads writes
    if b.trap.isNone && b.stalls then stallStream s (reads ++ writes)
    else
      match pre s with
      | some w => stall s w
      | none =>
        match check s (aluIn s b.pops) with
        | .error c =>
          if b.trap.isSome ∧ 0x0E < (causeCode c.1).toNat then streamTrap s (b.trap.getD none) a else trapWith s c.1 c.2 a
        | .ok v =>
          match b.trap with
          | some x => streamTrap s x a
          | none =>
            match wait s v with
            | some w => stall s w
            | none => body (b.pops.foldl doPop (noteResidues s reads b.pops)) v
/-- No wait. -/
def noWait {β : Type} (_ : State) (_ : β) : Option Wait := none
/-- No wait before issue. -/
def atOnce (_ : State) : Option Wait := none

/-- A shape-group instruction: as above, but a bound tile traps STREAM (R159). -/
def issueShape (s : State) (a : TReg) (reads : List TReg) (f : AluIn → AluRes) : State :=
  if a ≠ 0 ∧ ownBinds s = false ∧ (boundTo s s.cur.1 s.cur.2 a).isSome then
    issue s 1 (a :: reads) fun s =>
      let closing : Bool := match boundTo s s.cur.1 s.cur.2 a with
        | some p => p.2.st == .closing
        | none => false
      if closing then stallStream s [a]
      else match f (aluIn s []) with
        | .error c => if 0x0E < (causeCode c).toNat then streamTrap s none a else trapHere s c a
        | .ok _ => streamTrap s none a
  else issueAlu s a reads [a] f

/-- An instruction whose one tile is a value from outside the slot: the leader's for a trailing slot, the log's in a
re-run, else t (R277, R280); extra are its other tile reads. -/
def issueValue (s : State) (a : TReg) (extra : List TReg) (t : Tile) : State :=
  issueCost 1 s a extra [a] fun _ => .ok (AluOut.one a ((suppliedTile s a).getD t) 0)

/-- Does a leader hold a write of its own context unperformed, which a value from outside must follow (log 14)? -/
def heldOwn (s : State) : Bool := match leadPair s with
  | some p => p.buf.any fun e => match e.2.1 with
    | .cset _ _ | .csrw _ _ => true
    | _ => false
  | none => false

/-- The same, and the value is sent to a trailing slot and logged (R277). -/
def issueOutside (s : State) (a : TReg) (t : Tile) : State :=
  if heldOwn s then issue s 1 [] fun s => stall s .pair else
  let n := s.me.icount
  let v := (suppliedTile s a).getD t
  let c := s.cur
  let s' := issueValue s a [] t
  if s'.me.icount = n + 1 then sendValue s' c.1 c.2 n a v 1 else s'

end Sys2Proof.Machine
end

