-- ==== Sys2Proof/Machine/Contexts.lean ====
section
/-! DEFINITION. Candidates and their order (04 R85, R86, R93, R94), and the first steps of eviction (R108). -/

namespace Sys2Proof.Machine

/-- Effective priority of a base and a wait (R93). -/
def effPrio (base w shift : Nat) : Nat := if base = 31 then 31 else Nat.min 30 (base + w / 2 ^ shift)
/-- w saturates at 2^32 − 1 (R93). -/
def satW (w : Nat) : Nat := Nat.min w (2 ^ 32 - 1)

/-- A candidate of the dispatcher: its effective priority, w, whether it is a trigger word, context slot, trigger index
and queue place or 0 (R94). -/
structure Cand where
  eff : Nat
  w : Nat
  trig : Bool
  ctx : BitVec 2
  idx : Nat
  ord : Nat
deriving DecidableEq, Repr

/-- Is x ranked before y by the keys of R94? -/
def Cand.before (x y : Cand) : Bool :=
  if x.eff ≠ y.eff then decide (y.eff < x.eff)
  else if x.w ≠ y.w then decide (y.w < x.w)
  else if x.trig ≠ y.trig then !x.trig
  else if x.ctx ≠ y.ctx then decide (x.ctx.toNat < y.ctx.toNat)
  else if x.trig ∧ x.idx ≠ y.idx then decide (x.idx < y.idx)
  else decide (x.ord < y.ord)

/-- The first of a list under R94. -/
def bestOf {α : Type} (key : α → Cand) : List α → Option α
  | [] => none
  | x :: l => match bestOf key l with
    | none => some x
    | some y => if (key y).before (key x) then some y else some x

/-- A list put in the order of R94; n bounds its length. -/
def rankBy {α : Type} [DecidableEq α] (key : α → Cand) : Nat → List α → List α
  | 0, l => l
  | n + 1, l => match bestOf key l with
    | none => []
    | some x => x :: rankBy key n (l.erase x)

/-- The key of a queue entry (R94). -/
def entryKey (k : Core) (q : QEntry) : Cand :=
  let shift := ((k.ctx q.ctx).map (·.ageShift)).getD 12
  { eff := effPrio q.msg.prio.toNat q.w shift, w := q.w, trig := false, ctx := q.ctx, idx := 0, ord := q.ord }
/-- A core's queue in queue order (R94). -/
def queueOrder (k : Core) (p : QEntry → Bool) : List QEntry :=
  let l := k.queue.filter p
  rankBy (entryKey k) l.length l

/-- Has a counter reached its target (R86)? -/
def Ctx.reached (k : Ctx) (c : BitVec 4) : Bool := decide ((k.cvalAt c - k.ctgtAt c).toNat < 2 ^ 31)
/-- Timer deadline n. -/
def Ctx.qdeadAt (k : Ctx) (q : BitVec 2) : Word64 := k.qdead[q.toNat]'(by have := q.isLt; omega)
/-- Trigger word n. -/
def Ctx.trigAt (k : Ctx) (w : BitVec 5) : BitVec 32 := k.trig[w.toNat]'(by have := w.isLt; omega)
/-- Cycles for which a trigger word's condition has held. -/
def Ctx.heldAt (k : Ctx) (w : BitVec 5) : Nat := k.held[w.toNat]'(by have := w.isLt; omega)

/-- Condition kind, index, base priority, enable and selector of a trigger word (R83). -/
def trigKind (w : BitVec 32) : BitVec 2 := w.extractLsb' 30 2
/-- Index (R83). -/
def trigIndex (w : BitVec 32) : BitVec 4 := w.extractLsb' 26 4
/-- Base priority (R83). -/
def trigPrio (w : BitVec 32) : BitVec 5 := w.extractLsb' 21 5
/-- Enable (R83). -/
def trigOn (w : BitVec 32) : Bool := w.getLsbD 20
/-- Selector (R83). -/
def trigSel (w : BitVec 32) : BitVec 12 := w.extractLsb' 0 12

/-- Why a trigger word is malformed: PRIV for priority 31, ILLEGAL otherwise; none for a good word (R84). ILLEGAL has
the lower code (R234). -/
def trigBad (w : BitVec 32) : Option Cause :=
  if w.extractLsb' 12 8 ≠ 0 ∨ (trigKind w = 3 ∧ (trigIndex w).extractLsb' 2 2 ≠ 0) ∨ (trigKind w = 2 ∧ trigSel w = 0xFFF) then
    some .illegal
  else if trigPrio w = 31 then some .priv
  else none

/-- The message of a tag trigger: first in queue order among its context's selector-0xFFF messages with the tag
(R85). -/
def tagMessage (k : Core) (i : BitVec 2) (tag : BitVec 4) : Option QEntry :=
  (queueOrder k fun q => q.ctx == i && q.msg.sel == 0xFFF && q.msg.tag == tag).head?

/-- Does the condition of a trigger word hold (R85)? -/
def conditionHolds (s : State) (c : CoreId) (i : BitVec 2) (k : Ctx) (w : BitVec 32) : Bool :=
  let ix := trigIndex w
  match (trigKind w).toNat with
  | 0 => k.flags.getLsbD ix.toNat
  | 1 => k.carmed.getLsbD ix.toNat && k.reached ix
  | 2 => (tagMessage (s.core c) i ix).isSome
  | _ =>
    let q : BitVec 2 := ix.setWidth 2
    k.qarmed.getLsbD q.toNat && decide ((k.qdeadAt q).toNat ≤ s.now.toNat)

/-- Does a slot hold a handler of a context slot? -/
def Slot.holds (x : Slot) (i : BitVec 2) : Bool := x.st != .free && x.ctx == i
/-- Slots of a core. -/
def slotIds : List (BitVec 2) := [0, 1, 2, 3]

/-- CTXEV's first steps (R108): SAVING, and the queue's entries at the head of the arrival ring in queue order. A
frozen context, or one still restoring, waits. -/
def startEvict (s : State) (c : CoreId) (i : BitVec 2) : State :=
  match s.ctxAt c i with
  | none => s
  | some k =>
    if k.st = .saving then s
    else if k.frozen || k.st = .restoring then s.updCtx c i fun k => { k with evictAsked := true }
    else
      let l := queueOrder (s.core c) fun q => q.ctx == i
      let recs := l.map fun q => ({ msg := q.msg, stamp := if q.msg.vnet = (1 : BitVec 1) then 0 else q.stamp, w := q.w, evict := true } : SpillRec)
      let s := s.updCore c fun q => { q with queue := q.queue.filter fun e => e.ctx != i }
      let s := s.updCtx c i fun k => { k with st := .saving, evictAsked := false }
      s.updDir c k.job fun d => { d with ring := recs ++ d.ring, aHead := (d.aHead + (d.spillQ + 288) - recs.length % (d.spillQ + 288)) % (d.spillQ + 288) }

end Sys2Proof.Machine
end

