-- ==== Sys2Proof/Machine/FrostOps.lean ====
section
/-! DEFINITION. Freezing a job on a core (09 R250 to R254, 06 R185) and asking for a resume (R259, R261). -/

namespace Sys2Proof.Machine

/-- A number saturated to n bits. -/
def satTo (n x : Nat) : Nat := Nat.min x (2 ^ n - 1)

/-- SKID at a freeze (R253): ns and cycles since FROST_TIME, and the instructions the slot retired for the job since
then. Cycles are counted from the detection on the origin's part, else from the ns at the present stretch (log 18). -/
def skidWord (s : State) (f : Frost) (j : JobId) (hist : List (JobId × Nat × Nat)) : Word64 :=
  let ns := s.now.toNat - f.time.toNat
  let own := f.origin.extractLsb' 48 16 == s.part
  let cyc := if own then s.clk.cycle - f.detected else ns * 768 / (192 + s.power.stretch.toNat)
  let ins := (hist.filter fun p => p.1 == j && (if own then decide (f.detected ≤ p.2.2) else decide (f.time.toNat ≤ p.2.1))).length
  BitVec.ofNat 64 (satTo 24 ns * 2 ^ 40 + satTo 16 cyc * 2 ^ 24 + satTo 16 ins * 2 ^ 8 + 1)

/-- A slot's state at a freeze (R254). -/
def freezeSt (x : SlotSt) : SlotSt :=
  match x with
  | .ready => .frozen none false
  | .stalled w => .frozen (some w) false
  | x => x

/-- The values of a job's Frost registers on a core (R252). -/
def writeFrost (s : State) (c : CoreId) (j : JobId) (f : Frost) : State :=
  match (s.core c).ctxOf j with
  | none => s
  | some i => s.updCtx c i fun k => { k with frostCause := f.cause, frostOrigin := f.origin, frostTime := f.time, frostSeq := f.seq }

/-- Is every core of a job that the wave reached showing the Frost's present values? Written on each of them. -/
def writeFrostAll (s : State) (j : JobId) : State :=
  match s.job j with
  | none => s
  | some x => (coresOf s j).foldl (fun s c =>
      if frozenAt s c j then writeFrost s c j x.frost else s) s

/-- The wave reaches a core (R250, R254): its SKIDs (R253), and where it holds the job's context its slots, that context and the engines that work for
it. A Frost finds an engine context DRAINING or PARKING on its way out, which then goes no further (R185). -/
def freezeCore (s : State) (c : CoreId) (j : JobId) : State :=
  match s.job j with
  | none => s
  | some x =>
    let f := x.frost
    let here := (s.core c).ctxOf j
    let s := slotIds.foldl (fun s t =>
      let y := s.slot c t
      if y.st = .free then s.updSlot c t fun y => { y with skid := skidWord s f j y.hist }
      else if some y.ctx = here then s.updSlot c t fun y => { y with skid := skidWord s f j y.hist, st := freezeSt y.st, stepping := none }
      else s) s
    let s : State := match here with
      | none => s
      | some i =>
        let held (e : Ectx) : Ectx := { e with
          frozen := true
          asleep := e.asleep || (match e.st with
            | .draining _ | .parking => true
            | _ => false) }
        let stop (q : Cluster) : Cluster := { q with
          ectxs := q.ectxs.map fun e => if e.core = c ∧ e.ctx = i then held e else e,
          copies := q.copies.map fun d => if d.core = c ∧ d.ctx = i then { d with parked := true } else d }
        (writeFrost (s.updCtx c i fun k => { k with frozen := true }) c j f).updCluster (clusterOf c) stop
    s.updJob j fun x => { x with frost := { x.frost with waiting := x.frost.waiting.filter fun d => d != c } }

/-- Have the engines of a core come to the states of R185 for a job: no row out and no begun tile that goes on, no sector under way, no accepted entry and no
accepted operation unperformed? -/
def engineSettled (s : State) (c : CoreId) (i : BitVec 2) (j : JobId) : Bool :=
  let q := s.cluster (clusterOf c)
  (q.ectxs.all fun e => !(e.core == c && e.ctx == i)
      || (e.frozen && e.st != .restoring && e.streams.all fun r => r.flying.isEmpty && (Stream.work s e r).isNone))
    && (q.copies.all fun d => !(d.core == c && d.ctx == i) || (d.parked && !d.busy))
    && (q.island.all fun e => e.core != c || e.job != j)
    && s.memq.all fun e => e.arrived.isNone || e.job != j || (match e.owner with
      | .slot d _ _ => d != c
      | _ => true)
/-- Has every core of a job reached its settled state (R255)? A message is injected in one step, so that none is partly injected. -/
def settledCore (s : State) (c : CoreId) (j : JobId) : Bool :=
  match (s.core c).ctxOf j with
  | none => true
  | some i =>
    frozenAt s c j
      && (slotIds.all fun t => let y := s.slot c t
          !y.holds i || (match y.st with
            | .frozen _ _ | .trapped => true
            | _ => false))
      && engineSettled s c i j
/-- Is the job settled on every core (R255)? -/
def settled (s : State) (j : JobId) : Bool :=
  (frostState s j).1 && (match s.job j with
    | some x => x.frost.waiting.isEmpty
    | none => false) && (coresOf s j).all fun c => settledCore s c j

/-- Bit 2, pending, of FROST_CAUSE put on every core of a job (R252, R259). -/
def setPending (s : State) (j : JobId) (b : Bool) : State :=
  let put (w : Word64) : Word64 := if b then w ||| 4 else w &&& ~~~(4 : Word64)
  let s := s.updJob j fun x => { x with frost := { x.frost with cause := put x.frost.cause } }
  writeFrostAll s j

/-- A resume word floods the ports that are up (R259, R49). -/
def floodResume (s : State) (j : JobId) (count : BitVec 24) (t : Word64) (except : Option (BitVec 4)) : State :=
  let up (p : Nat) : Bool :=
    decide (some (BitVec.ofNat 4 p) ≠ except) && (match s.lam.ports[p]? with
      | some x => x.st == 2
      | none => false)
  { s with lam := { s.lam with
    resumes := s.lam.resumes ++ (((List.range 12).filter up).map fun p => (BitVec.ofNat 4 p, j, count, t)) } }

/-- RESUME (R259, R261): the status, and the part with the resume pending. A count that this part has resumed is taken again for parts that never received
its word. How the job stands on the other parts that hold it only they can tell: a free bit says whether they answer for the request (log 54). While a
power-fail warning is in force firmware holds the jobs frozen (R18 step 6), and answers 6 (log 42). -/
def resumeRequest (s : State) (j : JobId) (t : Word64) : Nat × State :=
  if t.toNat < s.now.toNat + 4000 then (2, s)
  else
    match s.job j with
    | none => (6, s)
    | some x =>
      let f := x.frost
      let others := x.parts.any fun p => p != s.part
      let again := others && !f.active && f.resumed.contains f.count
      if f.resume.isSome || s.power.warn || !(s.lam.reference || s.lam.path) then (6, s)
      else if !again && (!f.active || !f.waiting.isEmpty) then (6, s)
      else
        let elsewhere := !others || (Config.freeWord s.freeCnt).getLsbD 0
        let s := if others then { s with freeCnt := s.freeCnt + 1 } else s
        if !elsewhere then (6, s)
        else if again then (0, floodResume s j f.count t none)
        else
          let s := s.updJob j fun x => { x with frost := { x.frost with resume := some t } }
          (0, floodResume (setPending s j true) j f.count t none)

/-- A debugger or quiesce Frost (R247, R248): a new count unless the job is frozen with no resume pending. Nothing is
gated (R250). One that cancels a pending resume shows on the cores that are frozen already (R252). -/
def firmwareFrost (s : State) (j : JobId) (kind : BitVec 4) (code : BitVec 8) (c : CoreId) (i : BitVec 2) : State :=
  let f := frostState s j
  if f.1 && !f.2 then s
  else
    let s := if f.2 then setPending s j false else s
    writeFrostAll (raiseFrost s j kind code c i false) j

end Sys2Proof.Machine
end

