-- ==== Sys2Proof/Machine/Control.lean ====
section
/-! DEFINITION. Control instructions and the plain system instructions (12 R348 to R351, 15 R407 to R409, R416, R417). -/

namespace Sys2Proof.Machine

/-- The branch target: 4 × the signed word offset from the branch's own address (R295). -/
def branchTarget (pc : BitVec 48) (o : BitVec 20) : BitVec 48 := pc + (o.signExtend 48 <<< 2)

/-- The condition of BR (R348). -/
def branchTaken (c : BitVec 4) (m : BitVec 64) : Bool :=
  match c.toNat with
  | 1 => m != 0
  | 2 => m == BitVec.allOnes 64
  | 3 => m == 0
  | 4 => m.getLsbD 0
  | _ => true

/-- An instruction without tiles retires at an address. -/
def finishAt (s : State) (pc : BitVec 48) : State := retireTo (clearInject s) pc
/-- It retires at the next word. -/
def finish (s : State) : State := finishAt s (s.me.pc + 4)

/-- BR label (R348). -/
def execBr (o : BitVec 20) (s : State) : Host.Outcome State Fault Refusal :=
  .next (issue s 0 [] fun s => finishAt s (branchTarget s.me.pc o))

/-- BR cond, label ?Mk (R348). -/
def execBrCond (c : BitVec 4) (k : BitVec 2) (o : BitVec 20) (s : State) : Host.Outcome State Fault Refusal :=
  .next (issue s 0 [] fun s =>
    finishAt s (if branchTaken c (s.me.mask k) then branchTarget s.me.pc o else s.me.pc + 4))

/-- CALL (R349, R122). -/
def execCall (o : BitVec 20) (s : State) : Host.Outcome State Fault Refusal :=
  .next (issue s 0 [] fun s =>
    if 8 ≤ s.me.rstack.length then trapHere s .stack 0
    else
      let s' := s.updMe fun x => { x with rstack := (x.pc + 4).extractLsb' 2 46 :: x.rstack }
      finishAt s' (branchTarget s.me.pc o))

/-- RET (R349, R122). -/
def execRet (s : State) : Host.Outcome State Fault Refusal :=
  .next (issue s 0 [] fun s =>
    match s.me.rstack with
    | [] => trapHere s .stack 0
    | a :: l => finishAt (s.updMe fun x => { x with rstack := l }) (a ++ (0 : BitVec 2)))

/-- The counter of LOOP (R350): poison first, then its shape. -/
def aluLoop (c : TReg) (x : AluIn) : AluRes :=
  let t := x.tile c
  if t.tag then .error .poison
  else if t.scalar && isInt t.fmt then .ok (AluOut.one c (t.build (fun e => wrapTo (fmtBits t.fmt) ((t.raw e : Int) - 1)) false) 0)
  else .error .shape

/-- LOOP (R350). -/
def execLoop (c : BitVec 4) (o : BitVec 20) (s : State) : Host.Outcome State Fault Refusal :=
  let s' := issueAlu s 0 [c] [c] (aluLoop c)
  .next (if s'.me.icount = s.me.icount + 1 ∧ (s'.me.tileRaw c).raw 0 ≠ 0 then
      s'.updMe fun x => { x with pc := branchTarget s.me.pc o }
    else s')

/-- NOP (R407). -/
def execNop (s : State) : Host.Outcome State Fault Refusal := .next (issue s 0 [] finish)

/-- Does the running instruction execute under a single step (R257)? -/
def stepped (s : State) : Bool := s.me.stepping.isSome

/-- BRK (R407): a trap of cause BRK that goes on at the next word; stepped, it only advances (R258). A trailing slot freezes
with its leader, at the same count (R280). -/
def execBrk (s : State) : Host.Outcome State Fault Refusal :=
  .next (issue s 0 [] fun s =>
    if s.firmware then trapHere s .illegal 0
    else if stepped s then finish s
    else takeTrap s s.cur.1 s.cur.2 .brk (s.me.pc.setWidth 64) (s.me.pc + 4) 0)

/-- TRAP imm (R407): TRAPADDR is the immediate, and the handler goes on at the next word. -/
def execTrap (i : BitVec 12) (s : State) : Host.Outcome State Fault Refusal :=
  .next (issue s 0 [] fun s => takeTrap s s.cur.1 s.cur.2 .trap (i.setWidth 64) (s.me.pc + 4) 0)

/-- FROST imm (R407): it retires and raises a Frost of kind 3; stepped, it only advances (R258). -/
def execFrost (i : BitVec 8) (s : State) : Host.Outcome State Fault Refusal :=
  .next (issue s 0 [] fun s =>
    if s.firmware then trapHere s .illegal 0
    else if stepped s || s.me.trailing then finish s
    else
      let s := (frostFrom (finish s) s.myCtx.job 3 i s.cur.1 s.cur.2).2
      s.updMe fun x => { x with st := .frozen none false })

/-- CSRR (R409): the value at issue, supplied by the leader on a pair (R277). -/
def execCsrr (a : BitVec 4) (c : BitVec 12) (s : State) : Host.Outcome State Fault Refusal :=
  .next (issueOutside s a (Tile.ofWord (csrRead s s.cur.1 s.cur.2 c) false))

/-- CSRW (R409, R153). PROGRESS belongs to the slot and is written at once; the others are effects (R278). -/
def execCsrw (b : BitVec 4) (c : BitVec 12) (s : State) : Host.Outcome State Fault Refusal :=
  .next (issueRead s 0 [b] [] 1 atOnce
    (fun s x => do
      -- 4 lies in every range: what fails here is read-only
      needs .illegal (csrWritable s.firmware c 4)
      let v ← controlOf (x.tile b)
      needs .illegal (csrWritable s.firmware c v)
      needs .poison (!(x.tile b).tag)
      .ok v)
    noWait
    fun s v =>
      if c = 0x020 then finish (csrWrite s s.cur.1 s.cur.2 c v)
      else finish (effect s (bytesOf 2 c.toNat) (bytesOf 8 v.toNat) true (.csrw c v)))

/-- A 1×1 UINT64 tile holding a value. -/
def uwordTile (v : Word64) (tag : Bool) : Tile := { Tile.ofWord v tag with fmt := .uint64 }

/-- TNOW (R409). -/
def execTnow (a : BitVec 4) (s : State) : Host.Outcome State Fault Refusal :=
  .next (issueOutside s a (uwordTile s.now false))

/-- SEED (R417): a tagged tile leaves the LFSR and raises the UE event. -/
def aluSeed (b : TReg) (x : AluIn) : AluRes :=
  match (x.tile b).control with
  | none => .error .shape
  | some v =>
    if (x.tile b).tag then .ok (AluOut.ueOnly 0)
    else .ok { AluOut.none_ with lfsr := some (lfsrFix (BitVec.ofInt 32 v)) }

/-- SEED (R417). -/
def execSeed (b : BitVec 4) (s : State) : Host.Outcome State Fault Refusal := .next (issueAlu s 0 [b] [] (aluSeed b))

/-- CKPT (R416, R279): in a paired context both slots meet here with nothing outstanding; elsewhere no effect. -/
def execCkpt (s : State) : Host.Outcome State Fault Refusal :=
  .next (issue s 0 [] fun s =>
    let n := s.me.icount
    match trailPair s with
    | some p => stall (updPair s p fun q => { q with atT := some (n, 0) }) .pair
    | none =>
      match leadPair s with
      | none => finish s
      | some p =>
        if p.buf ≠ [] ∨ s.me.pend ≠ [] then stall s .pair
        else if p.atT = some (n, 0) then
          let pc := s.me.pc
          let s := finish s
          let s := match p.tslot with
            | some t => s.updSlot p.tcore t fun x => { x with st := .ready, pc := x.pc + 4, icount := x.icount + 1 }
            | none => s
          checkpoint s p pc
        else stall (updPair s p fun q => { q with atL := some (n, 0) }) .pair)

/-- Does a load of the running slot still owe its tile to a write stream (R159)? -/
def pushOwed (s : State) : Bool := s.me.pend.any (·.push)

/-- DONE (R351): streams close, the pair's buffer empties (R278), the loads write their tiles, the slot is free. -/
def execDone (s : State) : Host.Outcome State Fault Refusal :=
  .next (issue s 0 [] fun s =>
    let n := s.me.icount
    match trailPair s with
    | some p => stall (updPair s p fun q => { q with atT := some (n, 1) }) .pair
    | none =>
      match leadPair s with
      | none => if pushOwed s then stall s .tiles else endSlot s s.cur.1 s.cur.2
      | some p =>
        if p.buf ≠ [] then stall s .pair
        else if p.atT = some (n, 1) then
          let s := match p.tslot with
            | some t => freeSlot s p.tcore t
            | none => s
          endSlot s s.cur.1 s.cur.2
        else stall (updPair s p fun q => { q with atL := some (n, 1) }) .pair)

end Sys2Proof.Machine
end

