-- ==== Sys2Proof/Machine/Transfer.lean ====
section
/-! DEFINITION. Row-granular instructions (05 R124 to R128, R130, 14 R375 to R378): the rows of a tile, their checks,
their translation, one row at a time, and loads that reach their tile (12 R325). -/

namespace Sys2Proof.Machine

/-- Bytes of a row of a tile: MASK1 in whole bytes (R134, R376). -/
def rowLen (t : Tile) (cols : Nat) : Nat := if t.fmt = .mask1 then (cols + 7) / 8 else cols * fmtSize t.fmt
/-- The valid rows of a tile at a stride (R376). -/
def rowsOf (t : Tile) (stride : Int) : List Row :=
  (List.range t.vrows).map fun i => { n := i, off := stride * i, len := rowLen t t.vcols }
/-- May a tile be transferred under a mask (R376, R121)? -/
def transferable (k : MReg) (t : Tile) : Bool :=
  maskFits k t && (t.fmt != .mask1 || (t.cols % 8 == 0 && t.vcols % 8 == 0 && k == 0))

/-- An element of a row that an access covers: offset in the row, byte in the tile, bytes, element number. -/
structure Elem where
  off : Nat
  pos : Nat
  len : Nat
  e : Nat
deriving DecidableEq, Repr

/-- The unmasked valid elements of row i (R376); of a MASK1 tile, its bytes. -/
def rowElems (x : AluIn) (k : MReg) (t : Tile) (i : Nat) : List Elem :=
  if t.fmt = .mask1 then
    (List.range (t.vcols / 8)).map fun q => { off := q, pos := (i * t.cols) / 8 + q, len := 1, e := i * t.cols + 8 * q }
  else
    let z := fmtSize t.fmt
    ((List.range t.vcols).filter fun j => x.bit k (i * t.cols + j)).map fun j =>
      { off := j * z, pos := (i * t.cols + j) * z, len := z, e := i * t.cols + j }

/-- (byte of the row, byte of the tile) of an element; rev places its bytes in reverse order (R379). -/
def elemBytes (rev : Bool) (e : Elem) : List (Nat × Nat) :=
  (List.range e.len).map fun b => (e.off + b, e.pos + (if rev then e.len - 1 - b else b))

/-- A byte of a tile's storage replaced. -/
def Tile.setByte (t : Tile) (n : Nat) (b : Byte) : Tile :=
  let m : Storage := (0xFF : Storage) <<< (8 * n)
  t.withBytes ((t.bytes &&& ~~~m) ||| (b.setWidth 512 <<< (8 * n)))
/-- A byte of a tile's storage. -/
def Tile.byte (t : Tile) (n : Nat) : Byte := (t.bytes >>> (8 * n)).setWidth 8

/-- A row-granular instruction whose checks pass: pointer, window (R135), rows, bytes placed in reverse (LDB), and
whether its data are tagged and discarded (R270). -/
structure Transfer where
  ptr : Ptr
  win : Option Word64
  rows : List Row
  sink : Bool

/-- The row at which the running instruction goes on (R125). -/
def firstRow (s : State) : Nat := if s.me.progress.live then s.me.progress.row.toNat else 0

/-- The window of a vault pointer: resolved at the first issue, and again only where the pointer names another rank (R135, R126). -/
def windowFor (s : State) (q : Ptr) : Option Word64 :=
  if 1 < q.space then none
  else match s.me.window with
    | some (k, e) => if s.me.progress.live && k == q.rankKey then some e else resolve s s.myCtx.job (homeCore s) q
    | none => resolve s s.myCtx.job (homeCore s) q

/-- Checks 3 of R377 for a list of rows, giving what the instruction acts on. -/
def accessChecks (s : State) (p : Word64) (rows : List Row) (align : Nat) (whole : Nat → Bool) (sink : Bool) : Check Transfer :=
  let win := (ptrOf p).bind (windowFor s)
  match checkRows p s.firmware win rows align whole, ptrOf p with
  | some c, _ => .error c
  | none, none => .error (.bounds, some p)
  | none, some q => .ok { ptr := q, win := win, rows := rows, sink := sink }

/-- A row-granular instruction is issued: what its later rows go by is kept (R125, R128). -/
def latch (s : State) (v : Transfer × AluIn) : State :=
  s.updMe fun x => { x with
    window := v.1.win.map fun e => (v.1.ptr.rankKey, e)
    going := some { ptr := v.1.ptr.raw, win := v.1.win, rows := v.1.rows.map fun r => (r.n, r.off, r.len), sink := v.1.sink, told := v.1.sink,
                    tiles := v.2.tiles, masks := v.2.masks } }
/-- What the running instruction goes by when it is partly done (R128). -/
def goingOf (s : State) : Option (Transfer × AluIn) :=
  if !s.me.progress.live then none
  else s.me.going.bind fun g => (ptrOf g.ptr).map fun q =>
    ({ ptr := q, win := g.win, rows := g.rows.map fun r => { n := r.1, off := r.2.1, len := r.2.2 }, sink := g.sink },
     { aluIn s [] with tiles := g.tiles, masks := g.masks })
/-- Rows of the running instruction: those it goes by, else its tile's. -/
def rowCount (s : State) (t : Tile) : Nat := match s.me.going with
  | some g => g.rows.length
  | none => t.vrows
/-- The issue of a row-granular instruction: its checks, or its next row with no new one (R125, R128). -/
def issueRows (s : State) (a : TReg) (reads writes : List TReg) (cost : Nat) (check : State → AluIn → Check Transfer)
    (body : State → Transfer × AluIn → State) : State :=
  match goingOf s with
  | some v =>
    match pairGate s 0 with
    | .stop s => s
    | .go s => body s v
  | none =>
    issueRead s a reads writes cost atOnce (fun s x => do
        let t ← check s x
        .ok (t, x))
      noWait fun s v => body (latch s v) v

/-- Where a row is: byte-space keys of its bytes, a remote part, a fault, or a page to wait for (R125, R138). -/
inductive RowAt where
  | keys (f : Nat → Nat)
  | remote
  | fault (c : Cause) (addr : Word64)
  | miss (vpn : BitVec 32)

/-- The place of a row, translated in full first (R125). A window in a retired cluster is out of bounds (R292). -/
def locate (s : State) (t : Transfer) (r : Row) (write : Bool) : RowAt :=
  let a := ((t.ptr.addr : Int) + r.off).toNat
  match t.ptr.space with
  | 2 =>
    let who : Waiter := .slot s.cur.1 s.cur.2
    match rowX (xlateRange s (clusterOf s.cur.1) who s.myCtx.asid a r.len write) [] with
    | .keys f => .keys fun o => keyIn f (a + o)
    | .fault c at_ addr => .fault c (addr.getD (t.ptr.at_ at_))
    | .miss v => .miss v
  | 3 => .remote
  | 5 => .keys fun o => a + o
  | _ =>
    match t.win with
    | none => .fault .bounds (t.ptr.at_ a)
    | some e =>
      if (s.cluster (entryCluster e)).retired then .fault .bounds (t.ptr.at_ a)
      else .keys fun o => vaultKey (entryCluster e) (winBase e + a + o)

/-- Least scope that holds an access's point of coherence (R211). -/
def Transfer.near (t : Transfer) (core : CoreId) : BitVec 2 :=
  match t.ptr.space with
  | 3 => 3
  | 2 => 2
  | 5 => 2
  | _ => match t.win with
    | some e => vaultNear core e
    | none => 2

/-- PROGRESS at a row (R125). -/
def setProgress (s : State) (row : Nat) (a : TReg) : State :=
  s.updMe fun x => { x with progress := { live := true, row := BitVec.ofNat 3 row, tile := a } }

/-- A tile partly filled when its instruction traps has the tags that came so far (R269). -/
def tagPartly (s : State) (a : TReg) : State :=
  match s.me.pend.find? fun p => p.n == s.me.icount && p.tile == a with
  | some p => if p.tag then s.updMe fun x => x.setTile a { x.tileRaw a with tag := true } else s
  | none => s

/-- A fault in the middle of the rows (R125, R146). -/
def rowFault (s : State) (row : Nat) (a : TReg) (c : Cause) (addr : Word64) : State :=
  let s := tagPartly s a
  takeFault (trapWith (setProgress s row a) c (some addr) a) (clusterOf s.cur.1) (.slot s.cur.1 s.cur.2)

/-- PROGRESS cleared, and the instruction is complete. -/
def rowsDone (s : State) : State :=
  finish (s.updMe fun x => { x with progress := { live := false, row := 0, tile := 0 } })

/-- The load of the running instruction, if it has one. -/
def myPend (s : State) (a : TReg) : Option Pend := s.me.pend.find? fun p => p.n == s.me.icount && p.tile == a
/-- A load's record changed. -/
def updPend (s : State) (c : CoreId) (i : BitVec 2) (n : Nat) (a : TReg) (f : Pend → Pend) : State :=
  s.updSlot c i fun x => { x with pend := x.pend.map fun p => if p.n = n ∧ p.tile = a then f p else p }

/-- A load with nothing out and nothing to send has written its tile: ragged region zero, tag of R269, and its value
goes to a trailing slot (R325, R277). -/
def settlePend (s : State) (c : CoreId) (i : BitVec 2) (p : Pend) : State :=
  let x := s.slot c i
  let t := Tile.clearRagged { x.tileRaw p.tile with tag := p.tag || p.keep }
  let s := s.updSlot c i fun x =>
    let y := x.setTile p.tile t
    { y with pend := y.pend.filter fun q => q != p }
  sendValue s c i p.n p.tile t t.vrows

/-- A load that is complete settles, and its tile is pushed (R159); a pair's leader pushes in program order itself. -/
def trySettle (s : State) (c : CoreId) (i : BitVec 2) (n : Nat) (a : TReg) : State :=
  match (s.slot c i).pend.find? fun p => p.n == n && p.tile == a with
  | some p =>
    let paired := s.pairs.any fun q => q.core == c && q.slot == i && q.uid == (s.slot c i).uid
    if !p.sent || !p.evs.isEmpty || (p.push && paired) then s
    else
      let s := settlePend s c i p
      if p.push then performEff s c i n (.push a ((s.slot c i).tileRaw a)) else s
  | none => s

/-- The record of a load at its first row: what is kept of the tile under the mask (R269). -/
def openPend (s : State) (a : TReg) (keep push : Bool) : State :=
  let n := s.me.icount
  if s.me.progress.live && (myPend s a).isSome then s
  else
    let p : Pend := { tile := a, evs := [], sent := false, tag := s.me.progress.live && (s.me.tileRaw a).tag, keep := keep,
                      push := push, n := n }
    s.updMe fun x => { x with pend := (x.pend.filter fun q => q.n != n || q.tile != a) ++ [p] }

/-- Every row of a load is sent: the slot goes on (R159); a pair's leader waits to push the tile. -/
def loadSent (s : State) (a : TReg) : State :=
  let n := s.me.icount
  let s := updPend s s.cur.1 s.cur.2 n a fun p => { p with sent := true }
  match myPend s a with
  | none => rowsDone s
  | some p =>
    if p.push && (leadPair s).isSome then
      if p.evs.isEmpty then rowsDone (pushAll (settlePend s s.cur.1 s.cur.2 p) [a]) else stall s .tiles
    else rowsDone (trySettle s s.cur.1 s.cur.2 n a)

/-- What an instruction whose rows are all sent still does: a push, or a trailing slot's wait for the leader's tile. -/
def loadEnd (s : State) (a : TReg) : State :=
  if s.me.trailing then
    match suppliedTile s a with
    | none => stall s .leader
    | some t =>
      let push : Bool := writeBound s a == .room
      let s := s.updMe fun x => let y := x.setTile a (flipTile s t); { y with pend := y.pend.filter fun p => p.n != y.icount }
      rowsDone (if push then pushAll s [a] else s)
  else loadSent s a

/-- The reply to a remote row has come (R42, R378): its status traps at the row, its data reach the tile. The next row follows, but for a
budget that has ended (R98) and a single step of one row (R257). A tagged reply to a store or an operation says that the target discarded it, which its
UE event tells once (R270, log 54). -/
def takeReply (s : State) (a : TReg) (vrows : Nat) (load sink : Bool) : Gate1 :=
  match s.me.st with
  | .stalled (.remote id) =>
    match s.rems.find? fun r => r.id == id with
    | none => .stop s
    | some r =>
      match r.reply with
      | none => .stop s
      | some (status, tag, data) =>
        let s := { s with rems := s.rems.filter fun r => r.id != id }
        let s := s.updMe fun x => { x with st := .ready }
        if status ≠ 0 then .stop (trapWith (tagPartly s a) (causeOfStatus status) (some r.addr) a)
        else
          let s := if load then
              let s := s.updMe fun x => x.setTile a (r.map.foldl (fun t p => t.setByte p.2 (data.getD p.1 0)) (x.tileRaw a))
              updPend s s.cur.1 s.cur.2 s.me.icount a fun p => { p with tag := p.tag || tag }
            else s
          let s := if sink && tag && (s.me.going.map (·.told)) == some false then
              ueEvent (s.updMe fun x => { x with going := x.going.map fun g => { g with told := true } }) a r.row r.addr
            else s
          if r.row + 1 < vrows then
            let s := setProgress s (r.row + 1) a
            if (s.me.budget = 0 ∧ s.me.stepping = none ∧ s.me.trailing = false) ∨ s.me.rowOnly = true then .stop s else .go s
          else .stop (if load then loadSent s a else rowsDone s)
  | _ => .go s

/-- A built-in memory operation of the running slot (R41, R136): selector, aux, format, argument words, data. -/
def builtinMsg (s : State) (id : Nat) (addr : Word64) (sel : BitVec 12) (aux : BitVec 8) (f : BitVec 5) (args : List Word64)
    (data : List Byte) (tag : Bool) : Msg :=
  Msg.formed {
    dstPart := addr.extractLsb' 44 16, dstCore := 0, srcCore := s.cur.1, srcPart := s.part, vnet := 0, kind := 11, prio := 0,
    rcheck := 0, etag := tag, job := s.myCtx.job, sel := sel, tag := 0, pfmt := f, seq := BitVec.ofNat 16 id, residue := 0,
    aux := aux, arg := (addr.extractLsb' 0 44 : BitVec 44).setWidth 64, zeros := 0, retained := false, fixed := false, args := args, payload := data }

/-- Keys of bytes of a REMOTE range that lies in the own part, so far as the own tables map it (R215). -/
def ownKeys (s : State) (p : Word64) (l : List Nat) : List Nat :=
  if p.extractLsb' 44 16 ≠ s.part then []
  else l.filterMap fun o => (leafOf s s.myCtx.asid (BitVec.ofNat 48 (p.toNat % 2 ^ 44 + o))).map (·.2)

/-- The events of the running slot that precede a REMOTE row, which leaves the part once they are performed (R214): bytes in common in the
own part (R215), its class at a scope that both share (R217), fences (R219). No other access is waited for (R218). -/
def remoteEdges (s : State) (p : Word64) (l : List Nat) (cls : BitVec 2) (write : Bool) : List Nat :=
  if l.isEmpty then []
  else
    let keys := ownKeys s p l
    let pre := (ownEvents s (ownerOf s)).filter fun x =>
      !x.dropped && ((x.bytes.any fun b => keys.contains (x.key + b)) || (x.cls == cls && decide (x.near.toNat ≤ x.scope.toNat)))
    let fen := s.me.fences.flatMap fun f => if f.mask.getLsbD cls.toNat && (f.kind != 2 || write) then f.before else []
    ((pre.map (·.id) ++ fen).eraseDups).filter (outstanding s)

/-- One row through its turn: a miss waits, a fault traps, a remote row waits for the events before it, and act
performs it; offs are the bytes of a row that it touches, last is what follows the last row. -/
def rowTurn (s : State) (a : TReg) (t : Transfer) (cls : BitVec 2) (write : Bool) (offs : Row → List Nat) (remote : State → Row → State)
    (act : State → Row → (Nat → Nat) → State) (last : State → State) : State :=
  let i := firstRow s
  match t.rows[i]? with
  | none => last s
  | some r =>
    let next (s : State) : State := if i + 1 < t.rows.length then setProgress s (i + 1) a else last s
    let s := s.updMe fun x => { x with st := .ready }
    if s.me.trailing then next (act s r fun o => o)
    else
      let who : Waiter := .slot s.cur.1 s.cur.2
      let s := retried s (clusterOf s.cur.1) who
      match locate s t r write with
      | .keys f => next (act s r f)
      | .remote =>
        let ids := remoteEdges s (t.ptr.at_ ((t.ptr.addr : Int) + r.off)) (offs r) cls write
        if ids.isEmpty then remote (setProgress s i a) r else stall s (.edges ids)
      | .fault c addr => rowFault s i a c addr
      | .miss v =>
        let m : Miss := { asid := s.myCtx.asid, vpn := v, write := write, fetch := false, who := who, served := false }
        stall (noteMiss s (clusterOf s.cur.1) m) (.xlate s.myCtx.asid v)

/-- The events of a row: bytes grouped by granule (R212), each of a kind that its bytes decide. -/
def rowEvents (s : State) (t : Transfer) (l : List (Nat × Nat)) (f : Nat → Nat) (a : TReg) (cls scope : BitVec 2)
    (kind : List (Nat × Nat) → EvKind) : State × List MemEv :=
  let units := wholeUnits (l.map fun p => f p.1)
  let mk (g : Nat × List (Nat × Nat)) : MemEv :=
    { id := 0, key := g.1, kind := kind g.2, bytes := g.2.map (·.1), owner := ownerOf s, cls := cls, scope := scope,
      near := t.near s.cur.1, after := [], dst := a, map := g.2, arrived := none,
      clears := units.filter fun u => g.1 ≤ u + eccSize u - 1 && u + eccSize u - 1 < g.1 + 16,
      n := s.me.icount, job := s.myCtx.job, va := t.ptr.raw }
  makeEvents s s.me.fences ((granules (l.map fun p => (f p.1, p.2))).map mk)

/-- Reads of one row sent: the load waits for them. -/
def sendReads (s : State) (evs : List MemEv) (a : TReg) : State :=
  updPend (performEff s s.cur.1 s.cur.2 s.me.icount (.events evs)) s.cur.1 s.cur.2 s.me.icount a fun p => { p with evs := p.evs ++ evs.map (·.id) }

/-- Stride of LD, ST and LDB: the tile's control value, or packed rows for T0 (R375, R134). -/
def strideOf (x : AluIn) (c : TReg) (t : Tile) : Check Int :=
  if c = 0 then .ok (rowLen t t.cols : Nat)
  else
    match (x.tile c).control with
    | some v => .ok v
    | none => .error (.shape, none)

/-- Checks of LD, LDB and ST (R377). -/
def transferCheck (load : Bool) (a b c : TReg) (k : MReg) (s : State) (x : AluIn) : Check Transfer := do
  let t := x.tile a
  needs .poison (!(x.tile b).tag && !(x.tile c).tag)
  let p ← wordOf (x.tile b)
  let stride ← strideOf x c t
  needs .shape (transferable k t && (!load || (a != b && (a != c || c == 0)) || a == 0 || t.vrows == 1))
  accessChecks s p (rowsOf t stride) (if t.fmt = .mask1 then 1 else fmtSize t.fmt) (· == 3) (!load && t.tag)

/-- Tiles that a row-granular instruction pops: none once it is partly done (R378). -/
def popsOf (s : State) (l : List TReg) : List TReg := if s.me.progress.live then [] else l

/-- LD and LDB, one row at a time (R379). -/
def loadRows (rev : Bool) (a b c : TReg) (k : MReg) (cls scope : BitVec 2) (s : State) : State :=
  match takeReply s a (rowCount s (s.me.tileRaw a)) true false with
  | .stop s => s
  | .go s =>
    if (match myPend s a with
      | some p => p.sent
      | none => false) then loadEnd s a
    else
      -- a bound tile popped at the first issue is used as popped
      issueRows s a (popsOf s [b, c]) [a] (s.me.tileRaw a).vrows (transferCheck true a b c k) fun s v =>
          let (t, x) := v
          match suppliedTile s a with
          | some w =>
            let push : Bool := writeBound s a == .room
            let s := s.updMe fun y => let z := y.setTile a (flipTile s w); { z with pend := z.pend.filter fun p => p.n != z.icount }
            let s := if s.me.trailing then s else sendValue s s.cur.1 s.cur.2 s.me.icount a w w.vrows
            rowsDone (if push then pushAll s [a] else s)
          | none =>
            if s.me.trailing then stall s .leader
            else
              let shape := x.tile a
              let s := openPend s a (shape.tag && x.skips k shape) (writeBound s a == .room)
              rowTurn s a t cls false (fun r => ((rowElems x k shape r.n).flatMap (elemBytes rev)).map (·.1))
                (fun s r =>
                  let id := s.nextId
                  let addr := t.ptr.at_ ((t.ptr.addr : Int) + r.off)
                  let req : RemReq := { id := id, owner := ownerOf s, dst := a, addr := addr, row := r.n, reply := none,
                                        map := (rowElems x k shape r.n).flatMap (elemBytes rev) }
                  let m := builtinMsg s id addr 1 (BitVec.ofNat 8 (r.len / 16 - 1)) 0 [] [] false
                  stall (performEff { s with nextId := id + 1 } s.cur.1 s.cur.2 s.me.icount (.remote m req)) (.remote id))
                (fun s r f =>
                  let l := (rowElems x k shape r.n).flatMap (elemBytes rev)
                  let w := rowEvents s t l f a cls scope fun _ => .read
                  sendReads w.1 w.2 a)
                (fun s => loadSent s a)

/-- ST, one row at a time (R379); tagged data are a sink (R270). -/
def storeRows (a b c : TReg) (k : MReg) (cls scope : BitVec 2) (s : State) : State :=
  match takeReply s a (rowCount s (s.me.tileRaw a)) false true with
  | .stop s => s
  | .go s =>
    issueRows s a (popsOf s [b, c, a]) [] (s.me.tileRaw a).vrows (transferCheck false a b c k) fun s v =>
        let (t, x) := v
        let d := x.tile a
        let addr (r : Row) : Word64 := t.ptr.at_ ((t.ptr.addr : Int) + r.off)
        let bytes (r : Row) : List (Nat × Nat) := (rowElems x k d r.n).flatMap (elemBytes false)
        if t.sink then
          match t.rows[firstRow s]? with
          | some r => rowsDone (ueEvent s a r.n (addr r))
          | none => rowsDone s
        else
          rowTurn s a t cls true (fun r => (bytes r).map (·.1))
            (fun s r =>
              let id := s.nextId
              let req : RemReq := { id := id, owner := ownerOf s, dst := 0, addr := addr r, row := r.n, reply := none, map := bytes r }
              let data := d.byteRange (r.n * rowLen d d.cols) r.len
              let m := builtinMsg s id (addr r) 2 (BitVec.ofNat 8 (r.len / 16 - 1)) 0 [] data false
              stall (effect { s with nextId := id + 1 } (bytesOf 8 (addr r).toNat) ((bytes r).map fun p => d.byte p.2) true
                (.remote m req)) (.remote id))
            (fun s r f =>
              if (bytes r).isEmpty then s
              else
                let w := rowEvents s t (bytes r) f a cls scope fun l => .write (l.map fun p => (p.1, d.byte p.2))
                effect w.1 (bytesOf 8 (addr r).toNat) ((bytes r).map fun p => d.byte p.2) true (.events w.2))
            rowsDone

end Sys2Proof.Machine
end

