-- ==== Sys2Proof/Machine/Memory.lean ====
section
/-! DEFINITION. Loads, stores, atomics, FENCE, FMTTAB and COPY (14 R379 to R386). -/

namespace Sys2Proof.Machine

/-- LD (R379). -/
def execLd (a b c : BitVec 4) (k q s' : BitVec 2) (s : State) : Host.Outcome State Fault Refusal :=
  .next (loadRows false a b c k q s' s)
/-- ST (R379). -/
def execSt (a b c : BitVec 4) (k q s' : BitVec 2) (s : State) : Host.Outcome State Fault Refusal :=
  .next (storeRows a b c k q s' s)
/-- LDB (R379). -/
def execLdb (a b c : BitVec 4) (k q s' : BitVec 2) (s : State) : Host.Outcome State Fault Refusal :=
  .next (loadRows true a b c k q s' s)

/-- FENCE (R383, R219): the earlier accesses that its edges name. -/
def execFence (s' : BitVec 2) (m : BitVec 4) (t : BitVec 2) (s : State) : Host.Outcome State Fault Refusal :=
  .next (issue s 0 [] fun s =>
    let l := (ownEvents s (ownerOf s)).filter fun e =>
      decide (e.n < s.me.icount) && m.getLsbD e.cls.toNat && decide (e.near.toNat ≤ s'.toNat) && (t != 1 || e.reads)
    let f : FenceRec := { mask := m, kind := t, before := l.map (·.id) }
    finish (s.updMe fun x => { x with fences := (x.fences ++ [f]).filter fun f => f.before.any (outstanding s) }))

/-- Fields of an ATOM: FN[4:0] and .ORD (R307). -/
structure AtomFn where
  fn : BitVec 5
  ord : Bool

/-- Checks of ATOM (R377, R380). -/
def atomCheck (f : AtomFn) (a b c : TReg) (k : MReg) (s : State) (x : AluIn) : Check Transfer := do
  let tc := x.tile c
  let ta := x.tile a
  needs .poison (!(x.tile b).tag)
  let p ← wordOf (x.tile b)
  let good : Bool := if f.fn = 0x0B then tc.fmt == .fp32
    else tc.fmt == .int32 || tc.fmt == .uint32 || tc.fmt == .int64 || tc.fmt == .uint64
  let remote : Bool := p.extractLsb' 60 4 == 3
  needs .shape (good && (a == 0 || ta.sameShape tc) && !(f.fn == 9 && a == 0) && maskFits k tc
    && (a != b || a == 0 || ta.vrows == 1) && !(remote && decide (1 < tc.vcols)))
  let t ← accessChecks s p (rowsOf tc (rowLen tc tc.cols : Nat)) (fmtSize tc.fmt) (fun _ => false) (tc.tag || (f.fn == 9 && ta.tag))
  match t.rows.find? fun r => t.ptr.space == 5 && decide ((Config.deviceBase : Int) < (t.ptr.addr : Int) + r.off + r.len) with
  | some r => .error (.bounds, some (t.ptr.at_ ((t.ptr.addr : Int) + r.off)))
  | none => .ok t

/-- The operation on element e (R381). -/
def atomOp (f : AtomFn) (x : AluIn) (a c : TReg) (e : Elem) (drop : Bool) : AtomOp :=
  { fn := f.fn, size := fmtBits (x.tile c).fmt, signed := isSigned (x.tile c).fmt, v := (x.tile c).raw e.e,
    a := if f.fn = 9 then (x.tile a).raw e.e else 0, wants := a != 0, ord := f.ord, tag := drop }

/-- ATOM, one row at a time (R380 to R382). -/
def atomRows (f : AtomFn) (a b c : TReg) (k : MReg) (cls scope : BitVec 2) (s : State) : State :=
  match takeReply s a (rowCount s (s.me.tileRaw c)) (a != 0) true with
  | .stop s => s
  | .go s =>
    if (match myPend s a with
      | some p => p.sent && a != 0
      | none => false) then loadEnd s a
    else
      let reads := popsOf s ([b, c] ++ (if f.fn = 9 then [a] else []))
      issueRows s a reads (if a = 0 then [c] else [a, c]) ((if a = 0 then 1 else 2) * (s.me.tileRaw c).vrows) (atomCheck f a b c k) fun s v =>
          let (t, x) := v
          let tc := x.tile c
          let addr (r : Row) : Word64 := t.ptr.at_ ((t.ptr.addr : Int) + r.off)
          let s := if a = 0 then s else openPend s a ((x.tile a).tag && x.skips k tc) (writeBound s a == .room)
          let ops (r : Row) : List (Elem × AtomOp) := (rowElems x k tc r.n).map fun e => (e, atomOp f x a c e t.sink)
          let data (r : Row) : List Byte := (ops r).flatMap fun p => bytesOf (p.2.size / 8) p.2.v ++ (if f.fn = 9 then bytesOf (p.2.size / 8) p.2.a else [])
          -- the row is translated: Ta takes Tc's valid region (R380), and the first row discarded is reported (R270)
          let reached (s : State) (r : Row) : State :=
            let s := if a = 0 then s else s.updMe fun y => y.setTile a { y.tileRaw a with vrows := tc.vrows, vcols := tc.vcols }
            if t.sink && !(ops r).isEmpty && (t.rows.take r.n).all fun q => (ops q).isEmpty then ueEvent s a r.n (addr r) else s
          rowTurn s a t cls true (fun r => (ops r).flatMap fun p => (List.range (p.2.size / 8)).map fun b => p.1.off + b)
            (fun s r =>
              let s := reached s r
              match ops r with
              | [] =>
                -- a masked element makes no operation
                if r.n + 1 < t.rows.length then setProgress s (r.n + 1) a
                else if a = 0 then rowsDone s else loadSent s a
              | (e, op) :: _ =>
                let id := s.nextId
                let req : RemReq := { id := id, owner := ownerOf s, dst := a, addr := addr r, row := r.n, reply := none,
                                      map := if a = 0 then [] else (List.range (op.size / 8)).map fun b => (b, e.pos + b) }
                let args := if f.fn = 9 then [BitVec.ofNat 64 op.a, BitVec.ofNat 64 op.v] else [BitVec.ofNat 64 op.v]
                let m := builtinMsg s id (addr r) 3 (f.fn.setWidth 8) (BitVec.ofNat 5 (fmtCode tc.fmt)) args [] op.tag
                stall (effect { s with nextId := id + 1 } (bytesOf 8 (addr r).toNat) (data r) true (.remote m req)) (.remote id))
            (fun s r g =>
              let s := reached s r
              let l := (ops r).filter fun p => !(p.2.tag && a == 0)
              if l.isEmpty then s
              else
                let mk (p : Elem × AtomOp) : MemEv :=
                  let key := g p.1.off
                  { id := 0, key := key / 16 * 16, kind := .atom (key % 16) p.2,
                    bytes := (List.range (p.2.size / 8)).map fun b => key % 16 + b, owner := ownerOf s, cls := cls, scope := scope,
                    near := t.near s.cur.1, after := [], dst := a,
                    map := (List.range (p.2.size / 8)).map fun b => (key % 16 + b, p.1.pos + b), arrived := none, clears := [],
                    n := s.me.icount, job := s.myCtx.job, va := t.ptr.at_ ((t.ptr.addr : Int) + r.off + p.1.off) }
                let w := makeEvents s s.me.fences (l.map mk)
                let s := effect w.1 (bytesOf 8 (addr r).toNat) (data r) true (.events w.2)
                if a = 0 || s.me.trailing then s
                else updPend s s.cur.1 s.cur.2 s.me.icount a fun p => { p with evs := p.evs ++ w.2.map (·.id) })
            fun s =>
              if a = 0 then rowsDone s
              else loadEnd (updPend s s.cur.1 s.cur.2 s.me.icount a fun p => { p with sent := true }) a

/-- AADD (R381). -/
def execAadd (a b c : BitVec 4) (k q s' : BitVec 2) (o : BitVec 1) (s : State) : Host.Outcome State Fault Refusal :=
  .next (atomRows { fn := 0x00, ord := o == 1 } a b c k q s' s)
/-- AMIN (R381). -/
def execAmin (a b c : BitVec 4) (k q s' : BitVec 2) (o : BitVec 1) (s : State) : Host.Outcome State Fault Refusal :=
  .next (atomRows { fn := 0x01, ord := o == 1 } a b c k q s' s)
/-- AMAX (R381). -/
def execAmax (a b c : BitVec 4) (k q s' : BitVec 2) (o : BitVec 1) (s : State) : Host.Outcome State Fault Refusal :=
  .next (atomRows { fn := 0x02, ord := o == 1 } a b c k q s' s)
/-- AMINU (R381). -/
def execAminu (a b c : BitVec 4) (k q s' : BitVec 2) (o : BitVec 1) (s : State) : Host.Outcome State Fault Refusal :=
  .next (atomRows { fn := 0x03, ord := o == 1 } a b c k q s' s)
/-- AMAXU (R381). -/
def execAmaxu (a b c : BitVec 4) (k q s' : BitVec 2) (o : BitVec 1) (s : State) : Host.Outcome State Fault Refusal :=
  .next (atomRows { fn := 0x04, ord := o == 1 } a b c k q s' s)
/-- AAND (R381). -/
def execAand (a b c : BitVec 4) (k q s' : BitVec 2) (o : BitVec 1) (s : State) : Host.Outcome State Fault Refusal :=
  .next (atomRows { fn := 0x05, ord := o == 1 } a b c k q s' s)
/-- AOR (R381). -/
def execAor (a b c : BitVec 4) (k q s' : BitVec 2) (o : BitVec 1) (s : State) : Host.Outcome State Fault Refusal :=
  .next (atomRows { fn := 0x06, ord := o == 1 } a b c k q s' s)
/-- AXOR (R381). -/
def execAxor (a b c : BitVec 4) (k q s' : BitVec 2) (o : BitVec 1) (s : State) : Host.Outcome State Fault Refusal :=
  .next (atomRows { fn := 0x07, ord := o == 1 } a b c k q s' s)
/-- ASWP (R381). -/
def execAswp (a b c : BitVec 4) (k q s' : BitVec 2) (o : BitVec 1) (s : State) : Host.Outcome State Fault Refusal :=
  .next (atomRows { fn := 0x08, ord := o == 1 } a b c k q s' s)
/-- ACAS (R381). -/
def execAcas (a b c : BitVec 4) (k q s' : BitVec 2) (o : BitVec 1) (s : State) : Host.Outcome State Fault Refusal :=
  .next (atomRows { fn := 0x09, ord := o == 1 } a b c k q s' s)
/-- AINCB (R381). -/
def execAincb (a b c : BitVec 4) (k q s' : BitVec 2) (o : BitVec 1) (s : State) : Host.Outcome State Fault Refusal :=
  .next (atomRows { fn := 0x0A, ord := o == 1 } a b c k q s' s)
/-- AFADD (R381). -/
def execAfadd (a b c : BitVec 4) (k q s' : BitVec 2) (o : BitVec 1) (s : State) : Host.Outcome State Fault Refusal :=
  .next (atomRows { fn := 0x0B, ord := o == 1 } a b c k q s' s)

/-- FMTTAB once its reads are back: bytes with their places in the image, a tag, or a remote status (R384, steps 3
to 6). -/
def tableEnd (s : State) (b : TReg) (ids : List Nat) : State :=
  let s := s.updMe fun x => { x with st := .ready }
  let mine (id : Nat) : Bool := ids.contains id
  let rets := s.rets.filter fun r => mine r.id
  let rems := s.rems.filter fun r => mine r.id
  let s := { s with rets := s.rets.filter fun r => !mine r.id, rems := s.rems.filter fun r => !mine r.id }
  let data : List (Nat × Byte) := rets.flatMap (·.bytes) ++ rems.flatMap fun r => match r.reply with
    | some (_, _, l) => r.map.map fun p => (p.2, l.getD p.1 0)
    | none => []
  let tag := (rets.any (·.tag)) || rems.any fun r => match r.reply with
    | some (_, t, _) => t
    | none => false
  let p := (s.me.tile b).word
  match rems.find? fun r => match r.reply with
    | some (st, _, _) => st != 0
    | none => false with
  | some r => trapWith s (causeOfStatus ((r.reply.map (·.1)).getD 0)) (some r.addr) 0
  | none =>
    if tag then finish (effect s (bytesOf 8 p.toNat) [] true (.ue 0 0 p))
    else
      let img : BitVec 8192 := data.foldl (fun (v : BitVec 8192) (q : Nat × Byte) => v ||| ((q.2.setWidth 8192 : BitVec 8192) <<< (8 * q.1))) 0
      if code8Ok img then finish (effect s (bytesOf 8 p.toNat) [] true (.fmttab img)) else trapHere s .table 0

/-- FMTTAB (R384): 1,024 B read as 64 events of 16 B; a REMOTE image as four rows of 256 B (R41). -/
def execFmttab (b : BitVec 4) (q s' : BitVec 2) (s : State) : Host.Outcome State Fault Refusal :=
  .next (match s.me.st with
    | .stalled (.memory ids) => tableEnd s b ids
    | _ =>
      issueRead s 0 [b] [] 1 atOnce
        (fun s x => do
          needs .poison (!(x.tile b).tag)
          let p ← wordOf (x.tile b)
          accessChecks s p [{ n := 0, off := 0, len := 1024 }] 16 (fun _ => false) false)
        noWait
        fun s t =>
          let s := retried (s.updMe fun x => { x with st := .ready }) (clusterOf s.cur.1) (.slot s.cur.1 s.cur.2)
          let p := t.ptr.raw
          if s.me.trailing then finish (effect s (bytesOf 8 p.toNat) [] true (.fmttab 0))
          else
            match locate s t { n := 0, off := 0, len := 1024 } false with
            | .fault c addr => takeFault (trapWith s c (some addr) 0) (clusterOf s.cur.1) (.slot s.cur.1 s.cur.2)
            | .miss v =>
              let m : Miss := { asid := s.myCtx.asid, vpn := v, write := false, fetch := false, who := .slot s.cur.1 s.cur.2, served := false }
              stall (noteMiss s (clusterOf s.cur.1) m) (.xlate s.myCtx.asid v)
            | .remote =>
              let ids := remoteEdges s p (List.range 1024) q false
              if !ids.isEmpty then stall s (.edges ids)
              else
                let go (s : State) (j : Nat) : State :=
                  let id := s.nextId
                  let addr := t.ptr.at_ ((t.ptr.addr : Int) + 256 * j)
                  let req : RemReq := { id := id, owner := ownerOf s, dst := 0, addr := addr, row := 0, reply := none,
                                        map := (List.range 256).map fun i => (i, 256 * j + i) }
                  performEff { s with nextId := id + 1 } s.cur.1 s.cur.2 s.me.icount (.remote (builtinMsg s id addr 1 15 0 [] [] false) req)
                let id := s.nextId
                stall ((List.range 4).foldl go s) (.memory [id, id + 1, id + 2, id + 3])
            | .keys f =>
              let w := rowEvents s t ((List.range 1024).map fun i => (i, i)) f 0 q s' fun _ => .read
              stall (performEff w.1 s.cur.1 s.cur.2 s.me.icount (.events w.2)) (.memory (w.2.map (·.id))))

/-- The completion fields of a stream or copy descriptor (R156, R385). -/
def completionOf (d : Storage) : Completion :=
  { done := d.extractLsb' 490 2, ctr := d.extractLsb' 492 4, rscope := d.extractLsb' 488 2, route := d.extractLsb' 320 64,
    arg := d.extractLsb' 384 64 }

/-- Places of the copy engine taken on a cluster, by copies and by copies held in a compare buffer. -/
def copiesTaken (s : State) (k : ClusterId) : Nat :=
  let held := (s.pairs.filter fun p => clusterOf p.core == k).flatMap fun p => p.buf.filter fun e => match e.2.1 with
    | .copy _ => true
    | _ => false
  (s.cluster k).copies.length + held.length

/-- COPY (R385, R386): a is the descriptor, b the destination, c the source. -/
def execCopy (a b c : BitVec 4) (s : State) : Host.Outcome State Fault Refusal :=
  .next (issueRead s a [a, b, c] [] 1 atOnce
    (fun s x => do
      needs .poison (!(x.tile a).tag && !(x.tile b).tag && !(x.tile c).tag)
      let dst ← wordOf (x.tile b)
      let src ← wordOf (x.tile c)
      let d := (x.tile a).bytes
      let len := (d.extractLsb' 256 40).toNat
      let zero := d.extractLsb' 496 16 == 0 && d.extractLsb' 484 4 == 0 && d.extractLsb' 448 28 == 0
        && d.extractLsb' 296 24 == 0 && d.extractLsb' 0 256 == 0
      needs .stream (zero && (completionOf d).done != 3 && len != 0)
      let row : Row := { n := 0, off := 0, len := len }
      let win (p : Word64) : Option Word64 := (ptrOf p).bind (resolve s s.myCtx.job (homeCore s))
      match checkRows dst s.firmware (win dst) [row] 16 (fun _ => true) with
      | some e => .error e
      | none =>
        match checkRows src s.firmware (win src) [row] 16 (fun _ => true) with
        | some e => .error e
        | none => .ok ({
            uid := 0, core := s.cur.1, ctx := s.me.ctx, job := s.myCtx.job, slot := s.cur.2, dst := dst, src := src, length := len,
            cls := d.extractLsb' 478 2, scope := d.extractLsb' 476 2, fin := completionOf d, wait := d.extractLsb' 480 4, waits := [],
            sectors := 0, faulted := false, parked := false, ue := false, dstWindow := (win dst).getD 0,
            srcWindow := (win src).getD 0, evs := [], reqs := [], taken := none } , (x.tile a).byteRange 0 64))
    (fun s _ => if !s.me.trailing && decide (Config.copyPlaces ≤ copiesTaken s (clusterOf s.cur.1)) then some .copyPlace else none)
    fun s v => finish (effect s (bytesOf 8 v.1.dst.toNat ++ bytesOf 8 v.1.src.toNat) v.2 true (.copy v.1)))

end Sys2Proof.Machine
end

