-- ==== Sys2Proof/Machine/Streams.lean ====
section
/-! DEFINITION. The stream instructions (14 R387, R388, 06 R155 to R158). -/

namespace Sys2Proof.Machine

/-- A stream descriptor read from 64 B (R156), for a tile of a slot. -/
def streamOf (s : State) (a : TReg) (kind : BitVec 2) (shape : Tile) (d : Storage) : Stream :=
  let stride (i : Nat) : Int := (d.extractLsb' (64 + 32 * i) 32).toInt
  let count (i : Nat) : Nat := (d.extractLsb' (192 + 16 * i) 16).toNat + 1
  let win (p : Word64) : Word64 := ((ptrOf p).bind (resolve s s.myCtx.job (homeCore s))).getD 0
  { uid := 0, slot := s.cur.2, handler := s.me.uid, tile := a, kind := kind, shape := { shape with bytes := 0, residue := 0, tag := false },
    rows := count 0 * count 1 * count 2 * count 3, base := d.extractLsb' 0 64, strides := [stride 0, stride 1, stride 2, stride 3],
    counts := [count 0, count 1, count 2, count 3], indexed := d.getLsbD 464, index := d.extractLsb' 256 64,
    ifmt := d.extractLsb' 465 5, op := d.extractLsb' 470 6, cls := d.extractLsb' 478 2, scope := d.extractLsb' 476 2,
    fin := completionOf d, window := win (d.extractLsb' 0 64), idxWindow := win (d.extractLsb' 256 64), wait := d.extractLsb' 480 4,
    waits := [], queue := [], filling := [], nextRow := 0, nextIdx := 0, moved := 0, flying := [], idx := [], st := .open_,
    faultTile := 0, faultSub := 0, faultAddr := 0, retry := false, redo := none, ueSent := [] }

/-- Check 3 of R158. -/
def descriptorOk (kind : BitVec 2) (f : Fmt) (r : Stream) (d : Storage) : Bool :=
  let zero := d.extractLsb' 496 16 == 0 && d.extractLsb' 484 4 == 0 && d.extractLsb' 448 16 == 0
  let done : Bool := r.fin.done != 3 && (2 ≤ kind.toNat || r.fin.done == 0)
  let indexed : Bool := if kind = 0 then !r.indexed else if kind = 1 then r.indexed else true
  let tail := r.strides.drop 1 == [0, 0, 0] && r.counts.drop 1 == [1, 1, 1]
  zero && (kind == 3 || r.op == 0) && (r.indexed || (r.ifmt == 0 && r.index == 0)) && done && indexed && f != .mask1
    && (!r.indexed || (decide (4 ≤ r.ifmt.toNat ∧ r.ifmt.toNat ≤ 7) && tail))

/-- Check 4 of R158. -/
def streamOpOk (kind : BitVec 2) (f : Fmt) (op : BitVec 6) : Bool :=
  if kind ≠ 3 then true
  else
    let fn := op.extractLsb' 0 5
    if fn = 0x0B then f == .fp32
    else decide (fn.toNat ≤ 7) && (f == .int32 || f == .uint32 || f == .int64 || f == .uint64)

/-- Open streams of the running slot's context, those of its compare buffers among them (R154, R387). -/
def openStreams (s : State) : Nat :=
  let held := s.pairs.flatMap fun p => if p.core = s.cur.1 ∧ (s.slot p.core p.slot).ctx = s.me.ctx then p.buf.filter fun e => match e.2.1 with
    | .bind _ => true
    | _ => false else []
  ((streamsOn s s.cur.1).filter fun p => p.1.ctx == s.me.ctx).length + held.length

/-- Is a tile bound, as the running slot knows it? -/
def isBound (s : State) (a : TReg) : Bool :=
  if ownBinds s then s.me.binds.contains a else s.me.binds.contains a || (boundTo s s.cur.1 s.cur.2 a).isSome

/-- Checks 5 to 7 of R158 on one pointer: reserved space or must-be-zero, SYSTEM in a job context, alignment. -/
def streamPtr (s : State) (r : Stream) (f : Fmt) : Check Unit := do
  let ps := [r.base] ++ (if r.indexed then [r.index] else [])
  match ps.find? fun p => match ptrOf p with
    | none => true
    | some q => !q.zeroOk with
  | some p => .error (.bounds, some p)
  | none =>
    needs .priv (s.firmware || !(ps.any fun p => p.extractLsb' 60 4 == 5))
    let z := fmtSize f
    let zi := ((fmtOf r.ifmt.toNat).map fmtSize).getD 1
    let off (p : Word64) (n : Nat) : Bool := p.toNat % n != 0
    if off r.base z || r.strides.any fun x => x % z != 0 then .error (.align, some r.base)
    else if r.indexed && off r.index zi then .error (.align, some r.index)
    else .ok ()

/-- A binding instruction (R158, R387). -/
def bindStream (kind : BitVec 2) (a b : TReg) (s : State) : State :=
  issueRead s a [b] [] 1
    (fun s =>
      let closing : Bool := !ownBinds s && match boundTo s s.cur.1 s.cur.2 a with
        | some p => p.2.st == .closing
        | none => false
      if owedTile s.me a then some .tiles else if closing || heldBind s a then some .stream else none)
    (fun s x => do
      let t := x.tile b
      let shape := s.me.tileRaw a
      let r := streamOf s a kind shape t.bytes
      needs .poison (!t.tag)
      needs .stream (a != 0 && !isBound s a && (s.me.trailing || decide (openStreams s < 8)))
      needs .stream (descriptorOk kind shape.fmt r t.bytes)
      needs .stream (streamOpOk kind shape.fmt r.op)
      streamPtr s r shape.fmt
      .ok (r, t.byteRange 0 64))
    noWait
    fun s v =>
      let s := effect s (bytesOf 8 v.1.base.toNat ++ bytesOf 8 v.1.index.toNat) v.2 true (.bind v.1)
      finish (if 2 ≤ kind.toNat then s.updMe fun x => { x with binds := a :: x.binds } else s)

/-- STRM (R387). -/
def execStrm (a b : BitVec 4) (s : State) : Host.Outcome State Fault Refusal := .next (bindStream 0 a b s)
/-- STRMX (R387). -/
def execStrmx (a b : BitVec 4) (s : State) : Host.Outcome State Fault Refusal := .next (bindStream 1 a b s)
/-- STRMS (R387). -/
def execStrms (a b : BitVec 4) (s : State) : Host.Outcome State Fault Refusal := .next (bindStream 2 a b s)
/-- STRMA (R387). -/
def execStrma (a b : BitVec 4) (s : State) : Host.Outcome State Fault Refusal := .next (bindStream 3 a b s)

/-- SCLOSE (R159, R387): a closing stream is waited for; a tile that no stream binds is left alone. -/
def execSclose (a : BitVec 4) (s : State) : Host.Outcome State Fault Refusal :=
  .next (issue s 1 [a] fun s =>
    let closing : Bool := !ownBinds s && match boundTo s s.cur.1 s.cur.2 a with
      | some p => p.2.st == .closing
      | none => false
    if closing || heldBind s a then stallStream s [a]
    else
      let s := effect s [] (bytesOf 1 a.toNat) true (.sclose a)
      finish (s.updMe fun x => { x with binds := x.binds.filter fun t => t != a }))

/-- Engine-context state as SSTAT gives it (R388). -/
def ectxCode (e : EctxSt) : BitVec 3 := match e with
  | .resident => 1
  | .draining _ => 2
  | .parking => 3
  | .parked => 4
  | .restoring => 5

/-- The state of the stream that binds a tile (R388). -/
def sstatWord (s : State) (b : TReg) : Word64 :=
  match boundTo s s.cur.1 s.cur.2 b with
  | none => 0
  | some (e, r) =>
    let st : BitVec 2 := match r.st with
      | .open_ => 1
      | .faulted => 2
      | .closing => 3
    BitVec.ofNat 24 (Nat.min r.moved 0xFFFFFF) ++ BitVec.ofNat 24 (if r.st = .faulted then Nat.min r.faultTile 0xFFFFFF else 0)
      ++ BitVec.ofNat 4 r.queue.length ++ ectxCode e.st ++ (0 : BitVec 1) ++ r.kind ++ (0 : BitVec 4) ++ st

/-- An instruction that puts a value from outside the slot in a tile that no stream may bind (R387, R398). -/
def issueUnbound (s : State) (a : TReg) (v : Tile) : State :=
  if !ownBinds s && (boundTo s s.cur.1 s.cur.2 a).isSome then
    issue s 1 [a] fun s =>
      let closing : Bool := match boundTo s s.cur.1 s.cur.2 a with
        | some p => p.2.st == .closing
        | none => false
      if closing then stallStream s [a] else streamTrap s none a
  else if s.me.binds.contains a then issue s 1 [a] fun s => streamTrap s none a
  else issueOutside s a v

/-- SSTAT (R387, R388): it pops and pushes nothing. -/
def execSstat (a b : BitVec 4) (s : State) : Host.Outcome State Fault Refusal :=
  .next (if heldBind s b then issue s 1 [a] fun s => stall s .pair
    else issueUnbound s a (uwordTile (sstatWord s b) false))

end Sys2Proof.Machine
end

