-- ==== Sys2Proof/Machine/Matrix.lean ====
section
/-! DEFINITION. Matrix instructions (15 R398 to R405, 06 R173 to R179): the slot's side. -/

namespace Sys2Proof.Machine

/-- An accumulator of a cluster. -/
def Cluster.acc (k : Cluster) (n : BitVec 3) : Acc := k.accs[n.toNat]'(by have := n.isLt; omega)
/-- An accumulator changed. -/
def Cluster.setAcc (k : Cluster) (n : BitVec 3) (x : Acc) : Cluster :=
  { k with accs := k.accs.set n.toNat x (by have := n.isLt; omega) }

/-- The class of an operand format (R174): 0 integer of 8 bits, 1 float of 8 bits (X19 is a decoded code8), 2 float of
16 bits. -/
def postClass (f : Fmt) : Option Nat :=
  match f with
  | .int8 | .uint8 => some 0
  | .e4m3 | .e5m2 | .code8 | .x19 => some 1
  | .fp16 | .bf16 => some 2
  | _ => none
/-- K of a post (R174). -/
def postK (cls : Nat) (sp : BitVec 2) : Nat := if sp = 0 then (if cls = 2 then 4 else 8) else 12
/-- Kept elements in a row of a sparse A (R175). -/
def keptOf (sp : BitVec 2) : Nat := if sp = 1 then 6 else 3

/-- Tiles of a group. -/
def groupTiles (x : AluIn) (a : TReg) (n : Nat) : List Tile := (List.range n).map fun i => x.tile (a + BitVec.ofNat 4 i)
/-- Numbers of a group's tiles. -/
def groupNames (a : TReg) (n : Nat) : List TReg := (List.range n).map fun i => a + BitVec.ofNat 4 i
/-- The format that every tile of a group has (R174). -/
def groupFmt (l : List Tile) : Option Fmt := match l with
  | t :: r => if r.all fun u => u.fmt == t.fmt then some t.fmt else none
  | [] => none

/-- A group's elements in the order of its concatenated storage, with ragged elements and bytes beyond a shape zero,
and code8 decoded to X19 (R174, R400). -/
def groupElems (c : Code8) (l : List Tile) : List Nat :=
  l.flatMap fun t => (List.range (512 / fmtBits t.fmt)).map fun e =>
    if e < t.count && t.validE e then (if t.fmt = .code8 then code8Entry c (t.raw e) else t.raw e) else 0
/-- The format as the island sees it. -/
def sentFmt (f : Fmt) : Fmt := if f = .code8 then .x19 else f

/-- A captured post (R400), or SHAPE (R174): b is none for POSTH. -/
def capture (s : State) (x : AluIn) (a : TReg) (b : Option TReg) (c : BitVec 3) (sp : BitVec 2) (tr zf : Bool) :
    Check IslandOp := do
  let acc := (s.cluster (clusterOf (homeCore s))).acc c
  needs .perm (acc.owner == some s.myCtx.job)
  let ta := groupTiles x a 4
  let tv := if sp = 0 then ta else ta.take 3
  let tb := match b with
    | some b => groupTiles x b (if sp = 0 || sp = 3 then 4 else 6)
    | none => []
  match groupFmt tv with
  | none => .error (.shape, none)
  | some af =>
    match postClass af with
    | none => .error (.shape, none)
    | some cls =>
      needs .shape (sp != 3 && !(tr && sp != 0) && af != .x19 && (sp == 0 || cls != 2) && (acc.fp32 == (cls != 0)))
      let maps ← if sp = 0 then .ok [] else
        match ta[3]? with
        | some t => if t.fmt = .uint16 ∧ t.rows = 1 ∧ t.cols = 32 then
            .ok ((List.range 32).map fun e => if t.validE e then t.raw e else 0) else .error (.shape, none)
        | none => .error (.shape, none)
      let bv ← match b with
        | none => .ok none
        | some _ => match groupFmt tb with
          | none => .error (.shape, none)
          | some bf => if postClass bf = some cls ∧ bf ≠ .x19 then .ok (some (groupElems x.code8 tb, sentFmt bf)) else .error (.shape, none)
      let names := groupNames a 4 ++ (match b with
        | some b => groupNames b tb.length
        | none => [])
      needs .stream (!names.any fun t => s.me.binds.contains t)
      .ok (.post (groupElems x.code8 tv) (sentFmt af) maps bv sp tr zf ((ta ++ tb).any (·.tag)))

/-- A matrix entry of the running slot, numbered. -/
def entryFor (s : State) (c : BitVec 3) (op : IslandOp) : IslandEntry :=
  { id := s.nextId, acc := c, op := op, core := s.cur.1, slot := s.cur.2, uid := s.me.uid, ctx := s.me.ctx, job := s.myCtx.job, evs := [], lost := false,
    stepped := s.me.stepping.isSome }

/-- Is an entry one of the 16 of R178? -/
def IslandEntry.counts (e : IslandEntry) : Bool := match e.op with
  | .config _ => false
  | .answered _ => false
  | _ => true
/-- A full island queue stalls before issue (R178, R398). -/
def islandFull (s : State) : Option Wait :=
  if !s.me.trailing && decide (Config.islandQueue ≤ ((s.cluster (clusterOf s.cur.1)).island.filter IslandEntry.counts).length)
  then some .island else none

/-- The bytes that a post's signature covers (R278). -/
def postBytes (op : IslandOp) : List Byte := match op with
  | .post a _ maps b _ _ _ _ => (a ++ maps ++ ((b.map (·.1)).getD [])).flatMap (bytesOf 4)
  | _ => []

/-- POST (R400): c is the accumulator, n the sparsity, m the class mask. -/
def execPost (a b : BitVec 4) (c : BitVec 3) (n : BitVec 2) (m : BitVec 4) (t z : BitVec 1) (s : State) :
    Host.Outcome State Fault Refusal :=
  .next (issueRead s a (groupNames a 4 ++ groupNames b (if n = 0 || n = 3 then 4 else 6)) [] 1 islandFull
    (fun s x => capture s x a (some b) c n (t == 1) (z == 1)) noWait
    fun s op => finish (effect { s with nextId := s.nextId + 1 } (bytesOf 1 c.toNat) (postBytes op) true (.matrix (entryFor s c op) m)))

/-- POSTH (R400). -/
def execPosth (a : BitVec 4) (c : BitVec 3) (n : BitVec 2) (m : BitVec 4) (t z : BitVec 1) (s : State) :
    Host.Outcome State Fault Refusal :=
  .next (issueRead s a (groupNames a 4) [] 1 islandFull
    (fun s x => capture s x a none c n (t == 1) (z == 1)) noWait
    fun s op => finish (effect { s with nextId := s.nextId + 1 } (bytesOf 1 c.toNat) (postBytes op) true (.matrix (entryFor s c op) m)))

/-- Does a leader hold matrix entries unperformed (R405)? -/
def heldMatrix (s : State) : Bool := match leadPair s with
  | some p => p.buf.any fun e => match e.2.1 with
    | .matrix _ _ => true
    | _ => false
  | none => false

/-- ACCRD (R401): n is the number of tiles less one. The data come later (R325). -/
def execAccrd (a b : BitVec 4) (c : BitVec 3) (n : BitVec 2) (s : State) : Host.Outcome State Fault Refusal :=
  .next (
    let dst := groupNames a (n.toNat + 1)
    issueRead s a [b] dst (n.toNat + 1)
      (fun s => if heldMatrix s then some .pair else islandFull s)
      (fun s x => do
        needs .perm (((s.cluster (clusterOf (homeCore s))).acc c).owner == some s.myCtx.job)
        let p ← controlOf (x.tile b)
        let row0 := (p.extractLsb' 8 5).toNat
        needs .shape (p.extractLsb' 13 51 == 0 && p.extractLsb' 5 3 == 0 && p.extractLsb' 0 4 == 0 && decide (row0 + n.toNat ≤ 31))
        needs .stream (!dst.any fun t => isBound s t)
        .ok (IslandOp.accrd row0 (p.getLsbD 4) a n (x.tile b).tag))
      noWait
      fun s op =>
        let given := dst.filterMap fun t => (suppliedTile s t).map fun v => (t, v)
        -- the first tile of a trailing slot is the one that R276 inverts
        let put (s : State) : State := s.updMe fun x => given.zipIdx.foldl (fun x p => x.setTile p.1.1 (if p.2 = 0 then flipTile s p.1.2 else p.1.2)) x
        if s.me.trailing && decide (given.length < dst.length) then stall s .leader
        else if given.length = dst.length then
          let s' := if s.me.trailing then s else given.foldl (fun s p => sendValue s s.cur.1 s.cur.2 s.me.icount p.1 p.2 1) s
          finish (put s')
        else
          let e := entryFor s c op
          let s := put (performEff { s with nextId := s.nextId + 1 } s.cur.1 s.cur.2 s.me.icount (.matrix e 0))
          let owed := dst.filter fun t => t != 0 && !given.any fun p => p.1 == t
          let s := s.updMe fun x => { x with pend := x.pend ++ owed.map fun t =>
            ({ tile := t, evs := [e.id], sent := true, tag := false, keep := false, push := false, n := x.icount } : Pend) }
          finish s)

/-- ACCZ (R402). -/
def execAccz (c : BitVec 3) (s : State) : Host.Outcome State Fault Refusal :=
  .next (issueRead s 0 [] [] 1 islandFull
    (fun s _ => needs .perm (((s.cluster (clusterOf (homeCore s))).acc c).owner == some s.myCtx.job)) noWait
    fun s _ => finish (effect { s with nextId := s.nextId + 1 } (bytesOf 1 c.toNat) [] true (.matrix (entryFor s c .accz) 0)))

/-- ACCCFG (R403): the slot waits for the island's answer; a trailing slot for the leader's (R405). -/
def execAcccfg (c : BitVec 3) (v : BitVec 2) (s : State) : Host.Outcome State Fault Refusal :=
  let ask (s : State) : State :=
    stall (effect { s with nextId := s.nextId + 1 } (bytesOf 1 c.toNat) (bytesOf 1 v.toNat) true (.matrix (entryFor s c (.config v)) 0))
      (.accCfg none)
  .next (match s.me.st with
    | .stalled (.accCfg (some perm)) => if perm then trapHere s .perm 0 else finish s
    | .stalled (.accCfg none) =>
      match trailPair s with
      | none => s
      | some p => issue s 1 [] fun s => if s.me.icount < (s.slot p.core p.slot).icount then finish s else stall s (.accCfg none)
    | _ => issue s 1 [] ask)

/-- Entries of the island queue for an accumulator that are not yet performed. -/
def pendingFor (k : Cluster) (c : BitVec 3) : Nat := (k.island.filter fun e => e.acc == c && e.counts).length

/-- The snapshot of OPAQ (R404). -/
def opaqWord (s : State) (c : BitVec 3) : Word64 :=
  let k := s.cluster (clusterOf s.cur.1)
  let x := k.acc c
  let own := x.owner == some s.myCtx.job
  let queue := BitVec.ofNat 8 (k.island.filter IslandEntry.counts).length
  let held : Nat := match x.heldB with
    | some (_, _, n, _) => n
    | none => 0
  let st : BitVec 2 := if x.owner.isSome then 1 else 0
  (0 : BitVec 24) ++ queue ++ (if own then BitVec.ofNat 8 (pendingFor k c) else 0) ++ (0 : BitVec 4)
    ++ (if own then BitVec.ofNat 4 held else 0) ++ (0 : BitVec 8) ++ BitVec.ofBool (own && x.tag) ++ BitVec.ofBool own ++ (0 : BitVec 2)
    ++ (if own && x.fp32 then (1 : BitVec 2) else 0) ++ st

/-- OPAQ (R404). -/
def execOpaq (a : BitVec 4) (c : BitVec 3) (s : State) : Host.Outcome State Fault Refusal :=
  .next (issueUnbound s a (uwordTile (opaqWord s c) false))

end Sys2Proof.Machine
end

