-- ==== Sys2Proof/Machine/Registers.lean ====
section
/-! DEFINITION. Device registers as SYSTEM memory shows them to firmware (05 R143): power status (01 R20), the status, key and capture registers
of a port (02 R38, R44, R48), health of a cluster (10 R287). -/

namespace Sys2Proof.Machine

/-- The power status register (R20). -/
def powerStatus (s : State) : BitVec 32 :=
  (0 : BitVec 8) ++ s.power.supply ++ s.power.stretch ++ (0 : BitVec 5) ++ BitVec.ofBool s.power.quarter ++ BitVec.ofBool s.power.warnSeen
    ++ BitVec.ofBool s.power.warn
/-- The status register of a port (R48). -/
def portStatus (p : Port) : Word64 :=
  p.partner ++ p.partnerPort ++ (0 : BitVec 4) ++ BitVec.ofNat 8 (Nat.min 255 p.retrains) ++ BitVec.ofNat 16 (Nat.min 0xFFFF p.replays) ++ (0 : BitVec 4)
    ++ p.lanes ++ BitVec.ofBool p.far ++ BitVec.ofBool p.secEvent ++ (0 : BitVec 2) ++ p.st
/-- The health register of a cluster (R287). -/
def clusterHealth (q : Cluster) : Word64 :=
  BitVec.ofNat 16 (Nat.min 0xFFFF q.ue) ++ BitVec.ofNat 16 (Nat.min 0xFFFF q.residue) ++ BitVec.ofNat 16 (Nat.min 0xFFFF q.corrected)
    ++ BitVec.ofNat 8 (Nat.min 255 q.route) ++ (0 : BitVec 6) ++ BitVec.ofBool q.bistFail ++ BitVec.ofBool q.retired

/-- A port. -/
def portAt (s : State) (p : Nat) : Port := (s.lam.ports[p]?).getD Port.reset
/-- A port changed. -/
def updPort (s : State) (p : Nat) (f : Port → Port) : State :=
  if h : p < 12 then { s with lam := { s.lam with ports := s.lam.ports.set p (f (s.lam.ports[p]'h)) } } else s

/-- Number of a link key register: direction, channel, epoch (R44). -/
def keyNo (dir : Bool) (vc : BitVec 2) (epoch : BitVec 1) : Nat := dir.toNat * 8 + vc.toNat * 2 + epoch.toNat
/-- A key register takes its key, and its packet count starts at 0 (R44). -/
def Port.takeKey (x : Port) (n : Nat) (key : List Byte) : Port := { x with keys := x.keys.put n key, counts := x.counts.put n 0 }

/-- Power status written (R3, R20): warn_seen falls where a one is written. -/
def writePower (s : State) (v : Nat) : State := if v.testBit 1 then { s with power := { s.power with warnSeen := false } } else s
/-- A port's status written (R3, R48): sec_event falls where a one is written. -/
def writePort (s : State) (p v : Nat) : State := if v.testBit 6 then updPort s p fun x => { x with secEvent := false } else s
/-- A health register written (R3, R287): bits of the counts fall where a one is written. -/
def writeHealth (s : State) (k : ClusterId) (v : Nat) : State :=
  let off (n lo w : Nat) : Nat := n - (n &&& bitsOf v (lo + w - 1) lo)
  s.updCluster k fun q => { q with ue := off q.ue 48 16, residue := off q.residue 32 16, corrected := off q.corrected 16 16, route := off q.route 8 8 }

/-- Length of a register in bytes. -/
def regLen : Config.Reg → Nat
  | .power => 4
  | .port _ => 8
  | .health _ => 8
  | .key _ _ => 32
  | .captured _ => 16
/-- What a read of a register gives; a key register is write-only (R3, R44). -/
def regValue (s : State) : Config.Reg → List Byte
  | .power => bytesOf 4 (powerStatus s).toNat
  | .port p => bytesOf 8 (portStatus (portAt s p)).toNat
  | .health k => bytesOf 8 (clusterHealth (s.cluster (BitVec.ofNat 12 k))).toNat
  | .key _ _ => List.replicate 32 0
  | .captured p => (portAt s p).captured
/-- Every device register but FROST_CONTROL. -/
def regNames : List Config.Reg :=
  .power :: ((List.range 12).flatMap fun p => .port p :: .captured p :: (List.range 16).map fun n => .key p n) ++ (List.range 4096).map fun k => .health k
/-- The register at a physical address, and which byte of it. -/
def regAt (k : Nat) : Option (Config.Reg × Nat) :=
  (regNames.find? fun r => decide (Config.regAddr r ≤ k ∧ k < Config.regAddr r + regLen r)).map fun r => (r, k - Config.regAddr r)

/-- Values read from device addresses (R143): FROST_CONTROL reads as zero (R3, R415), a register gives its bytes, and where the spec names no register
the value is open (log 20). -/
def deviceRead (s : State) (k : Nat) (n : Nat) : List Byte × State :=
  let byte (i : Nat) : Byte :=
    if Config.frostControl ≤ k + i ∧ k + i < Config.frostControl + 8 then 0
    else match regAt (k + i) with
      | some r => (regValue s r.1).getD r.2 0
      | none => (Config.freeWord (s.freeCnt + i)).setWidth 8
  ((List.range n).map byte, { s with freeCnt := s.freeCnt + n })

/-- One register written at some of its bytes: a byte that is not written counts as zeros for RW1C bits, and stays in a key. -/
def regWrite (s : State) (r : Config.Reg) (l : List (Nat × Byte)) : State :=
  let v := natOf ((List.range (regLen r)).map fun i => ((l.find? fun p => p.1 == i).map (·.2)).getD 0)
  match r with
  | .power => writePower s v
  | .port p => writePort s p v
  | .health k => writeHealth s (BitVec.ofNat 12 k) v
  | .key p n => updPort s p fun x => x.takeKey n ((List.range 32).map fun i =>
      ((l.find? fun q => q.1 == i).map (·.2)).getD (((x.keys.look n).getD []).getD i 0))
  | .captured _ => s
/-- A store to device addresses (R3, R143): none where a byte lies in no register (log 20). -/
def deviceWrite (s : State) (l : List (Nat × Byte)) : Option State :=
  if l.any fun p => (regAt p.1).isNone then none
  else
    let at_ := l.filterMap fun p => (regAt p.1).map fun r => (r.1, r.2, p.2)
    some (((at_.map (·.1)).eraseDups).foldl (fun s r => regWrite s r ((at_.filter fun q => q.1 == r).map (·.2))) s)

end Sys2Proof.Machine
end

