-- ==== Sys2Proof/Machine/MemEvents.lean ====
section
/-! DEFINITION. Memory events at their points of coherence (08 R213, 06 R168 to R172, 14 R381, R382), data that return
to tiles (12 R325, 09 R255). -/

namespace Sys2Proof.Machine

/-- The cluster of a vault key. -/
def vaultCluster (k : Nat) : ClusterId := BitVec.ofNat 12 ((k - vaultBase) / Config.sliceBytes)
/-- The bank of a vault key, over all clusters (R138). -/
def vaultBank (k : Nat) : Nat := (k - vaultBase) / Config.sliceBytes * 64 + (k - vaultBase) % Config.sliceBytes / 64 % 64
/-- Is a key a device register's (R143)? -/
def isDevice (k : Nat) : Bool := decide (Config.deviceBase ≤ k ∧ k < vaultBase)
/-- A saturating 16-bit count. -/
def count16 (n : Nat) : Nat := Nat.min n 0xFFFF

/-- An uncorrectable error met in a unit is counted (R266, R287, R12): a vault's in its cluster, an HBM codeword in its stack and in the cluster
whose access was given the tag (log 55). -/
def countUe (s : State) (k : Nat) (by_ : Option ClusterId) : State :=
  let up (s : State) (c : ClusterId) : State := s.updCluster c fun q => { q with ue := count16 (q.ue + 1), wear := q.wear.fault s.now.toNat 1 }
  if k < vaultBase then
    let s := { s with hbm := { s.hbm with uncorrected := s.hbm.uncorrected.put (hbmStack k) ((s.hbm.uncorrected.look (hbmStack k)).getD 0 + 1) } }
    match by_ with
    | some c => up s c
    | none => s
  else up s (vaultCluster k)

/-- A corrected error is counted (R12, R287): a vault's in its cluster, an HBM codeword in its stack. -/
def countFixed (s : State) (k : Nat) : State :=
  if k < vaultBase then
    { s with hbm := { s.hbm with corrected := s.hbm.corrected.put (hbmStack k) ((s.hbm.corrected.look (hbmStack k)).getD 0 + 1) } }
  else s.updCluster (vaultCluster k) fun q => { q with corrected := count16 (q.corrected + 1), wear := q.wear.fix s.now.toNat }
/-- Errors met in reading units are counted (R266, log 56). -/
def noteEcc (s : State) (keys : List Nat) (by_ : Option ClusterId) : State :=
  let k := keys.headD 0
  let s := if badAt s keys then countUe s k by_ else s
  if softAt s keys then countFixed s k else s

/-- Stores of a leader still held, which lie over what it reads (R278). -/
def heldBytes (s : State) (e : MemEv) : List (Nat × Byte) :=
  s.pairs.flatMap fun p => if e.owner = .slot p.core p.slot p.uid then
    p.buf.flatMap fun b => match b.2.1 with
      | .events l => l.flatMap fun w => match w.kind with
        | .write bs => if w.key = e.key ∧ w.id < e.id then bs else []
        | _ => []
      | _ => []
  else []

/-- A byte as a read event takes it. -/
def readByte (s : State) (held : List (Nat × Byte)) (e : MemEv) (b : Nat) : Byte :=
  match (held.filter fun p => p.1 == b).getLast? with
  | some p => p.2
  | none => s.byteAt (e.key + b)

/-- An event leaves the list of those still to be performed, and output that waited for it may go (R221). -/
def performed (s : State) (id : Nat) : State := flushAll { s with memq := s.memq.filter fun e => e.id != id }

/-- FROST_CONTROL: what a store to the Frost control register does (R415). -/
def frostStore (s : State) (v : Word64) (c : CoreId) (i : BitVec 2) : State :=
  let j : JobId := v.extractLsb' 32 16
  let known := ((s.job j).map fun x => !x.region.isEmpty).getD false
  if !known then s
  else if v.extractLsb' 0 3 = 4 then firmwareFrost s j 4 0 c i
  else if v.extractLsb' 0 3 = 5 then firmwareFrost s j 5 (v.extractLsb' 8 8) c i
  else s

/-- May an event be performed now: has every event before it been (R214)? A read follows the stores of its own handler to its bytes that a pair's
buffer has let go since (R215, R278). -/
def ready (s : State) (e : MemEv) : Bool :=
  !e.after.any (outstanding s)
    && (e.writes || !s.memq.any fun x => x.owner == e.owner && decide (x.id < e.id) && x.writes && !x.dropped && x.overlaps e)

/-- An operation's element address (R169). -/
def MemEv.element (e : MemEv) : Nat := match e.kind with
  | .atom off _ => e.key + off
  | _ => e.key
/-- An operation's fields, if the event is one. -/
def MemEv.op (e : MemEv) : Option AtomOp := match e.kind with
  | .atom _ op => some op
  | _ => none

/-- Operations accepted at a vault bank and not yet applied. -/
def atBank (s : State) (bank : Nat) : List MemEv :=
  s.memq.filter fun e => e.arrived.isSome && decide (vaultBase ≤ e.key) && vaultBank e.key == bank

/-- May a Sorrel accept an operation (R169, R170)? One slot's operations come in issue order; a new token needs a free
place, and a .ORD operation waits for one too. -/
def sorrelAccepts (s : State) (e : MemEv) : Bool :=
  let here := atBank s (vaultBank e.key)
  let tokens := (here.map MemEv.element).eraseDups
  let first := s.memq.all fun x => !(x.owner == e.owner && x.id < e.id && x.op.isSome && x.arrived.isNone && vaultBase ≤ x.key && vaultBank x.key == vaultBank e.key)
  let ord := (e.op.map (·.ord)).getD false
  first && (decide (tokens.length < Config.sorrelTokens) || (!ord && tokens.contains e.element))

/-- An operation accepted: its place in the order of arrival (R170). -/
def arrive (s : State) (e : MemEv) : State :=
  { s with nextId := s.nextId + 1, memq := s.memq.map fun x => if x.id = e.id then { x with arrived := some s.nextId } else x }

/-- Reads at their point of coherence: the data go back (R213, R266). -/
def performRead (s : State) (e : MemEv) : State :=
  let held := heldBytes s e
  let keys := e.bytes.map fun b => e.key + b
  let bad := badAt s keys
  let (data, s) := if isDevice e.key then deviceRead s (e.key + (e.bytes.headD 0)) e.bytes.length else (e.bytes.map fun b => readByte s held e b, s)
  let place (p : Nat × Nat) : Nat × Byte := (p.2, ((e.bytes.zip data).find? fun q => q.1 == p.1).elim 0 (·.2))
  let r : Ret := { id := e.id, owner := e.owner, dst := e.dst, bytes := e.map.map place, tag := bad, shape := none }
  let s := activate (noteEcc s keys e.owner.cluster) e.key
  performed { s with rets := s.rets ++ [r] } e.id

/-- Writes at their point of coherence: the bytes are stored, and units written whole are sound again (R266). -/
def performWrite (s : State) (e : MemEv) (bs : List (Nat × Byte)) : State :=
  let s := activate s e.key
  let keys := bs.map fun p => e.key + p.1
  performed { s with
    mem := bs.foldl (fun m p => memWrite m (e.key + p.1) p.2) s.mem
    hbm := freshUnits s.hbm keys fun u => e.clears.contains u || (wholeUnits keys).contains u } e.id

/-- A write to device addresses (R143): its registers take it; where the spec names no register it is the fault noRegister (log 20). -/
def storeRegister (s : State) (e : MemEv) (bs : List (Nat × Byte)) : Host.Outcome State Fault Refusal :=
  match deviceWrite s (bs.map fun p => (e.key + p.1, p.2)) with
  | some t => .next (performed t e.id)
  | none => .fault .noRegister

/-- MEMORY_EVENT_PERFORM (R213): a read or write, or an operation's arrival at its Sorrel or atomic unit (log 10). -/
def execMemoryEventPerform (id : Nat) (s : State) : Host.Outcome State Fault Refusal :=
  match s.memq.find? fun e => e.id == id with
  | none => .next s
  | some e =>
    if !ready s e then .next s
    else
      match e.kind with
      | .read => .next (performRead s e)
      | .write bs =>
        if isDevice e.key then
          match e.owner with
          | .slot c i _ =>
            if e.key = Config.frostControl ∧ bs.map (·.1) = [0, 1, 2, 3, 4, 5, 6, 7] then
              .next (frostStore (performed s id) (BitVec.ofNat 64 (natOf (bs.map (·.2)))) c i)
            else storeRegister s e bs
          | _ => storeRegister s e bs
        else .next (performWrite s e bs)
      | .atom _ _ =>
        if e.arrived.isSome then .next s
        else if isDevice e.key then .fault .noRegister
        else if e.key < vaultBase ∨ sorrelAccepts s e then .next (arrive s e) else .next s

/-- f of R381 on n-bit values. -/
def atomResult (fn : BitVec 5) (n : Nat) (signed : Bool) (old v a : Nat) : Nat :=
  let lt (x y : Nat) : Bool := decide (signedOf n x < signedOf n y)
  match fn.toNat with
  | 0x00 => (old + v) % 2 ^ n
  | 0x01 => if lt v old then v else old
  | 0x02 => if lt old v then v else old
  | 0x03 => Nat.min old v
  | 0x04 => Nat.max old v
  | 0x05 => old &&& v
  | 0x06 => old ||| v
  | 0x07 => old ^^^ v
  | 0x08 => v
  | 0x09 => if old = a then v else old
  | 0x0A => if (if signed then lt old v else decide (old < v)) then (old + 1) % 2 ^ n else old
  | 0x0B => roundFloat fp32Spec .rne (addVal .rne (valFloat fp32Spec old) (valFloat fp32Spec v))
  | _ => old

/-- The UE event of an operation, to the context that issued it (R172, R382); a REMOTE operation's is told by its reply (R42, log 54). -/
def atomUe (s : State) (e : MemEv) : State :=
  let ev (s : State) (c : CoreId) (i : BitVec 2) (tile : TReg) : State :=
    sendFault s c e.job .ue { source := 2, slot := i, tile := tile, row := 0, acc := 0, sub := 0x08, count := 0 } e.va
  match e.owner with
  | .slot c i _ => ev s c i 0
  | .stream k uid =>
    match (s.cluster k).ectxs.find? fun x => x.streams.any fun r => r.uid == uid with
    | some x => match x.streams.find? fun r => r.uid == uid with
      | some r => ev s x.core r.slot r.tile
      | none => s
    | none => s
  | _ => s

/-- One operation applied to its element, its old value returned if wanted (R381, R172). -/
def applyOp (s : State) (e : MemEv) : State :=
  match e.op with
  | none => s
  | some op =>
    let a := e.element
    let n := op.size / 8
    let bytes := memBytes s.mem a n
    let old := natOf bytes
    let keys := (List.range n).map (a + ·)
    let bad := badAt s keys
    let s := noteEcc s keys e.owner.cluster
    let s := activate (if bad then atomUe s e else s) a
    let s := if bad || op.tag then s
      else { s with
        mem := memStore s.mem a (bytesOf n (atomResult op.fn op.size op.signed old op.v op.a))
        hbm := freshUnits s.hbm keys fun _ => false }
    let place (p : Nat × Nat) : Nat × Byte := (p.2, bytes.getD (p.1 - (a - e.key)) 0)
    let r : Ret := { id := e.id, owner := e.owner, dst := e.dst, bytes := e.map.map place, tag := bad || op.tag, shape := none }
    performed { s with rets := if op.wants then s.rets ++ [r] else s.rets } e.id

/-- Place of arrival of an operation. -/
def MemEv.place (e : MemEv) : Nat := e.arrived.getD 0

/-- May a Sorrel apply an operation now (R170): the first of its token, behind no .ORD operation, and itself behind
everything if it is one? -/
def sorrelNext (s : State) (e : MemEv) : Bool :=
  let earlier := (atBank s (vaultBank e.key)).filter fun x => x.place < e.place
  let ord (x : MemEv) : Bool := (x.op.map (·.ord)).getD false
  if ord e then earlier.isEmpty else earlier.all fun x => !ord x && x.element != e.element

/-- May two operations be merged (R171)? -/
def mergeable (x y : MemEv) : Bool :=
  match x.op, y.op with
  | some a, some b => a.fn == b.fn && decide (a.fn.toNat ≤ 7) && a.size == b.size && !a.wants && !b.wants && !a.ord && !b.ord
      && !a.tag && !b.tag && x.element == y.element
  | _, _ => false

/-- SORREL_APPLY (R170 to R172): the operation, with those of its token that directly follow it and merge with it. A
merged group stands as its operations one after another (R230). -/
def execSorrelApply (id : Nat) (merged : List Nat) (s : State) : Host.Outcome State Fault Refusal :=
  .next (match s.memq.find? fun e => e.id == id with
    | none => s
    | some e =>
      if e.arrived.isNone || e.op.isNone || e.key < vaultBase || !sorrelNext s e then s
      else
        let token := ((atBank s (vaultBank e.key)).filter fun x => x.element == e.element && e.place < x.place)
        let sorted := token.mergeSort fun x y => x.place ≤ y.place
        let follow := sorted.take merged.length
        -- an operation that a .ORD operation arrived before waits for it (R170)
        let free (f : MemEv) : Bool := !(atBank s (vaultBank e.key)).any fun x => ((x.op.map (·.ord)).getD false) && decide (x.place < f.place)
        if follow.map (·.id) = merged && follow.all (mergeable e) && follow.all free then (e :: follow).foldl applyOp s else applyOp s e)

/-- HBM_ATOMIC_APPLY (R382): arrival order at the atomic unit of its controller, never merged. -/
def execHbmAtomicApply (id : Nat) (s : State) : Host.Outcome State Fault Refusal :=
  .next (match s.memq.find? fun e => e.id == id with
    | none => s
    | some e =>
      let before := s.memq.any fun x => x.arrived.isSome && x.key < vaultBase && hbmStack x.key == hbmStack e.key && x.place < e.place
      if e.arrived.isNone || e.op.isNone || vaultBase ≤ e.key || before then s else applyOp s e)

/-- Bytes that returned written to a tile: an ACCRD's take its shape (R401). -/
def writeRet (t : Tile) (r : Ret) : Tile :=
  let t := match r.shape with
    | some f => { Tile.zero with fmt := f, cols := 16, vcols := 16, tag := t.tag }
    | none => t
  r.bytes.foldl (fun t p => t.setByte p.1 p.2) t

/-- Data reach the tile of slot i that waits for them (R325, R269); a return nobody waits for is dropped. -/
def deliverRet (s : State) (c : CoreId) (i : BitVec 2) (r : Ret) : State :=
  let s := { s with rets := s.rets.filter fun x => x != r }
  match (s.slot c i).pend.find? fun p => p.tile == r.dst && p.evs.contains r.id with
  | none => s
  | some p =>
    let s := s.updSlot c i fun x =>
      let t := writeRet (x.tileRaw r.dst) r
      let y := x.setTile r.dst (if r.tag && x.st == .trapped && !p.sent then { t with tag := true } else t)
      { y with pend := y.pend.map fun q => if q = p then { q with evs := q.evs.filter (· != r.id), tag := q.tag || r.tag } else q }
    let s := { s with pairs := s.pairs.map fun q =>
      if q.core == c && q.slot == i && r.owner == .slot c i q.uid then { q with oldVals := q.oldVals ++ [(p.n, r.dst, r.bytes, r.tag)] } else q }
    settleDone (trySettle s c i p.n r.dst) c i

/-- Is a return kept for FMTTAB, which takes its image whole? -/
def keptFor (x : Slot) (id : Nat) : Bool :=
  match x.st with
  | .stalled (.memory l) => l.contains id
  | .frozen (some (.memory l)) _ => l.contains id
  | _ => false

/-- Is a return for the instruction that a single step of the slot issued, which has it as in running (R257)? -/
def ownStepData (x : Slot) (id : Nat) : Bool :=
  match x.stepping with
  | some n => x.pend.any fun p => p.n == n && p.evs.contains id
  | none => false

/-- LOAD_DATA_RETURN (R325): data to their tile; those of a frozen job are held until its resume (R255). -/
def execLoadDataReturn (id : Nat) (s : State) : Host.Outcome State Fault Refusal :=
  .next (match s.rets.find? fun r => r.id == id with
    | none => s
    | some r =>
      match r.owner with
      | .slot c i uid =>
        let x := s.slot c i
        if x.uid ≠ uid ∨ x.st = .free then { s with rets := s.rets.filter fun y => y != r }
        else if keptFor x id then s
        else if ownStepData x id then deliverRet s c i r
        else if frozenAt s c (((s.ctxAt c x.ctx).map (·.job)).getD 0) then
          if (s.core c).replies.any fun h => h.id == id && h.slot == i then s
          else s.updCore c fun k => { k with replies := k.replies ++ [{ slot := i, id := id }] }
        else deliverRet s c i r
      -- data that their engine no longer waits for
      | .stream k uid =>
        if (s.cluster k).ectxs.any fun e => e.streams.any fun x => x.uid == uid && x.flying.any fun q => q.evs.contains id then s
        else { s with rets := s.rets.filter fun y => y != r }
      | .copy k uid =>
        if (s.cluster k).copies.any fun d => d.uid == uid && d.evs.contains id then s else { s with rets := s.rets.filter fun y => y != r }
      | .gate n => if s.lam.requests.any fun q => q.id == n then s else { s with rets := s.rets.filter fun y => y != r }
      | .rdma n => if ((s.eth.qps.look n).map fun q => q.evs.contains id).getD false then s else { s with rets := s.rets.filter fun y => y != r })

/-- The held writes of a slot are made, in arrival order (R255, R260). -/
def makeHeld (s : State) (c : CoreId) (i : BitVec 2) : State :=
  let ids := ((s.core c).replies.filter fun h => h.slot == i).map (·.id)
  let s := s.updCore c fun k => { k with replies := k.replies.filter fun h => h.slot != i }
  ids.foldl (fun s id => (s.rets.filter fun r => r.id == id && (match r.owner with
    | .slot d j _ => d == c && j == i
    | _ => false)).foldl (fun s r => deliverRet s c i r) s) s

end Sys2Proof.Machine
end

