-- ==== Sys2Proof/Machine/Messages.lean ====
section
/-! DEFINITION. Messages, counters, flags, trigger words and timers (14 R389 to R396). -/

namespace Sys2Proof.Machine

/-- The fields of a route word that reach the header (R313). -/
structure Route where
  part : PartId
  core : CoreId
  sel : BitVec 12
  tag : BitVec 4
  prio : BitVec 5
  pfmt : BitVec 5
  low : BitVec 2
deriving DecidableEq, Repr

/-- A route word's fields (R313). core holds rank and core index until the injecting agent fixes them (R76). -/
def routeOf (w : Word64) : Route :=
  { part := w.extractLsb' 48 16, core := w.extractLsb' 28 20, sel := w.extractLsb' 16 12, tag := w.extractLsb' 12 4,
    prio := w.extractLsb' 7 5, pfmt := w.extractLsb' 2 5, low := w.extractLsb' 0 2 }

/-- What R390 forms: the payload, aux and the tag of what it carries. -/
structure Payload where
  bytes : List Byte
  aux : BitVec 8
  tag : Bool
deriving DecidableEq, Repr

/-- Tiles T[C] to T[C+N]; T0 is no payload (R390). -/
def payloadTiles (c : TReg) (n : BitVec 2) : List TReg :=
  if c = 0 then [] else (List.range (n.toNat + 1)).map fun i => c + BitVec.ofNat 4 i

/-- The payload of a list of tiles in a wire format, none where R390 traps SHAPE. -/
def payloadOf (x : AluIn) (c : TReg) (n : BitVec 2) (f : Fmt) : Option Payload :=
  if c = 0 then some { bytes := [], aux := 0, tag := false }
  else
    let ts := (payloadTiles c n).map x.tile
    let l := ts.flatMap fun t => t.cells.map fun e => convElem x.code8 t.fmt f .rne (t.raw e)
    let bits := l.length * fmtBits f
    let bytes := 16 * ((bits + 127) / 128)
    let cap := bytes * 8 / fmtBits f
    if 256 < bytes ∨ (l.length < cap ∧ 255 < l.length) then none
    else some { bytes := bytesOf bytes (packBits (fmtBits f) l), aux := if l.length = cap then 0 else BitVec.ofNat 8 l.length,
                tag := ts.any (·.tag) }

/-- A message of the running slot's context before the NI gives it a sequence number (R389). -/
def newMsg (s : State) (kind : BitVec 4) (r : Route) (p : Payload) (f : BitVec 5) (arg : Word64) (etag : Bool) : Msg :=
  Msg.formed {
    dstPart := r.part, dstCore := r.core, srcCore := s.cur.1, srcPart := s.part, vnet := 0, kind := kind, prio := r.prio,
    rcheck := 0, etag := etag, job := s.myCtx.job, sel := r.sel, tag := r.tag, pfmt := f, seq := 0, residue := 0,
    aux := p.aux, arg := arg, zeros := 0, retained := false, fixed := false, args := [], payload := p.bytes }

/-- An outgoing message of the running slot. -/
def outOf (s : State) (m : Msg) : OutMsg :=
  { msg := m, slot := s.cur.2, uid := s.me.uid, evs := [], posts := [], at_ := none, route := true, loop := false, asIs := false, stepped := s.me.stepping.isSome, ord := 0 }

/-- Messages of the core in compare buffers that have a place in its output buffer or, with an instant, in its timed store to come (R278). -/
def heldSends (s : State) (timed : Bool) : Nat :=
  ((s.pairs.filter fun p => p.core == s.cur.1).flatMap fun p => p.buf.filter fun e => match e.2.1 with
    | .send o _ _ => o.at_.isSome == timed
    | _ => false).length
/-- What every sending instruction waits for before issue (R389): room in the output buffer. -/
def outFull (s : State) : Option Wait :=
  if !s.me.trailing && decide (Config.outBuffer ≤ (s.core s.cur.1).out.length + heldSends s false) then some .output else none
/-- The same for SENDAT, with the timed store (R392). -/
def timedFull (s : State) : Option Wait :=
  if !s.me.trailing && decide (Config.timedStore ≤ (s.core s.cur.1).timed.length + heldSends s true) then some .output else outFull s
/-- SENDRs of the running slot's context in compare buffers, whose records are still to be written (R271, R278). -/
def heldRetains (s : State) : Nat :=
  ((s.pairs.filter fun p => p.core == s.cur.1 && p.job == s.myCtx.job).flatMap fun p => p.buf.filter fun e => match e.2.1 with
    | .send o _ _ => o.msg.retained
    | _ => false).length
/-- Reply credits that messages in compare buffers are to take (R278, R393). -/
def heldCredits (s : State) : Nat :=
  ((s.pairs.filter fun p => p.core == s.cur.1 && p.job == s.myCtx.job).flatMap fun p => p.buf.filter fun e => match e.2.1 with
    | .send o _ _ => Msg.expectsReply o.msg && !o.asIs
    | _ => false).length
/-- What a message waits for: a place in the return ring where its destination is held and the ring full (R102), the reply credit that it takes (R393),
for SENDR a retain record (R271). -/
def creditWait (s : State) (o : OutMsg) : Option Wait :=
  if s.me.trailing then none
  else if ringWaits s s.cur.1 o then some .output
  else if Msg.expectsReply o.msg && !o.asIs && decide (s.myCtx.credits ≤ heldCredits s) then some .credit
  else if o.msg.retained && decide (s.myCtx.retainQ.toNat ≤ ((s.dir s.cur.1 s.myCtx.job).map fun d => d.retained.length).getD 0 + heldRetains s)
  then some .retain
  else none

/-- A sending instruction completes: its message is an effect, signed over route word, argument and payload (R278). -/
def sendIt (s : State) (o : OutMsg) (m : BitVec 4) (v : BitVec 2) (route : Word64) : State :=
  finish (effect s (bytesOf 8 route.toNat) (bytesOf 8 o.msg.arg.toNat ++ o.msg.payload) true (.send o m v))

/-- Checks of the route word (R391 1, 2, 3, 4), the middle of check 2 in between. -/
def routeChecks {β : Type} (s : State) (t : Tile) (payload : Bool) (mid : Word64 → Check β) : Check (Word64 × β) := do
  needs .poison (!t.tag)
  let w ← wordOf t
  let v ← mid w
  needs .illegal ((routeOf w).low == 0 && !(payload && decide (16 < (routeOf w).pfmt.toNat)))
  needs .priv (s.firmware || (routeOf w).prio != 31)
  .ok (w, v)

/-- SEND and SENDR (R389 to R392): the message formed at issue. -/
def sendCheck (retained : Bool) (a b c : TReg) (n : BitVec 2) (s : State) (x : AluIn) : Check (OutMsg × Word64) := do
  let r ← routeChecks s (x.tile a) (c != 0) fun w => do
    let arg ← controlOf (x.tile b)
    match fmtOf (routeOf w).pfmt.toNat with
    | none => .ok (arg, ({ bytes := [], aux := 0, tag := false } : Payload))
    | some f =>
      match payloadOf x c n f with
      | none => .error (.shape, none)
      | some p => .ok (arg, p)
  let (w, arg, p) := r
  let m := newMsg s 0 (routeOf w) p (if c = 0 then 0 else (routeOf w).pfmt) arg ((x.tile b).tag || p.tag)
  .ok (outOf s { m with retained := retained }, w)

/-- SEND (R392). -/
def execSend (a b c : BitVec 4) (n : BitVec 2) (m : BitVec 4) (v : BitVec 2) (s : State) : Host.Outcome State Fault Refusal :=
  .next (issueRead s a ([a, b] ++ payloadTiles c n) [] 1 outFull (sendCheck false a b c n) (fun s o => creditWait s o.1)
    fun s o => sendIt s o.1 m v o.2)

/-- SENDR (R392, R271). -/
def execSendr (a b c : BitVec 4) (n : BitVec 2) (m : BitVec 4) (v : BitVec 2) (s : State) : Host.Outcome State Fault Refusal :=
  .next (issueRead s a ([a, b] ++ payloadTiles c n) [] 1 outFull (sendCheck true a b c n) (fun s o => creditWait s o.1)
    fun s o => sendIt s o.1 m v o.2)

/-- The argument and instant of SENDAT: the first two valid elements of an INT64 or UINT64 tile (R392). -/
def timedArg (t : Tile) : Check (Word64 × Word64) :=
  if t.fmt ≠ .int64 ∧ t.fmt ≠ .uint64 then .error (.shape, none)
  else
    match t.cells with
    | e :: f :: _ => .ok (BitVec.ofNat 64 (t.raw e), BitVec.ofNat 64 (t.raw f))
    | _ => .error (.shape, none)

/-- SENDAT (R392). -/
def execSendat (a b c : BitVec 4) (n : BitVec 2) (m : BitVec 4) (v : BitVec 2) (s : State) : Host.Outcome State Fault Refusal :=
  .next (issueRead s a ([a, b] ++ payloadTiles c n) [] 1 timedFull
    (fun s x => do
      let r ← routeChecks s (x.tile a) (c != 0) fun w => do
        let arg ← timedArg (x.tile b)
        match fmtOf (routeOf w).pfmt.toNat with
        | none => .ok (arg, ({ bytes := [], aux := 0, tag := false } : Payload))
        | some f =>
          match payloadOf x c n f with
          | none => .error (.shape, none)
          | some p => .ok (arg, p)
      let (w, arg, p) := r
      let m := newMsg s 0 (routeOf w) p (if c = 0 then 0 else (routeOf w).pfmt) arg.1 ((x.tile b).tag || p.tag)
      .ok ({ outOf s m with at_ := some arg.2 }, w))
    (fun s o => creditWait s o.1)
    fun s o => sendIt s o.1 m v o.2)

/-- The message that launched the running handler, if one did (R394). -/
def launchMsg (x : Slot) : Option Msg := x.launch.bind (·.msg)

/-- REPLY (R393): a handler that owes no reply, or has sent it, sends nothing. -/
def execReply (b c : BitVec 4) (n : BitVec 2) (m : BitVec 4) (v : BitVec 2) (s : State) : Host.Outcome State Fault Refusal :=
  .next (issueRead s 0 (b :: payloadTiles c n) [] 1 outFull
    (fun s x => do
      let arg ← controlOf (x.tile b)
      let f := (x.tile c).fmt
      match payloadOf x c n f with
      | none => .error (.shape, none)
      | some p =>
        match launchMsg s.me with
        | none => .ok none
        | some q =>
          if s.me.replied || !Msg.expectsReply q then .ok none
          else
            let r : Route := { part := q.srcPart, core := q.srcCore, sel := 0xFFF, tag := q.tag, prio := q.prio, pfmt := 0, low := 0 }
            let g := newMsg s 5 r p (if c = 0 then 0 else BitVec.ofNat 5 (fmtCode f)) arg ((x.tile b).tag || p.tag)
            .ok (some { outOf s (Msg.checked { g with vnet := 1, seq := q.seq, fixed := true }) with route := false, asIs := true }))
    noWait
    fun s o => match o with
      | none => finish s
      | some o => sendIt (s.updMe fun x => { x with replied := true }) o m v (flit0 o.msg |>.extractLsb' 64 64))

/-- FWD (R394): the launching message with a new route; without one, SEND without payload. -/
def execFwd (a b : BitVec 4) (m : BitVec 4) (v : BitVec 2) (s : State) : Host.Outcome State Fault Refusal :=
  .next (issueRead s a [a, b] [] 1 outFull
    (fun s x => do
      let none_ : Payload := { bytes := [], aux := 0, tag := false }
      let r ← routeChecks s (x.tile a) false fun _ => controlOf (x.tile b)
      let (w, arg) := r
      match launchMsg s.me with
      | none => .ok (outOf s (newMsg s 0 (routeOf w) none_ 0 arg (x.tile b).tag), w)
      | some q =>
        let route := { routeOf w with tag := q.tag }
        let p : Payload := { bytes := q.payload, aux := q.aux, tag := q.etag }
        .ok (outOf s (newMsg s 0 route p q.pfmt (if b = 0 then q.arg else arg) ((x.tile b).tag || q.etag)), w))
    (fun s o => creditWait s o.1)
    fun s o => sendIt s o.1 m v o.2)

/-- HDR (R394): a message from a tile; a tagged tile is a tagged route word (R391). -/
def execHdr (b : BitVec 4) (s : State) : Host.Outcome State Fault Refusal :=
  .next (if !s.firmware then trapHere s .priv 0 else
    issueRead s 0 [b] [] 1 outFull
      (fun s x => do
        let t := x.tile b
        needs .poison (!t.tag)
        let h : BitVec 256 := t.bytes.setWidth 256
        let len := (h.extractLsb' 51 5).toNat
        let p := t.byteRange 32 (16 * (len - 2))
        let m := msgOf (h.extractLsb' 0 128) (h.extractLsb' 128 128) p
        needs .shape (decide (2 ≤ len ∧ len ≤ 4) && m.zeros == 0)
        .ok { outOf s (Msg.formed m) with route := false, asIs := true })
      (fun s o => creditWait s o)
      fun s o => sendIt s o 0 0 (flit0 o.msg |>.extractLsb' 64 64))

/-- The route of CINC and FSET: T0 is the own core at priority 0; selector, tag and format are not used (R389, R395). -/
def signalOut (s : State) (kind : BitVec 4) (a : TReg) (w : Word64) (aux : BitVec 8) (arg : Word64) (tag : Bool) : OutMsg :=
  let p : Payload := { bytes := [], aux := aux, tag := false }
  if a = 0 then
    let r : Route := { part := s.part, core := s.cur.1, sel := 0, tag := 0, prio := 0, pfmt := 0, low := 0 }
    { outOf s (newMsg s kind r p 0 arg tag) with route := false, loop := true }
  else outOf s (newMsg s kind { routeOf w with sel := 0, tag := 0 } p 0 arg tag)

/-- CINC (R395). -/
def execCinc (a b c : BitVec 4) (m : BitVec 4) (v : BitVec 2) (s : State) : Host.Outcome State Fault Refusal :=
  .next (issueRead s a [a, b] [] 1 outFull
    (fun s x => do
      let amount : Check (Word64 × Bool) := do
        if b = 0 then .ok (1, false)
        else
          let n ← controlOf (x.tile b)
          .ok ((n.setWidth 32 : BitVec 32).setWidth 64, (x.tile b).tag)
      let (w, n, t) ← if a = 0 then do .ok ((0 : Word64), (← amount)) else routeChecks s (x.tile a) false fun _ => amount
      .ok (signalOut s 1 a w (c.setWidth 8) n t, w))
    noWait
    fun s o => sendIt s o.1 m v o.2)

/-- FSET (R395). -/
def execFset (a c : BitVec 4) (m : BitVec 4) (v : BitVec 2) (s : State) : Host.Outcome State Fault Refusal :=
  .next (issueRead s a [a] [] 1 outFull
    (fun s x => do
      let w ← if a = 0 then .ok (0 : Word64) else (do
        let r ← routeChecks s (x.tile a) false fun _ => .ok ()
        .ok r.1)
      .ok (signalOut s 2 a w (c.setWidth 8) 0 false, w))
    noWait
    fun s o => sendIt s o.1 m v o.2)

/-- An instruction of the counter group that acts on its own context with a control operand (R395): a tagged operand
changes nothing and raises the UE event of R270. -/
def ownEffect (s : State) (b : TReg) (bad : Word64 → Option Cause) (e : Word64 → Eff) : State :=
  issueRead s 0 [b] [] 1 atOnce
    (fun _ x => do
      let v ← controlOf (x.tile b)
      match bad v with
      | some c => if (x.tile b).tag then .ok (v, true) else .error (c, none)
      | none => .ok (v, (x.tile b).tag))
    noWait
    fun s v =>
      if v.2 then
        let f := freeAddr s
        finish (ueEvent f.2 0 0 f.1)
      else finish (effect s [] (bytesOf 8 v.1.toNat) true (e v.1))

/-- CSET (R395). -/
def execCset (b c : BitVec 4) (s : State) : Host.Outcome State Fault Refusal :=
  .next (ownEffect s b (fun _ => none) fun v => .cset c (v.setWidth 32))

/-- CGET (R395): the value after steps 1 and 2 of R396, supplied by the leader on a pair (R277). -/
def execCget (a c : BitVec 4) (s : State) : Host.Outcome State Fault Refusal :=
  .next (issueOutside s a (uwordTile ((s.myCtx.cvalAt c).setWidth 64) false))

/-- CARM (R395). -/
def execCarm (b c : BitVec 4) (s : State) : Host.Outcome State Fault Refusal :=
  .next (ownEffect s b (fun _ => none) fun v => .carm c (v.setWidth 32))

/-- FCLR (R395). -/
def execFclr (c : BitVec 4) (s : State) : Host.Outcome State Fault Refusal :=
  .next (issue s 1 [] fun s => finish (effect s [] (bytesOf 1 c.toNat) true (.fclr c)))

/-- TWEN (R395, R84): w is bit 4 of the word's index. -/
def execTwen (b c : BitVec 4) (w : BitVec 1) (s : State) : Host.Outcome State Fault Refusal :=
  .next (ownEffect s b (fun v => trigBad (v.setWidth 32)) fun v => .twen (w ++ c) (v.setWidth 32))

/-- TMR (R395). -/
def execTmr (b : BitVec 4) (t : BitVec 2) (s : State) : Host.Outcome State Fault Refusal :=
  .next (ownEffect s b (fun _ => none) fun v => .tmr t v)

end Sys2Proof.Machine
end

