-- ==== Sys2Proof/Machine/Fennel.lean ====
section
/-! DEFINITION. Fennel at work (06 R157 to R167): rows of streams, their completions, engine-context residency. -/

namespace Sys2Proof.Machine

/-- A stream of a cluster with its engine context. -/
def findStream (s : State) (k : ClusterId) (uid : Nat) : Option (Ectx × Stream) :=
  ((s.cluster k).ectxs.flatMap fun e => e.streams.map fun r => (e, r)).find? fun p => p.2.uid == uid

/-- Offset of row n from the base (R157): from the index list, or from the four dimensions. -/
def rowOffset (r : Stream) (n : Nat) : Int :=
  let c (i : Nat) : Nat := r.counts.getD i 1
  let st (i : Nat) : Int := r.strides.getD i 0
  if r.indexed then
    let v := (r.idx.find? fun p => p.1 == n).elim 0 (·.2)
    (match fmtOf r.ifmt.toNat with
      | some f => intOf f v
      | none => 0) * st 0
  else
    ((n % c 0 : Nat) : Int) * st 0 + ((n / c 0 % c 1 : Nat) : Int) * st 1 + ((n / (c 0 * c 1) % c 2 : Nat) : Int) * st 2
      + ((n / (c 0 * c 1 * c 2) : Nat) : Int) * st 3

/-- A stream fault at row n (R163): the event, and the stream FAULTED. A read stream's tile starts again, those before it go on. -/
def streamFault (s : State) (k : ClusterId) (e : Ectx) (r : Stream) (n : Nat) (c : Cause) (source : BitVec 4) (sub : BitVec 8) (addr : Word64) : State :=
  let t := r.tileOf n
  let s := sendFault s e.core e.job c
    { source := source, slot := r.slot, tile := r.tile, row := BitVec.ofNat 3 (r.rowAt n), acc := 0, sub := sub, count := BitVec.ofNat 32 t } addr
  let first := t * r.shape.vrows
  updStream s k r.uid fun x => { x with
    st := if x.st = .closing then .closing else .faulted, faultTile := t, faultSub := sub, faultAddr := addr, retry := false,
    flying := if x.isWrite then [] else x.flying.filter fun q => decide (q.row < first),
    filling := x.filling.filter fun q => decide (q.t < t),
    nextRow := if x.isWrite then n else Nat.min x.nextRow first,
    nextIdx := Nat.min x.nextIdx first, idx := x.idx.filter fun p => decide (p.1 < first)
    queue := if x.st = .closing then [] else x.queue }

/-- The cause, source and subcause of a failure that an engine's walk finds (R147, R242). -/
def engineCause (c : Cause) : Cause × BitVec 4 × BitVec 8 :=
  if c = .xlateUe then (.ue, 6, 0x07) else (.engine, 1, causeCode c)

/-- Where a range of bytes of a pointer lies for an engine: keys, a remote part, a fault with its address, or a page to
wait for (R134, R137, R142). -/
def engineAt (s : State) (k : ClusterId) (who : Waiter) (asid : BitVec 16) (p : Word64) (win : Word64) (off : Int) (n : Nat)
    (write : Bool) : RowAt :=
  match ptrOf p with
  | none => .fault .bounds p
  | some q =>
    let a : Int := (q.addr : Int) + off
    if a < 0 ∨ (2 ^ q.width : Int) < a + n then .fault .bounds (q.at_ a)
    else
      let a := a.toNat
      match q.space with
      | 2 =>
        match rowX (xlateRange s k who asid a n write) [] with
        | .keys f => .keys fun o => keyIn f (a + o)
        | .fault c at_ _ => .fault c (q.at_ at_)
        | .miss v => .miss v
      | 3 => if a % 16 = 0 ∧ n % 16 = 0 then .remote else .fault .align (q.at_ a)
      | 5 => .keys fun o => a + o
      | _ =>
        if winSize win < a + n ∨ (s.cluster (entryCluster win)).retired then .fault .bounds (q.at_ a)
        else .keys fun o => vaultKey (entryCluster win) (winBase win + a + o)

/-- Least scope of an engine's access (R211). -/
def engineNear (core : CoreId) (p win : Word64) : BitVec 2 :=
  match (p.extractLsb' 60 4).toNat with
  | 0 | 1 => vaultNear core win
  | 3 => 3
  | _ => 2

/-- A built-in operation of an engine (R41). -/
def engineMsg (s : State) (core : CoreId) (job : JobId) (id : Nat) (addr : Word64) (sel : BitVec 12) (aux : BitVec 8) (f : BitVec 5)
    (args : List Word64) (data : List Byte) : Msg :=
  Msg.formed {
    dstPart := addr.extractLsb' 44 16, dstCore := 0, srcCore := core, srcPart := s.part, vnet := 0, kind := 11, prio := 0, rcheck := 0,
    etag := false, job := job, sel := sel, tag := 0, pfmt := f, seq := BitVec.ofNat 16 id, residue := 0, aux := aux,
    arg := (addr.extractLsb' 0 44 : BitVec 44).setWidth 64, zeros := 0, retained := false, fixed := false, args := args, payload := data }

/-- A tile of a read stream as it starts: the bound shape with the rows it carries (R157). -/
def freshTile (r : Stream) (t : Nat) : Tile := { r.shape with bytes := 0, residue := 0, vrows := r.rowsIn t, tag := false }

/-- A request of a stream is out: a first one for a FAULTED tile makes the stream open again (R163), a first row begins its tile. -/
def Stream.sent (r : Stream) (w : Want) (ids : List Nat) : Stream :=
  let again : Bool := r.st == .faulted && r.retry && decide (r.faultTile ≤ r.tileOf w.at_)
  let r := { r with st := if again then .open_ else r.st, faultSub := if again then 0 else r.faultSub, retry := r.retry && !again }
  match w with
  | .index n =>
    let z := ((fmtOf r.ifmt.toNat).map fmtSize).getD 4
    { r with flying := r.flying ++ [{ row := n, evs := ids, index := true }],
             nextIdx := ((r.index.toNat % 16 + n * z) / 16 * 16 + 16 - r.index.toNat % 16) / z }
  | .row n =>
    let t := r.tileOf n
    { r with
      flying := r.flying ++ [{ row := n, evs := ids, index := false }], nextRow := n + 1, idx := r.idx.filter fun p => decide (n ≤ p.1)
      filling := if r.isWrite || r.filling.any (fun q => q.t == t) then r.filling else r.filling ++ [{ t := t, tile := freshTile r t, left := r.rowsIn t }] }

/-- Events of a stream put to the memory system: fresh numbers, no edge among themselves (R227). -/
def streamEvents (s : State) (k : ClusterId) (uid : Nat) (w : Want) (l : List MemEv) : State :=
  let l := l.zipIdx.map fun p => { p.1 with id := s.nextId + p.2 }
  updStream { s with nextId := s.nextId + l.length, memq := s.memq ++ l } k uid fun r => r.sent w (l.map (·.id))

/-- A remote request of a stream. -/
def streamRemote (s : State) (k : ClusterId) (e : Ectx) (r : Stream) (w : Want)
    (l : List (Word64 × BitVec 12 × BitVec 8 × BitVec 5 × List Word64 × List Byte)) : State :=
  let go (s : State) (q : Word64 × BitVec 12 × BitVec 8 × BitVec 5 × List Word64 × List Byte) : State :=
    let id := s.nextId
    let (addr, sel, aux, f, args, data) := q
    let req : RemReq := { id := id, owner := .stream k r.uid, dst := 0, map := (List.range (if sel = 2 then data.length else 64)).map fun i => (i, i),
                          addr := addr, row := w.at_, reply := none }
    putFlight { s with nextId := id + 1, rems := s.rems ++ [req] } e.core (engineMsg s e.core e.job id addr sel aux f args data) false
  let s' := l.foldl go s
  updStream s' k r.uid fun x => x.sent w ((s'.rems.drop s.rems.length).map (·.id))

/-- The index granule of row n (R162): the pointer's offset of its first byte. -/
def indexGranule (r : Stream) (n : Nat) : Int :=
  let z := ((fmtOf r.ifmt.toNat).map fmtSize).getD 4
  let a := (r.index.toNat % 16 + n * z) / 16 * 16
  (a : Int) - (r.index.toNat % 16 : Nat)

/-- The next row of a write stream passes without a transfer: its tagged tile is a sink (R270). -/
def skipRow (s : State) (k : ClusterId) (e : Ectx) (r : Stream) (n : Nat) (addr : Word64) : State :=
  let t := r.tileOf n
  let s := if r.ueSent.contains t then s
    else sendFault s e.core e.job .ue
      { source := 1, slot := r.slot, tile := r.tile, row := BitVec.ofNat 3 (r.rowAt n), acc := 0, sub := 0x08, count := BitVec.ofNat 32 t } addr
  let last := r.rowAt n + 1 = r.rowsIn t
  updStream s k r.uid fun x =>
    let y := x.sent (.row n) []
    { y with
      flying := [], ueSent := if x.ueSent.contains t then x.ueSent else x.ueSent ++ [t], queue := if last then x.queue.drop 1 else x.queue
      redo := if x.redo = some t ∧ last then none else x.redo }

/-- The events of a write stream's row at an address: bytes stored (STRMS) or one update for each element (STRMA, R160). The bytes of a tile that was
given another shape since the binding are taken at its own cols, for the valid rows and columns of the stream (log 53). -/
def writeRowEvents (k : ClusterId) (e : Ectx) (r : Stream) (t : Tile) (i : Nat) (addr : Word64) (f : Nat → Nat) : List MemEv :=
  let z := fmtSize r.shape.fmt
  let base (key : Nat) (kind : EvKind) (bytes : List Nat) (clears : List Nat) (off : Nat) : MemEv :=
    { id := 0, key := key, kind := kind, bytes := bytes, owner := .stream k r.uid, cls := r.cls, scope := r.scope,
      near := engineNear e.core r.base r.window, after := [], dst := 0, map := [], arrived := none, clears := clears,
      n := 0, job := e.job, va := addr + BitVec.ofNat 64 off }
  if r.kind = 3 then
    (List.range r.shape.vcols).map fun j =>
      let key := f (j * z)
      let op : AtomOp := { fn := r.op.extractLsb' 0 5, size := 8 * z, signed := isSigned r.shape.fmt, v := t.raw (i * t.cols + j), a := 0,
                           wants := false, ord := r.op.getLsbD 5, tag := false }
      base (key / 16 * 16) (.atom (key % 16) op) ((List.range z).map fun b => key % 16 + b) [] (j * z)
  else
    let l := (List.range r.rowBytes).map fun o => (f o, t.byte (i * t.cols * z + o))
    let units := wholeUnits (l.map (·.1))
    (granules (l.map fun p => (p.1, 0))).map fun g =>
      let bs := (l.filter fun p => p.1 / 16 * 16 == g.1).map fun p => (p.1 - g.1, p.2)
      base g.1 (.write bs) (bs.map (·.1)) (units.filter fun u => g.1 ≤ u + eccSize u - 1 && u + eccSize u - 1 < g.1 + 16) 0

/-- A read of a stream, its number still to come. -/
def readEvent (k : ClusterId) (e : Ectx) (r : Stream) (near : BitVec 2) (key : Nat) (bytes : List Nat) (map : ByteMap) : MemEv :=
  { id := 0, key := key, kind := .read, bytes := bytes, owner := .stream k r.uid, cls := r.cls, scope := r.scope, near := near,
    after := [], dst := 0, map := map, arrived := none, clears := [], n := 0, job := e.job, va := r.base }

/-- The stream whose request is next, round-robin over the streams that have work and do not wait for a page (R160). -/
def fennelTurn (s : State) (k : ClusterId) : Option Nat :=
  let q := s.cluster k
  let able := q.ectxs.flatMap fun e => (e.streams.filter fun r => (Stream.work s e r).isSome && mayGo s k (.stream r.uid)).map (·.uid)
  let least (l : List Nat) : Option Nat := l.foldl (fun b n => match b with
    | some m => some (Nat.min m n)
    | none => some n) none
  (least (able.filter fun n => decide (q.fennelLast < n))).orElse fun _ => least able
/-- May Fennel make one more request in this cycle: two at most (R160)? -/
def fennelRoom (s : State) (k : ClusterId) : Bool := let q := s.cluster k; q.fennelAt != s.clk.cycle || decide (q.fennelIn < 2)
/-- A request of Fennel is made. -/
def fennelUsed (s : State) (k : ClusterId) (uid : Nat) : State :=
  s.updCluster k fun q => { q with
    fennelLast := uid, fennelAt := s.clk.cycle, fennelIn := if q.fennelAt = s.clk.cycle then q.fennelIn + 1 else 1 }

/-- The request of a stream is formed: its index granule (R162), or its row (R160). -/
def formRequest (s : State) (cluster : ClusterId) (e : Ectx) (r : Stream) (w : Want) : State :=
  let asid := ((s.ctxAt e.core e.ctx).map (·.asid)).getD 0
  let who : Waiter := .stream r.uid
  let s := retried s cluster who
  let wait (v : BitVec 32) (write : Bool) : State :=
    noteMiss s cluster { asid := asid, vpn := v, write := write, fetch := false, who := who, served := false }
  let fail (c : Cause) (addr : Word64) : State :=
    let (cause, source, sub) := engineCause c
    takeFault (streamFault s cluster e r w.at_ cause source sub addr) cluster who
  match w with
  | .index n =>
    let off := indexGranule r n
    match engineAt s cluster who asid r.index r.idxWindow off 16 false with
    | .fault c addr => fail c addr
    | .miss v => wait v false
    | .remote => streamRemote s cluster e r w [(((ptrOf r.index).map fun q => q.at_ ((q.addr : Int) + off)).getD 0, 1, 0, 0, [], [])]
    | .keys f =>
      streamEvents s cluster r.uid w [readEvent cluster e r (engineNear e.core r.index r.idxWindow) (f 0) (List.range 16) ((List.range 16).map fun i => (i, i))]
  | .row n =>
    let i := r.rowAt n
    let off := rowOffset r n
    let addr := ((ptrOf r.base).map fun q => q.at_ ((q.addr : Int) + off)).getD 0
    let head := r.queue.headD Tile.zero
    let z := fmtSize r.shape.fmt
    let updates : List (Word64 × BitVec 12 × BitVec 8 × BitVec 5 × List Word64 × List Byte) := (List.range r.shape.vcols).map fun j =>
      (addr + BitVec.ofNat 64 (j * z), 3, (r.op.extractLsb' 0 5 : BitVec 5).setWidth 8, BitVec.ofNat 5 (fmtCode r.shape.fmt),
        [BitVec.ofNat 64 (head.raw (i * head.cols + j))], [])
    if r.isWrite && head.tag then skipRow s cluster e r n addr
    else
      match engineAt s cluster who asid r.base r.window off r.rowBytes r.isWrite with
      | .fault c addr =>
        -- an update needs only its element's alignment (R41)
        if c = .align ∧ r.kind = 3 then streamRemote s cluster e r w updates else fail c addr
      | .miss v => wait v r.isWrite
      | .remote =>
        let aux := BitVec.ofNat 8 (r.rowBytes / 16 - 1)
        if r.kind = 3 then streamRemote s cluster e r w updates
        else if r.isWrite then
          streamRemote s cluster e r w [(addr, 2, aux, 0, [], (List.range r.rowBytes).map fun o => head.byte (i * head.cols * fmtSize head.fmt + o))]
        else streamRemote s cluster e r w [(addr, 1, aux, 0, [], [])]
      | .keys f =>
        if r.isWrite then streamEvents s cluster r.uid w (writeRowEvents cluster e r head i addr f)
        else
          let pos := i * r.shape.cols * z
          let l := (List.range r.rowBytes).map fun o => (f o, pos + o)
          streamEvents s cluster r.uid w ((granules l).map fun g =>
            readEvent cluster e r (engineNear e.core r.base r.window) g.1 (g.2.map (·.1)) g.2)

/-- FENNEL_ROW_REQUEST (R160): the next row of the stream whose turn it is, or the index granule that it needs first (R162). -/
def execFennelRowRequest (cluster : ClusterId) (uid : Nat) (s : State) : Host.Outcome State Fault Refusal :=
  .next (match findStream s cluster uid with
    | none => s
    | some (e, r) =>
      match Stream.work s e r with
      | none => s
      | some w =>
        if gated s cluster || !fennelRoom s cluster || fennelTurn s cluster != some uid then s
        else formRequest (fennelUsed s cluster uid) cluster e r w)

/-- The indices that the granule of row n gives (R162): (row, element). -/
def indexValues (r : Stream) (n : Nat) (bytes : List Byte) : List (Nat × Nat) :=
  let z := ((fmtOf r.ifmt.toNat).map fmtSize).getD 4
  let off := indexGranule r n
  (List.range (16 / z)).filterMap fun j =>
    let n : Int := (off + (j * z : Nat)) / z
    if 0 ≤ n ∧ n < r.rows then some (n.toNat, natOf ((bytes.drop (j * z)).take z)) else none

/-- Tiles that are whole move to the queue in their order (R160). -/
def settleFills : List Fill → List Tile → List Fill × List Tile
  | [], q => ([], q)
  | f :: l, q => if f.left = 0 then settleFills l (q ++ [f.tile]) else (f :: l, q)

/-- A row of a stream is done, or its index granule is here (R160, R162). data are bytes with their places, of the tile for a read on the own part. -/
def rowBack (x : Stream) (q : Fly) (data : List (Nat × Byte)) (remote : Bool) : Stream :=
  let x := { x with flying := x.flying.filter fun f => f != q }
  let t := x.tileOf q.row
  let i := x.rowAt q.row
  if q.index then
    let bytes := (List.range 16).map fun b => (data.find? fun p => p.1 == b).elim 0 (·.2)
    { x with idx := x.idx ++ indexValues x q.row bytes }
  else if x.isWrite then
    let last := i + 1 = x.rowsIn t
    { x with queue := if last then x.queue.drop 1 else x.queue, redo := if x.redo = some t ∧ last then none else x.redo }
  else
    let pos := if remote then i * x.shape.cols * fmtSize x.shape.fmt else 0
    let bytes := if remote then data.filter fun p => p.1 < x.rowBytes else data
    let fill (f : Fill) : Fill :=
      if f.t = t then { f with tile := bytes.foldl (fun w p => w.setByte (pos + p.1) p.2) f.tile, left := f.left - 1 } else f
    let r := settleFills (x.filling.map fill) x.queue
    { x with filling := r.1, queue := r.2 }

/-- Is everything that a request of a stream asked for done? -/
def flyDone (s : State) (q : Fly) : Bool :=
  !((s.memq.any fun x => q.evs.contains x.id) || s.rems.any fun x => q.evs.contains x.id && x.reply.isNone)

/-- STREAM_ROW_RETURN (R163): every event of a row or of an index granule under way is performed and its data are back. An uncorrectable
error in read data is a stream fault; otherwise the row is done, and its tile with its last row. -/
def execStreamRowReturn (cluster : ClusterId) (uid : Nat) (s : State) : Host.Outcome State Fault Refusal :=
  .next (match findStream s cluster uid with
    | none => s
    | some (e, r) =>
      match r.flying.find? (flyDone s) with
      | none => s
      | some q =>
        if gated s cluster then s
        else
          let mine (id : Nat) : Bool := q.evs.contains id
          let rets := s.rets.filter fun x => mine x.id
          let rems := s.rems.filter fun q => mine q.id
          let s := { s with rets := s.rets.filter fun x => !mine x.id, rems := s.rems.filter fun q => !mine q.id }
          let data : List (Nat × Byte) := rets.flatMap (·.bytes) ++ rems.flatMap fun q => match q.reply with
            | some (_, _, l) => l.zipIdx.map fun p => (p.2, p.1)
            | none => []
          let tag := (rets.any (·.tag)) || rems.any fun q => match q.reply with
            | some (_, t, _) => t
            | none => false
          let status := rems.findSome? fun q => match q.reply with
            | some (st, _, _) => if st ≠ 0 then some (st, q.addr) else none
            | none => none
          let addr := if q.index then ((ptrOf r.index).map fun p => p.at_ ((p.addr : Int) + indexGranule r q.row)).getD 0
            else ((ptrOf r.base).map fun p => p.at_ ((p.addr : Int) + rowOffset r q.row)).getD 0
          match status with
          | some (st, a) =>
            let c := engineCause (causeOfStatus st)
            streamFault s cluster e r q.row c.1 1 c.2.2 a
          | none =>
            if tag && (!r.isWrite || q.index) then streamFault s cluster e r q.row .ue 1 0x08 addr
            else updStream s cluster uid fun x => rowBack x q data (!rems.isEmpty))

/-- The completion that a descriptor asks for (R164, R386): a message of kind 5, or a counter add on success only. -/
def completionMsg (s : State) (core : CoreId) (job : JobId) (f : Completion) (status : BitVec 8) (arg : Word64) : Option Msg :=
  let r := routeOf f.route
  let base : Msg :=
    { dstPart := r.part, dstCore := r.core, srcCore := core, srcPart := s.part, vnet := 1, kind := 5, prio := r.prio, rcheck := 0, etag := false,
      job := job, sel := r.sel, tag := r.tag, pfmt := 0, seq := 0, residue := 0, aux := status, arg := arg, zeros := 0, retained := false, fixed := false,
      args := [], payload := [] }
  if f.done = 1 then some (Msg.formed base)
  else if f.done = 2 ∧ status = 0 then
    some (Msg.formed { base with vnet := 0, kind := 1, sel := 0, tag := 0, aux := f.ctr.setWidth 8, arg := (f.arg.setWidth 32 : BitVec 32).setWidth 64 })
  else none

/-- A completion sent by the NI of a core (R164). -/
def sendCompletion (s : State) (core : CoreId) (job : JobId) (f : Completion) (status : BitVec 8) (arg : Word64) : State :=
  match completionMsg s core job f status arg with
  | some m => niInject s core m true
  | none => s

/-- WRITE_STREAM_COMPLETION (R164): a closed write stream whose pushed tiles are performed, or which was FAULTED, sends
its completion and unbinds. Output of a frozen job waits (R254). -/
def execWriteStreamCompletion (cluster : ClusterId) (uid : Nat) (s : State) : Host.Outcome State Fault Refusal :=
  .next (match findStream s cluster uid with
    | none => s
    | some (e, r) =>
      if !r.isWrite || r.st != .closing || !r.flying.isEmpty || !r.queue.isEmpty || e.frozen || gated s cluster then s
      else
        let s := dropStreams s cluster fun _ x => x.uid == uid
        sendCompletion s e.core e.job r.fin r.faultSub r.fin.arg)

/-- An engine context of a cluster changed. -/
def updEctx (s : State) (k : ClusterId) (core : CoreId) (ctx : BitVec 2) (f : Ectx → Ectx) : State :=
  s.updCluster k fun q => { q with ectxs := q.ectxs.map fun e => if e.core = core ∧ e.ctx = ctx then f e else e }
/-- The engine context of a context. -/
def ectxOf (s : State) (k : ClusterId) (core : CoreId) (ctx : BitVec 2) : Option Ectx :=
  (s.cluster k).ectxs.find? fun e => e.core == core && e.ctx == ctx

/-- DRAIN_ALLOWANCE_EXPIRY (R165). A Frost leaves a context that it found DRAINING there (R185); one chosen as victim while frozen is parked. -/
def execDrainAllowanceExpiry (cluster : ClusterId) (core : CoreId) (ctx : BitVec 2) (s : State) : Host.Outcome State Fault Refusal :=
  .next (match ectxOf s cluster core ctx with
    | none => s
    | some e => match e.st with
      | .draining since =>
        if !e.asleep && !gated s cluster && decide (since + 512 ≤ s.clk.cycle) then updEctx s cluster core ctx fun e => { e with st := .parking } else s
      | _ => s)

/-- PARK_IMAGE_WRITTEN (R165): every tile already begun is whole, and the image is in the save area. -/
def execParkImageWritten (cluster : ClusterId) (core : CoreId) (ctx : BitVec 2) (s : State) : Host.Outcome State Fault Refusal :=
  .next (match ectxOf s cluster core ctx with
    | some e => if e.st = .parking ∧ !gated s cluster ∧ !(e.streams.any fun r => !r.flying.isEmpty || (Stream.work s e r).isSome) then
        updEctx s cluster core ctx fun e => { e with st := .parked } else s
    | none => s)

/-- PARK_IMAGE_READ (R165). -/
def execParkImageRead (cluster : ClusterId) (core : CoreId) (ctx : BitVec 2) (s : State) : Host.Outcome State Fault Refusal :=
  .next (match ectxOf s cluster core ctx with
    | some e => if e.st = .restoring ∧ !gated s cluster then updEctx s cluster core ctx fun e => { e with st := .resident, since := s.clk.cycle } else s
    | none => s)

/-- The resident engine context that has held its place longest. -/
def oldestResident (l : List Ectx) : Option Ectx :=
  (l.filter fun e => e.st == .resident).foldl (fun (b : Option Ectx) e => match b with
    | some x => if e.since < x.since then some e else some x
    | none => some e) none

/-- FENNEL_SERVICE_GRANT (R166): the oldest request takes a free place; without one, a victim is set to drain once it has
held its place for 4,096 cycles or has no work. A context that has fetched nothing has no image to read. -/
def execFennelServiceGrant (cluster : ClusterId) (s : State) : Host.Outcome State Fault Refusal :=
  .next (match (s.cluster cluster).wants with
    | [] => s
    | (core, ctx) :: rest =>
      if gated s cluster then s else
      let l := (s.cluster cluster).ectxs
      let served (s : State) : State := s.updCluster cluster fun q => { q with wants := rest }
      match ectxOf s cluster core ctx with
      | none => served s
      | some e =>
        if e.st ≠ .parked then served s
        else if (l.filter Ectx.holds).length < 2 then
          let fresh := e.streams.all fun r => r.nextRow == 0 && r.queue.isEmpty && r.filling.isEmpty
          updEctx (served s) cluster core ctx fun e => { e with st := if fresh then .resident else .restoring, since := s.clk.cycle }
        else if l.any fun e => match e.st with
          | .draining _ | .parking => true
          | _ => false then s
        else
          match oldestResident l with
          | some v =>
            if v.since + 4096 ≤ s.clk.cycle || !(v.streams.any (Stream.busy s)) then
              updEctx s cluster v.core v.ctx fun e => { e with st := .draining s.clk.cycle }
            else s
          | none => s)

end Sys2Proof.Machine
end

