-- ==== Sys2Proof/Machine/Translate.lean ====
section
/-! DEFINITION. Page walks, copy-on-write, the code cache and TLB invalidation (05 R139 to R150, 10 R284, R285). -/

namespace Sys2Proof.Machine

/-- Level and table at which a walk of an address space starts, as the walk cache has it (R144). -/
def walkStart (s : State) (ch : BitVec 4) (asid : BitVec 16) (va : BitVec 48) : Nat × Nat :=
  let hit (l : Nat) : Option WalkEntry :=
    (s.chiplet ch).walk.find? fun w => w.asid == asid && w.level == l && w.va.toNat / 2 ^ levelShift l == va.toNat / 2 ^ levelShift l
  match hit 3, hit 2, hit 1 with
  | some w, _, _ => (4, w.next.toNat)
  | none, some w, _ => (3, w.next.toNat)
  | none, none, some w => (2, w.next.toNat)
  | none, none, none => (1, (asidEntry s asid).root.toNat)

/-- An entry stored (R142, R284). -/
def putPte (s : State) (at_ : Nat) (w : Word64) : State := { s with mem := memStore s.mem at_ (bytesOf 8 w.toNat) }

/-- A translation for a leaf. -/
def tlbOf (asid : BitVec 16) (va : BitVec 48) (l : Nat) (w : Word64) : Tlb :=
  let size := 2 ^ levelShift l
  { asid := asid, va := BitVec.ofNat 48 (va.toNat / size * size), size := size, frame := pteFrame (pteOf w), x := w.getLsbD 3,
    w := w.getLsbD 2, c := w.getLsbD 6, d := w.getLsbD 5 }

/-- A translation put in a full structure takes the place of the oldest (log 12). -/
def putTlb (n : Nat) (l : List Tlb) (t : Tlb) : List Tlb :=
  let l := l.filter fun u => !(u.asid == t.asid && u.va == t.va)
  (if n ≤ l.length then l.drop 1 else l) ++ [t]
/-- The same for the walk cache. -/
def putWalk (l : List WalkEntry) (w : WalkEntry) : List WalkEntry :=
  let l := l.filter fun u => !(u.asid == w.asid && u.level == w.level && u.va == w.va)
  (if 64 ≤ l.length then l.drop 1 else l) ++ [w]

/-- Does a translation cover a page of the miss queue? -/
def Tlb.coversVpn (t : Tlb) (asid : BitVec 16) (vpn : BitVec 32) : Bool := t.covers asid (vpn ++ (0 : BitVec 16))
/-- Accesses of a cluster that a page serves. -/
def servedBy (k : Cluster) (t : Tlb) : List Miss := k.misses.filter fun m => t.coversVpn m.asid m.vpn

/-- Clusters of a chiplet that have a table entry. -/
def clustersOf (s : State) (ch : BitVec 4) : List ClusterId :=
  (s.clusters.map fun p => BitVec.ofNat 12 p.1).filter fun k => chipletOf k == ch

/-- A walk is over: its pair leaves the miss table, and so does every other pair that it serves (R145). -/
def endWalk (s : State) (ch : BitVec 4) (served : BitVec 16 → BitVec 32 → Bool) : State :=
  s.updChiplet ch fun q => { q with
    table := q.table.filter fun p => !served p.1 p.2
    walks := q.walks.filter fun w => !served w.asid w.vpn }

/-- A fault found by a walk goes to every access that waited on it (R146). -/
def walkFault (s : State) (ch : BitVec 4) (asid : BitVec 16) (vpn : BitVec 32) (c : Cause) (at_ : Nat) : State :=
  let hit (m : Miss) : Bool := !m.served && m.asid == asid && m.vpn == vpn
  (clustersOf s ch).foldl (fun s k => s.updCluster k fun q => { q with
      misses := q.misses.filter fun m => !hit m
      faults := q.faults ++ ((q.misses.filter hit).map fun m => { who := m.who, asid := asid, vpn := vpn, cause := c, addr := BitVec.ofNat 52 at_ }) })
    (endWalk s ch fun a v => a == asid && v == vpn)

/-- The leaf that a walk found fills the TLBs, A and D are set in the entry, and every access that the page serves is to be tried again in its
queue's order (R142, R144, R145); a write to a committed frame goes on waiting for its copy (R284). -/
def walkLeaf (s : State) (ch : BitVec 4) (asid : BitVec 16) (va : BitVec 48) (l at_ : Nat) (p : Pte) (seen : List (Nat × Nat)) : State :=
  let t := tlbOf asid va l p.raw
  let ks := clustersOf s ch
  let writes := ks.any fun k => (servedBy (s.cluster k) t).any fun m => m.write
  let committed := t.c && (asidEntry s asid).harvest
  let dirty := writes && t.w && !committed
  let w := (p.raw ||| 0x10) ||| (if dirty then 0x20 else 0)
  let s := endWalk (if w = p.raw then s else putPte s at_ w) ch t.coversVpn
  let t := tlbOf asid va l w
  let s := s.updChiplet ch fun q => { q with
    tlb := putTlb 256 q.tlb t
    walk := seen.foldl (fun m x => putWalk m { asid := asid, level := x.1, va := BitVec.ofNat 48 (va.toNat / 2 ^ levelShift x.1 * 2 ^ levelShift x.1),
                                               next := BitVec.ofNat 52 x.2 }) q.walk }
  let hit (m : Miss) : Bool := t.coversVpn m.asid m.vpn && !(m.write && t.w && committed)
  ks.foldl (fun s k =>
    if (servedBy (s.cluster k) t).isEmpty then s
    else s.updCluster k fun q => { q with
      tlb := putTlb 32 q.tlb t
      misses := (q.misses.filter fun m => !(hit m && m.who == .edge)).map fun m => if hit m then { m with served := true } else m }) s

/-- PAGE_WALK (R145): one step for a pair of ASID and VA that a cluster waits for: a place in its chiplet's miss table of 256, a walker of its 16, or
the read of one level by the walker. -/
def execPageWalk (cluster : ClusterId) (asid : BitVec 16) (vpn : BitVec 32) (s : State) : Host.Outcome State Fault Refusal :=
  .next (
    let ch := chipletOf cluster
    let va : BitVec 48 := vpn ++ (0 : BitVec 16)
    let q := s.chiplet ch
    let pair (a : BitVec 16) (v : BitVec 32) : Bool := a == asid && v == vpn
    if !((clustersOf s ch).any fun k => (s.cluster k).misses.any fun m => !m.served && pair m.asid m.vpn) then
      (if q.table.contains (asid, vpn) then endWalk s ch pair else s)
    else if !q.table.contains (asid, vpn) then
      (if q.table.length < 256 then s.updChiplet ch fun q => { q with table := q.table ++ [(asid, vpn)] } else s)
    else
      match q.walks.find? fun w => pair w.asid w.vpn with
      | none =>
        if 16 ≤ q.walks.length then s
        else if !(asidEntry s asid).valid then walkFault s ch asid vpn .xlate (asidEntry s asid).root.toNat
        else
          let b := walkStart s ch asid va
          s.updChiplet ch fun q => { q with walks := q.walks ++ [{ asid := asid, vpn := vpn, level := b.1, table := b.2, seen := [] }] }
      | some w =>
        -- one level: a walk that is given one level more faults only where its entry does
        let a := w.table + 8 * levelIndex w.level va
        if badAt s ((List.range 8).map (a + ·)) then walkFault s ch asid vpn .xlateUe a
        else
          let p := pteOf (BitVec.ofNat 64 (natOf (memBytes s.mem a 8)))
          if !p.valid || pteBad w.level p then walkFault s ch asid vpn .xlate a
          else if p.leaf then walkLeaf s ch asid va w.level a p w.seen
          else
            let n := (pteNext p).toNat
            s.updChiplet ch fun q => { q with walks := q.walks.map fun x => if x = w then { w with level := w.level + 1, table := n, seen := w.seen ++ [(w.level, n)] } else x })

/-- Translations removed by a predicate in every structure of the part, walk-cache entries by another. -/
def dropTlbs (s : State) (p : Tlb → Bool) (w : WalkEntry → Bool) : State :=
  { s with
    clusters := s.clusters.map fun (x : Nat × Cluster) => (x.1, { x.2 with tlb := x.2.tlb.filter fun t => !p t })
    chiplets := s.chiplets.map fun (x : Nat × Chiplet) => (x.1, { x.2 with tlb := x.2.tlb.filter fun t => !p t, walk := x.2.walk.filter fun e => !w e }) }

/-- CODE_CACHE_FILL (R150): a line that a fetch waits for, through translation with X. A line whose translation faults
is remembered with the cause until the fetch takes it. -/
def execCodeCacheFill (cluster : ClusterId) (asid : BitVec 16) (line : BitVec 48) (s : State) : Host.Outcome State Fault Refusal :=
  .next (
    let is_ (w : BitVec 16 × BitVec 48 × Option (Cause × BitVec 52)) : Bool := w.1 == asid && w.2.1 == line
    if !((s.cluster cluster).codeWaits.any fun w => is_ w && w.2.2.isNone) then s
    else
      if !mayRetry s cluster .code asid (vpnOf line) then s else
      let s := s.updCluster cluster fun q => { q with misses := q.misses.filter fun m => !(m.who == .code && m.served && m.asid == asid && m.vpn == vpnOf line) }
      let mark (c : Cause) (at_ : BitVec 52) (s : State) : State := s.updCluster cluster fun q => { q with
        codeWaits := q.codeWaits.map fun w => if is_ w then (w.1, w.2.1, some (c, at_)) else w }
      match xlate s cluster .code asid line false true with
      | .miss => noteMiss s cluster { asid := asid, vpn := vpnOf line, write := false, fetch := true, who := .code, served := false }
      | .fault c a =>
        let s := s.updCluster cluster fun q => { q with faults := q.faults.filter fun f => !(f.who == .code && f.asid == asid && f.vpn == vpnOf line) }
        mark c ((a.getD 0).setWidth 52) s
      | .ok pa =>
        let l : CodeLine := { asid := asid, va := line, bytes := BitVec.ofNat 512 (natOf (memBytes s.mem pa 64)),
                              tag := badAt s ((List.range 64).map (pa + ·)) }
        s.updCluster cluster fun q => { q with
          code := (if 1024 ≤ q.code.length then q.code.drop 1 else q.code) ++ [l]
          codeWaits := q.codeWaits.filter fun w => !is_ w })

/-- Does TLBI name a translation (R148, R411)? -/
def tlbiHits (asid : Option (BitVec 16)) (va : Option (BitVec 48)) (t : Tlb) : Bool :=
  (match asid with
    | some a => t.asid == a
    | none => true) && (match va with
    | some v => decide (t.va.toNat ≤ v.toNat ∧ v.toNat < t.va.toNat + t.size)
    | none => true)

/-- Is an access out that used a translation and is not performed: an event at HBM, in the memory system or in a pair's buffer (R148, R278)? -/
def translatedOut (s : State) : Bool :=
  let held (e : BitVec 32 × Eff × Nat) : Bool := match e.2.1 with
    | .events l => l.any fun e => decide (e.key < vaultBase)
    | _ => false
  (s.memq.any fun e => decide (e.key < vaultBase)) || s.pairs.any fun p => p.buf.any held
/-- A TLBI takes effect (R148): the entries are gone, walks of its ASID end without a fill and start again, and faulted copies of the ASID are tried again (R183). -/
def invalidate (s : State) (asid : Option (BitVec 16)) (va : Option (BitVec 48)) : State :=
  let s := dropTlbs s (tlbiHits asid va) fun w => match asid with
    | some a => w.asid == a && (match va with
      | some v => v.toNat / 2 ^ levelShift w.level == w.va.toNat / 2 ^ levelShift w.level
      | none => true)
    | none => true
  let again (d : Copy) : Copy :=
    let mine := match asid with
      | some a => ((s.job d.job).map (·.asid)).getD 0 == a
      | none => true
    if d.faulted && mine then { d with faulted := false } else d
  let gone (w : WalkRun) : Bool := match asid with
    | some a => w.asid == a
    | none => true
  { s with
    clusters := s.clusters.map fun (x : Nat × Cluster) => (x.1, { x.2 with copies := x.2.copies.map again })
    chiplets := s.chiplets.map fun (x : Nat × Chiplet) => (x.1, { x.2 with walks := x.2.walks.filter fun w => !gone w }) }

/-- TLBI_COMPLETE (R148): once the accesses that used a translation are performed, it takes effect and the slot goes on. -/
def execTlbiComplete (core : CoreId) (slot : BitVec 2) (s : State) : Host.Outcome State Fault Refusal :=
  .next (match (s.slot core slot).st with
    | .stalled (.tlbi asid va _) => if translatedOut s then s else finish { invalidate s asid va with cur := (core, slot) }
    | _ => s)

end Sys2Proof.Machine
end

