-- ==== Sys2Proof/Machine/Jobs.lean ====
section
/-! DEFINITION. What firmware does to whole jobs: ending one (03 R69), topology events and notices (03 R73, 10 R291), fault
events to rank 0 (10 R268, 04 R109), page tables as trees (05 R140, R141), windows that close (R67). -/

namespace Sys2Proof.Machine

/-- A window of the part. -/
def windowAt (s : State) (n : Nat) : Option Window := s.eth.windows.look n
/-- A window changed. -/
def updWindow (s : State) (n : Nat) (f : Window → Window) : State :=
  { s with eth := { s.eth with windows := s.eth.windows.map fun (p : Nat × Window) => if p.1 = n then (n, f p.2) else p } }
/-- A record for one window's mailbox (R65). -/
def toMailbox (s : State) (n : Nat) (rec : List Byte) : State := updWindow s n fun w => { w with pendingRecs := w.pendingRecs ++ [rec] }

/-- The supervisor selector of a job's context on a core (R80, R112). -/
def supSelOf (s : State) (c : CoreId) (j : JobId) : BitVec 12 :=
  match (s.core c).leadOf j with
  | some i => ((s.ctxAt c i).map (·.supSel)).getD 0
  | none => ((s.job j).map (·.supSel)).getD 0

/-- Rank 0, core 0 of a job on this part. -/
def rankZero (s : State) (j : JobId) : Option CoreId := (rankEntry s j 0).map fun e => entryCluster e ++ (0 : BitVec 8)

/-- A fault event that firmware of a service cluster sends to the supervisor selector of rank 0, core 0 (R109, R268);
where that context cannot be reached the mailboxes take it (R109, R461). -/
def firmwareFault (s : State) (ch : BitVec 4) (j : JobId) (cause : Cause) (addr : Word64) : State :=
  match rankZero s j with
  | none => s
  | some c =>
    let a : FaultArg := { source := 7, slot := 0, tile := 0, row := 0, acc := 0, sub := 0, count := 0 }
    let src : CoreId := ch ++ (0 : BitVec 16)
    let m := Msg.checked { faultEvent s c j (supSelOf s c j) cause a addr with srcCore := src }
    if ((s.dir c j).map fun d => decide (d.st = .lost)).getD false then toMailboxes s j (returnedRec m) else putFlight s src m false

/-- A topology event's argument word (R291). -/
structure TopoArg where
  reason : BitVec 4
  cluster : ClusterId
  rank : BitVec 12
  clusters : BitVec 12
  orphans : Bool
  lost : Bool
deriving DecidableEq, Repr

/-- The word (R291). -/
def TopoArg.word (s : State) (a : TopoArg) : Word64 :=
  s.part ++ a.reason ++ a.cluster ++ a.rank ++ a.clusters ++ (0 : BitVec 6) ++ BitVec.ofBool a.orphans ++ BitVec.ofBool a.lost

/-- A topology event of firmware of 0.0.0 for every context of a job on the part, and the notice of R73 (R112, R291);
elems are the four elements. -/
def topology (s : State) (j : JobId) (a : Word64) (elems : List Word64) : State :=
  let ev (s : State) (c : CoreId) : Msg := Msg.formed {
    dstPart := s.part, dstCore := c, srcCore := 0, srcPart := s.part, vnet := 1, kind := 6, prio := 30, rcheck := 0, etag := false,
    job := j, sel := supSelOf s c j, tag := 0, pfmt := 7, seq := 0, residue := 0, aux := 0x42, arg := a, zeros := 0,
    retained := false, fixed := false, args := [], payload := elems.flatMap fun w => bytesOf 8 w.toNat }
  let cores := (s.fw.dirs.filter fun d => d.job == j && d.st != .absent && !d.trailing).map (·.core)
  let s := cores.foldl (fun s c => putFlight s 0 (ev s c) false) s
  toMailboxes s j (mailboxRec 6 0 j 0 0 a [])

/-- A topology event with nothing but a reason and a part (R47, R52, R285, R286). -/
def topologyPlain (s : State) (j : JobId) (reason : BitVec 4) (p : PartId) : State :=
  let n := ((s.job j).map fun x => x.ranks.length).getD 0
  let a : TopoArg := { reason := reason, cluster := 0, rank := 0, clusters := if reason = 4 ∨ reason = 5 then BitVec.ofNat 12 n else 0,
                       orphans := false, lost := false }
  topology s j (p ++ (TopoArg.word s a).extractLsb' 0 48) [0, 0, 0, 0]

/-- The entries of a table of a level that are not zero: their addresses and values. -/
def tableEntries (m : List Host.Cell) (base l : Nat) : List (Nat × Word64) :=
  let mine := m.filter fun c => decide (base ≤ c.1 ∧ c.1 < base + 8 * levelEntries l)
  ((mine.map fun c => c.1 / 8 * 8).eraseDups).map fun a => (a, BitVec.ofNat 64 (natOf (memBytes mine a 8)))

/-- The valid, well-formed entries of the tables under a table of level l: level, address, first VA and entry; n bounds the
levels left (R140, R141). -/
def tableWalk (m : List Host.Cell) : Nat → Nat → Nat → Nat → List (Nat × Nat × Nat × Word64)
  | 0, _, _, _ => []
  | n + 1, l, base, va =>
    (tableEntries m base l).flatMap fun (e : Nat × Word64) =>
      let p := pteOf e.2
      let v := va + (e.1 - base) / 8 * 2 ^ levelShift l
      if !p.valid || pteBad l p then []
      else (l, e.1, v, e.2) :: (if p.leaf then [] else tableWalk m n (l + 1) (pteNext p).toNat v)
/-- Every entry of an address space. -/
def spaceEntries (s : State) (root : Nat) : List (Nat × Nat × Nat × Word64) := tableWalk s.mem 4 1 root 0

/-- A context leaves its core: its handlers, queue entries and engine work (R69, R80). What it has sent stays (R106). -/
def dropContext (s : State) (c : CoreId) (i : BitVec 2) (j : JobId) : State :=
  let k := clusterOf c
  let s := slotIds.foldl (fun s t => if (s.slot c t).holds i then freeSlot s c t else s) s
  let s := s.updCluster k fun q => { q with
    ectxs := q.ectxs.filter fun e => !(e.core == c && e.ctx == i)
    wants := q.wants.filter fun w => !(w.1 == c && w.2 == i)
    copies := q.copies.filter fun d => !(d.core == c && d.ctx == i)
    heldPosts := q.heldPosts.filter fun e => !(e.core == c && e.job == j) }
  s.updCore c fun q => { q.setCtx i none with
    queue := q.queue.filter fun e => e.ctx != i
    replies := q.replies.filter fun h => !((q.slot h.slot).holds i) }

/-- Job end (R69): contexts, region, accumulators (R173), pages, windows and rkeys of the job are freed; its SENDAT
messages are discarded (R392); a frozen job is not resumed. Windows close once their replies are written (R67). -/
def endJob (s : State) (j : JobId) : State :=
  match s.job j with
  | none => s
  | some x =>
    let s := (s.cores.map fun (p : Nat × Core) => BitVec.ofNat 20 p.1).foldl (fun (s : State) (c : CoreId) =>
      let s := s.updCore c fun q => { q with timed := q.timed.filter fun o => o.msg.job != j, out := q.out.filter fun o => o.msg.job != j }
      match (s.core c).ctxOf j with
      | some i => dropContext s c i j
      | none => s) s
    let frames := (spaceEntries s (asidEntry s x.asid).root.toNat).filterMap fun (e : Nat × Nat × Nat × Word64) =>
      if (pteOf e.2.2.2).leaf then some (pteFrame (pteOf e.2.2.2)) else none
    let s := dropTlbs s (fun t => t.asid == x.asid) fun w => w.asid == x.asid
    let clean (q : Cluster) : Cluster := { q with
      code := q.code.filter fun l => l.asid != x.asid
      codeWaits := q.codeWaits.filter fun w => w.1 != x.asid
      misses := q.misses.filter fun m => m.asid != x.asid
      island := q.island.filter fun e => e.job != j
      faults := q.faults.filter fun f => f.asid != x.asid
      accs := q.accs.map fun (a : Acc) => if a.owner = some j then Acc.reset else a
      copies := q.copies.filter fun d => d.job != j }
    let rest (q : Chiplet) : Chiplet := { q with
      table := q.table.filter fun p => p.1 != x.asid
      walks := q.walks.filter fun w => w.asid != x.asid }
    let closeW (p : Nat × Window) : Nat × Window := if p.2.open_ && p.2.job == j then (p.1, { p.2 with closing := true }) else p
    let s := putAsid s x.asid { valid := false, harvest := false, root := 0, altRoot := 0 }
    { s with
      clusters := s.clusters.map fun (p : Nat × Cluster) => (p.1, clean p.2)
      chiplets := s.chiplets.map fun (p : Nat × Chiplet) => (p.1, rest p.2)
      fw := { s.fw with
        jobs := s.fw.jobs.filter fun y => y.id != j
        dirs := s.fw.dirs.filter fun d => d.job != j
        requests := s.fw.requests.filter fun r => r.2 != j
        freeFrames := s.fw.freeFrames ++ x.frames ++ frames }
      pairs := s.pairs.filter fun p => p.job != j
      eth := { s.eth with windows := s.eth.windows.map closeW, rkeys := s.eth.rkeys.filter fun r => r.job != j } }

/-- Records of the arrival ring outside the reserves of R91: 16 for eviction, 256 for kind 5, 16 for kinds 6 and 7. -/
def Dir.outside (d : Dir) : Nat :=
  let ev := (d.ring.filter (·.evict)).length
  let rest := d.ring.filter fun r => !r.evict
  let k5 := (rest.filter fun r => r.msg.kind == 5).length
  let k67 := (rest.filter fun r => r.msg.kind == 6 || r.msg.kind == 7).length
  (ev - 16) + (k5 - 256) + (k67 - 16) + (rest.length - k5 - k67)
/-- Is the arrival ring at quota (R99)? -/
def Dir.full (d : Dir) : Bool := decide (d.spillQ ≤ d.outside)
/-- Unreserved records of the frozen-arrival buffer in use (R256): 272 are kept for what VN-A brings. -/
def Dir.frozenUse (d : Dir) : Nat :=
  let q := (d.fbuf.filter fun r => r.msg.vnet == 0).length
  q + ((d.fbuf.length - q) - 272)

/-- A place in a job's overflow pool for one record: 204 records fill a 64 KiB page (R104, log 17); false when the pool is
empty. -/
def takeOverflow (s : State) (j : JobId) (held : Nat) : Bool × State :=
  if held % 204 ≠ 0 then (true, s)
  else
    match s.job j with
    | some x => if x.overflowLeft = 0 then (false, s) else (true, s.updJob j fun x => { x with overflowLeft := x.overflowLeft - 1 })
    | none => (false, s)

end Sys2Proof.Machine
end

