-- ==== Sys2Proof/Machine/Paging.lean ====
section
/-! DEFINITION. What firmware does to page tables (05 R140, R141, R148), replies to commands (03 R67), copy-on-write with generations
discarded where no frame is left (10 R284, R285). -/

namespace Sys2Proof.Machine

/-- A range of bytes set to zero. -/
def clearRange (m : List Host.Cell) (base n : Nat) : List Host.Cell := m.filter fun c => !(decide (base ≤ c.1 ∧ c.1 < base + n))

/-- The bytes of a range copied to another. -/
def copyRange (m : List Host.Cell) (src dst n : Nat) : List Host.Cell :=
  (m.filter fun c => decide (src ≤ c.1 ∧ c.1 < src + n)).foldl (fun m (c : Host.Cell) => memWrite m (c.1 - src + dst) c.2) (clearRange m dst n)

/-- An entry at an address of memory. -/
def entryAt (m : List Host.Cell) (a : Nat) : Word64 := BitVec.ofNat 64 (natOf (memBytes m a 8))

/-- The non-leaf entry for a table. -/
def linkTo (t : BitVec 52) : Word64 := (t.setWidth 64 &&& 0x000FFFFFFFFFFF00) ||| 1

/-- A leaf of level tl written for an address under a table of level l; tables that are missing are taken from a list and cleared.
None where a leaf of another level stands in the way or a table is missing; n bounds the levels left (R140). -/
def mapAt (tl : Nat) (va : BitVec 48) (leaf : Word64 → Word64) : Nat → Nat → Nat → List Host.Cell → List (BitVec 52) → Option (List Host.Cell × List (BitVec 52))
  | 0, _, _, _, _ => none
  | n + 1, l, table, m, ts =>
    let a := table + 8 * levelIndex l va
    let p := pteOf (entryAt m a)
    if l = tl then
      if p.valid && !p.leaf then none else some (memStore m a (bytesOf 8 (leaf (entryAt m a)).toNat), ts)
    else if p.valid then
      if p.leaf then none else mapAt tl va leaf n (l + 1) (pteNext p).toNat m ts
    else
      match ts with
      | [] => none
      | t :: ts =>
        let m := memStore (clearRange m t.toNat (8 * levelEntries (l + 1))) a (bytesOf 8 (linkTo t).toNat)
        mapAt tl va leaf n (l + 1) t.toNat m ts

/-- A copy of the tables under a table of level l, each into the next of a list (R283). -/
def copyTree : Nat → Nat → Nat → Nat → List Host.Cell × List (BitVec 52) → List Host.Cell × List (BitVec 52)
  | 0, _, _, _, acc => acc
  | n + 1, l, base, dst, acc =>
    (tableEntries acc.1 base l).foldl (fun (acc : List Host.Cell × List (BitVec 52)) (e : Nat × Word64) =>
      let p := pteOf e.2
      let a := e.1 - base + dst
      if !p.valid || pteBad l p || p.leaf then (memStore acc.1 a (bytesOf 8 e.2.toNat), acc.2)
      else
        match acc.2 with
        | [] => acc
        | t :: ts =>
          let m := memStore (clearRange acc.1 t.toNat (8 * levelEntries (l + 1))) a (bytesOf 8 (linkTo t).toNat)
          copyTree n (l + 1) (pteNext p).toNat t.toNat (m, ts)) acc

/-- Leaves of a table tree: level, entry's address, first VA, entry. -/
def spaceLeaves (s : State) (root : Nat) : List (Nat × Nat × Nat × Word64) := (spaceEntries s root).filter fun e => (pteOf e.2.2.2).leaf
/-- Frames that a tree's leaves name. -/
def framesOf (s : State) (root : Nat) : List (BitVec 52) := (spaceLeaves s root).map fun e => pteFrame (pteOf e.2.2.2)

/-- What a range of a job's GLOBAL space comes to for firmware, a gateway or the Ethernet block, which walk the tables themselves: keys
with the state after the walks, a fault, or a page that has to be copied first (R139 to R142, R284). -/
inductive Reach where
  | keys (f : Nat → Nat) (s : State)
  | fault (c : Cause)
  | wait (vpn : BitVec 32)

/-- The walks of a range, page by page; the walker sets A, and D for a write (R142). -/
def reachPages (asid : BitVec 16) (write : Bool) : List Nat → List (Nat × Nat) → State → Reach
  | [], acc, s => .keys (fun a => keyIn acc a) s
  | b :: l, acc, s =>
    let va : BitVec 48 := BitVec.ofNat 48 b
    let e := asidEntry s asid
    if !e.valid then .fault .xlate
    else
      match walkFrom s va 4 1 e.root.toNat [] with
      | .fault c _ => .fault c
      | .leaf lv at_ p _ =>
        let t := tlbOf asid va lv p.raw
        if write && !t.w then .fault .perm
        else if write && t.c && e.harvest then .wait (vpnOf va)
        else
          let w := (p.raw ||| 0x10) ||| (if write then 0x20 else 0)
          reachPages asid write l (acc ++ [(b, t.frame.toNat + (va.toNat - t.va.toNat))]) (if w = p.raw then s else putPte s at_ w)

/-- n bytes of a GLOBAL space from an address: keys by address. -/
def reach (s : State) (asid : BitVec 16) (a n : Nat) (write : Bool) : Reach :=
  if 2 ^ 48 < a + n then .fault .bounds else reachPages asid write (pagesOf a n) [] s

/-- n bytes read from a GLOBAL space, none where a page is missing. -/
def readSpace (s : State) (asid : BitVec 16) (a n : Nat) : Option (List Byte) :=
  match reach s asid a n false with
  | .keys f _ => some ((List.range n).map fun i => memRead s.mem (f (a + i)))
  | _ => none

/-- Bytes written at keys; units written whole are sound again (R266). -/
def writeKeys (s : State) (l : List (Nat × Byte)) : State :=
  let keys := l.map (·.1)
  let s := activateAll s keys
  { s with
    mem := l.foldl (fun m p => memWrite m p.1 p.2) s.mem
    hbm := freshUnits s.hbm keys (wholeUnits keys).contains }

/-- Is a command a job command (R67)? -/
def Cmd.ofJob (c : Cmd) : Bool :=
  [0x100, 0x110, 0x111, 0x112, 0x113, 0x114, 0x115, 0x120, 0x121, 0x130, 0x131, 0x132, 0x133].contains c.sel.toNat
/-- The target job of a job command (R67). -/
def Cmd.job (c : Cmd) : JobId := c.arg.extractLsb' 0 16
/-- Do two commands belong to one stream (R67)? -/
def Cmd.sameStream (a b : Cmd) : Bool := if Cmd.ofJob a then Cmd.ofJob b && Cmd.job a == Cmd.job b else !Cmd.ofJob b

/-- Do the service clusters run: the root of trust has released them (R27, R28)? -/
def State.serving (s : State) : Bool := s.rot.phase == .service || s.rot.phase == .testing

/-- Is a command received, of a selector, and the first of its stream (R67), and does firmware run (R27)? -/
def due (s : State) (c : Cmd) (sel : Nat) : Bool :=
  s.serving && c.sel.toNat == sel && s.fw.cmds.contains c && s.fw.cmds.all fun d => !(Cmd.sameStream d c) || decide (c.order ≤ d.order)

/-- The type 1 record of a command, which is over (R65, R67). -/
def reply (s : State) (c : Cmd) (status : Nat) (arg : Word64) (payload : List Byte) : State :=
  let s := { s with fw := { s.fw with cmds := s.fw.cmds.erase c } }
  updWindow s c.window fun w => { w with
    owed := w.owed - 1, pendingRecs := w.pendingRecs ++ [mailboxRec 1 status 0 c.sel c.tag (if status = 0 then arg else 0) payload] }

/-- Byte n of a command's payload, and fields of it; bytes that were not sent read as zero. -/
def Cmd.field (c : Cmd) (off n : Nat) : Nat := natOf ((List.range n).map fun i => c.payload.getD (off + i) 0)

/-- The generations that a job holds. -/
def Job.generations (x : Job) : List Generation := x.gens.1.toList ++ x.gens.2.toList
/-- The committed generation (R282). -/
def Job.committedGen (x : Job) : Option Generation := x.generations.find? fun g => some g.number == x.committed
/-- The harvested generation that is not committed (R282). -/
def Job.openGen (x : Job) : Option Generation := x.generations.find? fun g => some g.number != x.committed

/-- Leaves that a range of a space already has (R459). -/
def mappedIn (s : State) (root va len : Nat) : List (Nat × Nat × Nat × Word64) :=
  (spaceLeaves s root).filter fun e => decide (e.2.2.1 < va + len ∧ va < e.2.2.1 + 2 ^ levelShift e.1)

/-- Is a range free for firmware to give a job: whole in HBM, and in no table, mapping or other pool (R459)? -/
def rangeFree (s : State) (x : Job) (f size : Nat) : Bool :=
  let apart (g n : Nat) : Bool := decide (f + size ≤ g ∨ g + n ≤ f)
  let used (y : Job) : Bool :=
    let e := asidEntry s y.asid
    ((e.root.toNat :: if e.harvest then [e.altRoot.toNat] else []) ++ y.generations.map (·.root.toNat)).all fun r =>
      apart r 4096 && (spaceEntries s r).all fun q =>
        let p := pteOf q.2.2.2
        if p.leaf then apart (pteFrame p).toNat (2 ^ levelShift q.1) else apart (pteNext p).toNat 65536
  let areas (d : Dir) : Bool := d.trailing || (apart d.spill.toNat d.spillBytes && d.save.all fun g => apart g.toNat 65536)
  -- firmware's tables, the ASID table and the commit words (log 9)
  let firmware := apart 0 (2 ^ 22) && apart Config.asidTable 16384 && apart Config.commitWords (2 ^ 20)
  decide (f + size ≤ Config.deviceBase) && firmware && s.fw.dirs.all areas && s.fw.jobs.all used
    && s.fw.jobs.all fun y => y.id == x.id || y.frames.all fun g => apart g.toNat 65536

/-- May firmware give a frame of a size for a new page: aligned and free (R459)? -/
def frameFree (s : State) (x : Job) (f size : Nat) : Bool := decide (f % size = 0) && rangeFree s x f size

/-- May firmware give frames of 4 KiB for tables: free ones, no two the same, apart from other frames of a size (R459, R283)? -/
def tablesFree (s : State) (x : Job) (tables others : List (BitVec 52)) (size : Nat) : Bool :=
  tables.eraseDups.length == tables.length
    && tables.all fun t => frameFree s x t.toNat 4096 && others.all fun f => decide (t.toNat + 4096 ≤ f.toNat ∨ f.toNat + size ≤ t.toNat)

/-- First byte of a job's commit word (R282). -/
def commitKey (j : JobId) : Nat := Config.commitWords + 16 * j.toNat
/-- The commit word of a generation (R282): its number, the slot it lies in, the address of that slot's record. -/
def commitWord (j : JobId) (number : BitVec 32) (place : BitVec 1) : BitVec 128 :=
  (0 : BitVec 12) ++ Config.generationRecord j place ++ (0 : BitVec 31) ++ place ++ number
/-- The commit word of a job written with one 16 B store (R286). -/
def putCommit (s : State) (j : JobId) (w : BitVec 128) : State := { s with mem := memPut s.mem (commitKey j) (bytesOf 16 w.toNat) }

/-- A generation dropped: frames and tables that only it held are free (R285, R286). -/
def dropGen (s : State) (j : JobId) (g : Generation) : State :=
  match s.job j with
  | none => s
  | some x =>
    let keep (o : Option Generation) : Option Generation := o.filter fun h => h.number != g.number
    let rest := (keep x.gens.1).toList ++ (keep x.gens.2).toList
    let live := framesOf s (asidEntry s x.asid).root.toNat ++ rest.flatMap fun h => framesOf s h.root.toNat
    let own := ((framesOf s g.root.toNat).eraseDups).filter fun f => !live.contains f
    let tables := g.root :: ((spaceEntries s g.root.toNat).filter fun e => !(pteOf e.2.2.2).leaf).map fun e => pteNext (pteOf e.2.2.2)
    let s := s.updJob j fun x => { x with gens := (keep x.gens.1, keep x.gens.2), frames := x.frames ++ own }
    { s with fw := { s.fw with freeFrames := s.fw.freeFrames ++ tables } }

/-- The open generation goes (R18, R285); harvest stays set while a committed one is left. -/
def discardOpen (s : State) (x : Job) (g : Generation) : State :=
  let s := dropGen s x.id g
  let c := x.committedGen
  let e := { asidEntry s x.asid with harvest := c.isSome, altRoot := (c.map (·.root)).getD 0 }
  putAsid s x.asid e

/-- Firmware has no frame for a copy (R285): the open generation goes, or else the committed one, which clears harvest. Every context
receives a topology event of reason 4. -/
def discardGeneration (s : State) (j : JobId) : State :=
  match s.job j with
  | none => s
  | some x =>
    match x.openGen, x.committedGen with
    | none, none => s
    | some g, _ => topologyPlain (discardOpen s x g) j 4 s.part
    | none, some g =>
      let s := putCommit ((dropGen s j g).updJob j fun x => { x with committed := none }) j 0
      let e := { asidEntry s x.asid with harvest := false, altRoot := 0 }
      topologyPlain (putAsid s x.asid e) j 4 s.part

/-- The job whose address space an ASID is. -/
def jobOfAsid (s : State) (asid : BitVec 16) : Option Job := s.fw.jobs.find? fun x => x.asid == asid

/-- The frames that a copy of a page of a size may take: those of the job's pool, or of firmware's where the pool has none (R284, R285). -/
def copyFrames (s : State) (x : Job) (size : Nat) : List (BitVec 52) :=
  match x.frames.filter fun f => frameFree s x f.toNat size with
  | [] => s.fw.freeFrames.filter fun f => frameFree s x f.toNat size
  | l => l
/-- The first of them. -/
def copyFrame (s : State) (x : Job) (size : Nat) : Option (BitVec 52) := (copyFrames s x size).head?
/-- A range of memory is in use: no pool lists a frame in it. -/
def takeRange (s : State) (x : JobId) (base size : Nat) : State :=
  let out (f : BitVec 52) : Bool := !decide (base ≤ f.toNat ∧ f.toNat < base + size)
  { s with fw := { s.fw with freeFrames := s.fw.freeFrames.filter out } }.updJob x fun y => { y with frames := y.frames.filter out }

/-- A committed page is copied before it is written (R284): to a frame of the job's pool or, where that is empty, of firmware's (R285); its
leaf is rewritten, its translations are removed. Where neither has a frame, a generation goes. -/
def copyPage (s : State) (asid : BitVec 16) (va : BitVec 48) (pick : State → Job → Nat → Option (BitVec 52)) : State :=
  match jobOfAsid s asid with
  | none => s
  | some x =>
    -- the walker reads the entry itself, not a cached translation
    match walkFrom s va 4 1 (asidEntry s asid).root.toNat [] with
    | .fault _ _ => s
    | .leaf l at_ p _ =>
      let t := tlbOf asid va l p.raw
      if !t.w || !t.c || !(asidEntry s asid).harvest then s
      else if (copyFrames s x t.size).isEmpty then discardGeneration s x.id
      else
        match pick s x t.size with
        | none => s
        | some frame =>
          let moved (l : List Nat) : List Nat :=
            (l.filter fun u => decide (t.frame.toNat ≤ u ∧ u < t.frame.toNat + t.size)).map fun u => u - t.frame.toNat + frame.toNat
          let h := freshRange s.hbm frame.toNat t.size
          let s := { s with mem := copyRange s.mem t.frame.toNat frame.toNat t.size, hbm := { h with bad := h.bad ++ moved s.hbm.bad } }
          let s := takeRange s x.id frame.toNat t.size
          let w := (p.raw &&& 0xFFF000000000FFBF) ||| frame.setWidth 64 ||| 0x20
          let s := putPte s at_ w
          dropTlbs s (fun u => u.asid == asid && decide (u.va.toNat < t.va.toNat + t.size ∧ t.va.toNat < u.va.toNat + u.size)) fun _ => false

/-- COPY_ON_WRITE (R284, R285): a write waits for a committed page; the frame is firmware's choice among those of its pools. -/
def execCopyOnWrite (asid : BitVec 16) (vpn : BitVec 32) (frame : BitVec 52) (s : State) : Host.Outcome State Fault Refusal :=
  .next (
    let waiting := s.clusters.any fun (x : Nat × Cluster) => x.2.misses.any fun m => m.asid == asid && m.vpn == vpn && m.write
    let pick (s : State) (x : Job) (size : Nat) : Option (BitVec 52) :=
      if (copyFrames s x size).contains frame then some frame else none
    if !waiting then s else copyPage s asid (vpn ++ (0 : BitVec 16)) pick)

/-- A range written by a gateway's or the Ethernet block's own walk: committed pages are copied as they are met, n of them at most. -/
def reachCopy : Nat → State → BitVec 16 → Nat → Nat → Reach
  | 0, s, asid, a, len => reach s asid a len true
  | n + 1, s, asid, a, len =>
    match reach s asid a len true with
    | .wait v => reachCopy n (copyPage s asid (v ++ (0 : BitVec 16)) copyFrame) asid a len
    | r => r

end Sys2Proof.Machine
end

