-- ==== Sys2Proof/Machine/Arrival.lean ====
section
/-! DEFINITION. The mesh and the NI's receive side (04 R75, R87 to R92, R99 to R106, R461, 09 R256, 10 R267 to R274, R290):
a hop, an arrival of each kind, returns and re-sends, arrival rings that drain. -/

namespace Sys2Proof.Machine

/-- A message in flight by number. -/
def flightOf (s : State) (id : Nat) : Option Flight := s.mesh.flights.find? fun f => f.id == id
/-- A message leaves the mesh. -/
def dropFlight (s : State) (id : Nat) : State := { s with mesh := { s.mesh with flights := s.mesh.flights.filter fun f => f.id != id } }

/-- What the path hash is taken of (R33): the 64 B line of a built-in request's address, else the destination core; a built-in REPLY too goes by its
destination core, for it carries no address (log 16). -/
def pathLine (m : Msg) : Nat := if m.kind = 11 ∧ m.vnet = 0 then bitsOf m.arg.toNat 43 6 else m.dstCore.toNat
/-- h of R33. -/
def pathHash (line : Nat) : Nat := (bitsOf line 7 0) ^^^ (bitsOf line 15 8) ^^^ (bitsOf line 23 16) ^^^ (bitsOf line 31 24) ^^^ (bitsOf line 37 32)
/-- Ports of a set in ascending order (R32). -/
def portsOf (set : BitVec 12) : List Nat := (List.range 12).filter fun p => set.getLsbD p
/-- The gateway that a message uses from this part to a destination part (R33); a built-in operation for the own part takes
one of the 48 by the same hash (R136, log 16). -/
def gatewayOf (s : State) (m : Msg) : Option Nat :=
  let h := pathHash (pathLine m)
  let ports := if m.dstPart = s.part then List.range 12 else portsOf ((s.lam.sets.look m.dstPart.toNat).getD 0)
  if ports = [] then none else some (4 * ports.getD (h % ports.length) 0 + bitsOf h 7 6)

/-- Is a message one that a gateway of this part takes: for another part, or a built-in request (R74)? -/
def forGateway (s : State) (m : Msg) : Bool := m.dstPart != s.part || (m.kind == 11 && m.vnet == 0)
/-- Where the mesh carries a message (R74, R267). -/
def targetOf (s : State) (m : Msg) : Option CoreId :=
  if forGateway s m then (gatewayOf s m).map Config.gatewayCore else some m.dstCore

/-- The number of a ring for one virtual network: dimension, direction, line (R105). -/
def ringNo (d plus : Bool) (line : Nat) (vn : BitVec 1) : Nat := ((line * 2 + d.toNat) * 2 + plus.toNat) * 2 + vn.toNat
/-- Line and place of a flight in a dimension. -/
def Flight.line (f : Flight) (d : Bool) : Nat := if d then f.x else f.y
/-- Its place along a dimension. -/
def Flight.pos (f : Flight) (d : Bool) : Nat := if d then f.y else f.x
/-- Is the buffer at a place of a ring free? -/
def bufferFree (s : State) (d plus : Bool) (line pos : Nat) (vn : BitVec 1) : Bool :=
  !(s.mesh.flights.any fun f => f.ring == some (d, plus) && f.line d == line && f.pos d == pos && f.vn == vn)
/-- The nearest free buffer of a ring behind a place. -/
def freeBehind (s : State) (d plus : Bool) (line pos : Nat) (vn : BitVec 1) : Option Nat :=
  ((List.range 1023).map fun k => (pos + (if plus then 1023 - k else k + 1)) % 1024).find? fun p => bufferFree s d plus line p vn
/-- The place of a ring's marked buffer. -/
def markOf (s : State) (n : Nat) : Nat := (s.mesh.marks.look n).getD 0

/-- ROUTE_CHECK_FAILURE (R268): the message is gone, the failure counted, and a job with a region told. -/
def routeFail (s : State) (k : ClusterId) (m : Msg) : State :=
  let s := s.updCluster k fun q => { q with route := Nat.min 255 (q.route + 1), wear := q.wear.route s.now.toNat }
  if (s.job m.job).isSome then firmwareFault s (chipletOf k) m.job .ue ((flit0 m).extractLsb' 64 64) else s

/-- The cluster of a mesh place (R4). -/
def clusterAt (x y : Nat) : ClusterId := BitVec.ofNat 12 ((y / 256 * 4 + x / 256) * 256 + y / 16 % 16 * 16 + x / 16 % 16)

/-- Do two messages belong to one flow: from one source, on one network, to one core or, as built-in requests, to one line (R34, R107, R231)? -/
def Flight.sameFlow (f g : Flight) : Bool :=
  f.msg.srcPart == g.msg.srcPart && f.msg.srcCore == g.msg.srcCore && f.vn == g.vn && f.host == g.host && f.msg.dstPart == g.msg.dstPart
    && f.msg.dstCore == g.msg.dstCore && (f.msg.kind == 11) == (g.msg.kind == 11) && (f.msg.kind != 11 || pathLine f.msg == pathLine g.msg)
/-- Is an earlier message of its flow before a message: at its place, or on its way round a ring that it would enter the other way (log 51)? -/
def blockedBy (s : State) (f : Flight) (enters : Option (Bool × Bool)) : Bool :=
  s.mesh.flights.any fun g => decide (g.id < f.id) && Flight.sameFlow f g
    && ((g.x == f.x && g.y == f.y) || (match enters, g.ring with
      | some (d, p), some (e, q) => d == e && p != q
      | _, _ => false))

/-- ROUTER_FORWARD (R105, R267): one hop, along X first. A new ring is entered only into a free buffer that is not the
marked one; a message that travels in the ring may take the marked one, and leaves it the mark. No message passes an earlier one of its flow (R34). Where a message waits for the marked buffer
and the ring has another free one, the mark goes there first (log 16). -/
def execRouterForward (id : Nat) (plus : Bool) (s : State) : Host.Outcome State Fault Refusal :=
  .next (match flightOf s id with
    | none => s
    | some f =>
      match (if f.host then none else targetOf s f.msg) with
      | none => s
      | some t =>
        let tx := meshX t
        let ty := meshY t
        let offPath := f.x != tx && f.msg.srcPart == s.part && f.y != meshY f.msg.srcCore
        if f.x = tx ∧ f.y = ty then s
        else if !Msg.headerOk f.msg || offPath then routeFail (dropFlight s id) (clusterAt f.x f.y) f.msg
        else
          let d := f.x == tx
          let (dir, inRing) := match f.ring with
            | some (e, p) => if e = d then (p, true) else (plus, false)
            | none => (plus, false)
          let next := (f.pos d + (if dir then 1 else 1023)) % 1024
          let n := ringNo d dir (f.line d) f.vn
          let marked := markOf s n == next
          if !bufferFree s d dir (f.line d) next f.vn || blockedBy s f (if inRing then none else some (d, dir)) then s
          else if marked && !inRing then
            match freeBehind s d dir (f.line d) next f.vn with
            | some m => { s with mesh := { s.mesh with marks := s.mesh.marks.put n m } }
            | none => s
          else
            let g := if d then { f with y := next, ring := some (d, dir) } else { f with x := next, ring := some (d, dir) }
            { s with mesh := { s.mesh with
              flights := s.mesh.flights.map fun h => if h.id = id then g else h
              marks := if marked then s.mesh.marks.put n (f.pos d) else s.mesh.marks } })

/-- Does the residue of a message's payload agree (R263, R264)? -/
def Msg.residueOk (m : Msg) : Bool := (if m.residue = 0xFF then 0 else m.residue) == payloadResidue m.payload
/-- A message with its error tag set, its route check formed again (R266, R267). -/
def Msg.tagged (m : Msg) : Msg := Msg.checked { m with etag := true }

/-- May a message of a kind become an entry of an inbound queue, as it is or as the fault event that the NI makes of it (R90, R101, R242)? -/
def Msg.mayQueue (m : Msg) : Bool := !([1, 2, 3, 4, 8].contains m.kind.toNat) && !(m.kind == 11)
/-- A message at its NI: taken off the mesh if it has reached its core, in its flow's order, and is of the kinds asked for, discarded where header,
vnet or zero fields fail (R75), tagged where its residue fails (R266). What may enter the queue waits for the next cycle where the NI has made its entry of
this one (R94). -/
def takeArrival (s : State) (id : Nat) (kinds : Msg → Bool) (go : State → CoreId → Msg → State) : State :=
  match flightOf s id with
  | none => s
  | some f =>
    let m := f.msg
    if f.host || forGateway s m || f.x != meshX m.dstCore || f.y != meshY m.dstCore || !kinds m || blockedBy s f none || (Msg.mayQueue m && !niFree s m.dstCore) then s
    else
      let s := dropFlight s id
      if !Msg.headerOk m || !Msg.netOk m then routeFail s (clusterOf m.dstCore) m
      else
        let s := if Msg.residueOk m then s else countResidue s (clusterOf m.dstCore) 1
        go s m.dstCore (if Msg.residueOk m || m.retained then m else Msg.tagged m)

/-- Is a core one of the host proxies of the Ethernet ports (R63)? -/
def isProxy (c : CoreId) : Bool := decide (240 ≤ c.toNat ∧ c.toNat ≤ 243)

/-- The fate of an arrival on VN-Q (R89, R99, R100, R256, R290). -/
inductive Fate where
  | orphan | back | ring | refuse | fold | frozen | refuseFrozen | apply | queue
deriving DecidableEq, Repr

/-- Is a core of a retired cluster that a job held (R290)? -/
def orphaned (s : State) (c : CoreId) (j : JobId) : Bool :=
  (s.cluster (clusterOf c)).retired && ((s.job j).map fun x => x.region.contains (clusterOf c)).getD false

/-- R89's rows. -/
def fateOf (s : State) (c : CoreId) (m : Msg) : Fate :=
  let k := s.core c
  let spill (d : Dir) : Fate := if d.full then (if m.kind = 0 then .refuse else .fold) else .ring
  if orphaned s c m.job then .orphan
  else
    match s.dir c m.job with
    | none => .back
    | some d =>
      match (k.leadOf m.job).bind k.ctx with
      | some x =>
        if x.st ≠ .active then spill d
        else if x.frozen then (if d.frozenUse < 752 then .frozen else if m.kind = 0 then .refuseFrozen else .fold)
        else if d.diverting then spill d
        else if m.kind ≠ 0 then .apply
        else if k.queue.length < Config.queueEntries then .queue
        else .ring
      | none => if d.st = .evicted ∨ d.st = .lost then spill d else .back

/-- Bytes of a job's orphan buffer read through its GLOBAL pointer (R290). -/
def orphanRead (s : State) (x : Job) (o n : Nat) : List Byte :=
  let a := (x.orphanPtr.extractLsb' 0 48).toNat + o
  match reach s x.asid a n false with
  | .keys f t => (List.range n).map fun i => memRead t.mem (f (a + i))
  | _ => List.replicate n 0
/-- Bytes written there; a committed page is copied first (R284). -/
def orphanWrite (s : State) (x : Job) (o : Nat) (l : List Byte) : State :=
  let a := (x.orphanPtr.extractLsb' 0 48).toNat + o
  match reachCopy 2 s x.asid a l.length with
  | .keys f t => writeKeys t (l.zipIdx.map fun p => (f (a + p.2), p.1))
  | _ => s
/-- Records that the orphan buffer holds (R290). -/
def orphanCount (s : State) (x : Job) : Nat := natOf (orphanRead s x 4 4)
/-- A count in the header of the orphan buffer one higher (R290): 12 refused, 16 unreadable. -/
def orphanBump (s : State) (x : Job) (o : Nat) : State := orphanWrite s x o (bytesOf 4 (natOf (orphanRead s x o 4) + 1))
/-- An orphan record of a type, or its return when the buffer is full (R290); what came on VN-A goes to the mailboxes instead
(R461). -/
def orphanPut (s : State) (c : CoreId) (r : SpillRec) (type : Nat) : State :=
  match s.job r.msg.job with
  | none => s
  | some x =>
    let n := orphanCount s x
    if n < 4096 then
      let place := (natOf (orphanRead s x 0 4) + n) % 4096
      orphanWrite (orphanWrite s x (64 + 320 * place) (recordBytes r.msg r.stamp type)) x 4 (bytesOf 4 (n + 1))
    else
      let s := orphanBump s x 12
      if type = 2 then s else if r.msg.vnet = 0 then sendBack s c r.msg 10 else toMailboxes s x.id (returnedRec r.msg)

/-- Is a job's orphan buffer full (R290)? -/
def orphanFull (s : State) (j : JobId) : Bool := ((s.job j).map fun x => decide (4096 ≤ orphanCount s x)).getD false

/-- A counter add or flag set applied to a context (R87). -/
def applySignal (k : Ctx) (m : Msg) : Ctx :=
  let n : BitVec 4 := m.aux.setWidth 4
  if m.kind = 1 then k.setCval n (k.cvalAt n + m.arg.setWidth 32) else { k with flags := putBit16 k.flags n true }
/-- Folded into pend_add or pend_flags (R100). -/
def Dir.fold (d : Dir) (m : Msg) : Dir :=
  let n : BitVec 4 := m.aux.setWidth 4
  if m.kind = 1 then { d with pendAdd := d.pendAdd.set n.toNat (d.pendAdd[n.toNat]'(by have := n.isLt; omega) + m.arg.setWidth 32) (by have := n.isLt; omega) }
  else { d with pendFlags := putBit16 d.pendFlags n true }

/-- The UE event for a tagged counter add or flag set (R270): element 0 holds where it came from. -/
def signalUe (s : State) (c : CoreId) (m : Msg) : State :=
  let a : FaultArg := { source := 5, slot := 0, tile := 0, row := 0, acc := 0, sub := 0x08, count := 0 }
  sendFault s c m.job .ue a (m.srcCore ++ m.srcPart ++ (0 : BitVec 28))

/-- REFUSAL (R99): the context is refusing, the source listed, the message sent back as a NACK. -/
def refuse (s : State) (c : CoreId) (m : Msg) (frozen : Bool) : State :=
  let s := s.updDir c m.job fun d => { d with
    refusing := true
    byBuffer := if d.refusing then d.byBuffer else frozen
    refused := if d.refused.length < 1024 then d.refused ++ [(m.srcPart, m.srcCore)] else d.refused
    frefused := if frozen then d.frefused + 1 else d.frefused }
  sendBack s c m 3

/-- A retain acknowledgement (R272, R273). -/
def retainAck (s : State) (c : CoreId) (m : Msg) (aux : BitVec 8) : State :=
  putFlight s c (Msg.formed { m with
    dstPart := m.srcPart, dstCore := m.srcCore, srcPart := s.part, srcCore := c, vnet := 1, kind := 9, aux := aux, payload := [], pfmt := 0,
    etag := false, arg := 0, retained := false, fixed := true }) false

/-- A VN-Q message of kind 0, 1 or 2 meets its context (R89). -/
def arriveQ (s : State) (c : CoreId) (m : Msg) : State :=
  let r : SpillRec := { msg := m, stamp := if m.kind = 0 then s.clk.cycle else 0, w := 0, evict := false }
  let count := ((s.job m.job).map (·.frost.count)).getD 0
  let i := ((s.core c).leadOf m.job).getD 0
  if m.kind ≠ 0 ∧ 16 ≤ m.aux.toNat then sendBack s c m 10
  else
    match fateOf s c m with
    | .back => sendBack s c m 10
    | .refuse => refuse s c m false
    | .refuseFrozen => refuse s c m true
    | fate =>
      if m.kind ≠ 0 ∧ m.etag then (if fate = .orphan then orphanPut s c r 0 else signalUe s c m)
      else if m.retained ∧ (m.etag || !Msg.residueOk m) then retainAck s c m 1
      else
        let s0 := s
        let s := match fate with
          | .orphan => orphanPut s c r 0
          | .ring => ringAppend s c m.job r
          | .fold => s.updDir c m.job fun d => d.fold m
          | .frozen => frozenAppend s c m.job count r
          | .apply => s.updCtx c i fun k => applySignal k m
          | .queue => enqueue s c i m s.clk.cycle 0 false
          | _ => s
        if m.retained && !(fate == .orphan && orphanFull s0 m.job) then retainAck s c m 0 else s

/-- The command that a kind 8 message relays (R75), its core found from the rank table of this part (log 47). -/
def relayed (s : State) (m : Msg) : Option FrostCtl :=
  let j : JobId := m.arg.extractLsb' 0 16
  match m.sel.toNat with
  | 0x130 => some (.frost j)
  | 0x131 => some (.read j)
  | 0x132 => (rankEntry s j (m.arg.extractLsb' 16 12).toNat).map fun e => .step j (entryCluster e ++ m.arg.extractLsb' 28 8) (m.arg.extractLsb' 36 2) (m.arg.getLsbD 38)
  | 0x133 => some (.resume j (BitVec.ofNat 64 (natOf (m.payload.take 8))))
  | _ => none

/-- HANDLER_MESSAGE_ARRIVAL (R89): kind 0 at its NI. Management records reach the firmware of 0.0.0, which keeps them as
commands in order of receipt (R63, R67), and so do the commands that other parts relay (R75). Kinds 12 to 15 go back (R75); of those on VN-A none is returned
(R461), and the message is gone (log 49). -/
def execHandlerMessageArrival (id : Nat) (s : State) : Host.Outcome State Fault Refusal :=
  .next (takeArrival s id (fun m => m.kind == 0 || m.kind == 8 || decide (12 ≤ m.kind.toNat)) fun s c m =>
    if m.kind = 8 then
      if c ≠ 0 ∨ m.job ≠ 0 then sendBack s c m 10
      else { s with fw := { s.fw with relays := s.fw.relays ++ (relayed s m).toList } }
    else if m.kind ≠ 0 then (if m.vnet = 0 then sendBack s c m 10 else s)
    else if m.job = 0 ∧ c = 0 ∧ isProxy m.srcCore = true ∧ m.srcPart = s.part then
      let cmd : Cmd := { order := s.fw.orders, window := m.seq.toNat, sel := m.sel, tag := m.tag, arg := m.arg, payload := m.payload }
      { s with fw := { s.fw with orders := s.fw.orders + 1, cmds := s.fw.cmds ++ [cmd] } }
    else arriveQ s c m)

/-- COUNTER_ADD (R87, R89). -/
def execCounterAdd (id : Nat) (s : State) : Host.Outcome State Fault Refusal := .next (takeArrival s id (fun m => m.kind == 1) arriveQ)
/-- FLAG_SET (R87, R89). -/
def execFlagSet (id : Nat) (s : State) : Host.Outcome State Fault Refusal := .next (takeArrival s id (fun m => m.kind == 2) arriveQ)

/-- A message for a context on VN-A meets it (R101, R461). -/
def arriveA (s : State) (c : CoreId) (m : Msg) : State :=
  if orphaned s c m.job then orphanPut s c { msg := m, stamp := 0, w := 0, evict := false } 0 else deliverVnA s c m

/-- Messages that a held destination kept are sent again in ring order, and the hold is over (R102). They are output of
the context, which waits while it is frozen (R254). -/
def resend (s : State) (c : CoreId) (j : JobId) (part : PartId) (dst : CoreId) : State :=
  match s.dir c j with
  | none => s
  | some d =>
    let words := (d.holds.filter fun h => h.part == part && h.core == dst).map (·.word)
    let mine (m : Msg) : Bool := m.dstPart == part && words.contains m.dstCore
    let gone := (d.ret.takeWhile mine).length
    let s := s.updDir c j fun d => { d with
      ret := d.ret.filter fun m => !mine m
      rHead := (d.rHead + gone) % Nat.max 1 d.spillQ
      overflow := d.overflow.filter fun m => !mine m
      holds := d.holds.filter fun h => !(h.part == part && h.core == dst) }
    let out (m : Msg) : OutMsg := { msg := m, slot := 0, uid := 0, evs := [], posts := [], at_ := none, route := false, loop := false, asIs := true, stepped := false, ord := 0 }
    flushOut (s.updCore c fun k => { k with out := k.out ++ (((d.ret ++ d.overflow).filter mine).map out) }) c

/-- The same for the initial messages that firmware of 0.0.0 injected (R324). -/
def resendInitial (s : State) (j : JobId) (part : PartId) (dst : CoreId) : State :=
  match s.job j with
  | none => s
  | some x =>
    let words := (x.fwHolds.filter fun h => h.part == part && h.core == dst).map (·.word)
    let mine (m : Msg) : Bool := m.dstPart == part && words.contains m.dstCore
    let s := s.updJob j fun x => { x with
      fwRet := x.fwRet.filter fun m => !mine m
      fwHolds := x.fwHolds.filter fun h => !(h.part == part && h.core == dst) }
    (x.fwRet.filter mine).foldl (fun s m => putFlight s 0 m false) s

/-- The message that a NACK brings back, as it is sent again to where it was sent (R102): on another part the route word's rank and core index, which the
gateway there resolves (R40). -/
def Msg.again (m : Msg) (word : Option CoreId) : Msg :=
  Msg.checked { m with
    dstPart := m.srcPart, dstCore := word.getD m.srcCore, srcPart := m.dstPart, srcCore := m.dstCore, vnet := 0, kind := 0, fixed := word.isNone }

/-- A destination held from now on, its wait begun anew (R102). -/
def holdFor (l : List Hold) (part : PartId) (core word : CoreId) (now : Nat) : List Hold :=
  (l.filter fun h => !(h.part == part && h.core == core && h.word == word)) ++ [{ part := part, core := core, word := word, since := now }]

/-- NACK (R102, R104): to the sender's return ring, behind it to an overflow page; without one the job ends. A proxy's window
stops (R63); an initial message goes back to firmware (R324); an absent sender's goes the way of R461. -/
def execNack (id : Nat) (s : State) : Host.Outcome State Fault Refusal :=
  .next (takeArrival s id (fun m => m.kind == 3) fun s c m =>
    let far := m.srcPart != s.part
    if isProxy c then
      let sent := (windowAt s m.seq.toNat).bind fun w => w.abroad.find? fun p => p.2.dstPart == m.srcPart && p.2.sel == m.sel && p.2.tag == m.tag && p.2.arg == m.arg
        && p.2.job == m.job && p.2.payload == m.payload
      let g := Msg.again m (if far then sent.map (·.2.dstCore) else none)
      updWindow s m.seq.toNat fun w => { w with
      nacked := (w.nacked.map fun p => if p.1.dstPart = g.dstPart ∧ p.2.1 = m.srcCore then (p.1, m.srcCore, s.clk.cycle) else p) ++ [(g, m.srcCore, s.clk.cycle)], stopped := true }
    else
      match s.dir c m.job with
      | some d =>
        let g := Msg.again m (if far then d.sentTo.look (sentNo m) else none)
        if d.st = .absent then toMailboxes s m.job (returnedRec m)
        else
          let held (d : Dir) : Dir := { d with holds := holdFor d.holds m.srcPart m.srcCore g.dstCore s.clk.cycle }
          if d.ret.length < d.spillQ ∧ d.overflow = [] then s.updDir c m.job fun d => held { d with ret := d.ret ++ [g] }
          else
            match takeOverflow s m.job d.overflow.length with
            | (true, s) => s.updDir c m.job fun d => held { d with overflow := d.overflow ++ [g] }
            | (false, s) => endJob (toMailboxes s m.job (returnedRec m)) m.job
      | none =>
        if c = 0 then
          let sent (x : Job) : Option CoreId := (x.initial[m.seq.toNat]?).map fun r => (routeOf r.route).core
          s.updJob m.job fun x =>
            let g := Msg.again m (if far then sent x else none)
            { x with fwRet := x.fwRet ++ [g], fwHolds := holdFor x.fwHolds m.srcPart m.srcCore g.dstCore s.clk.cycle }
        else toMailboxes s m.job (returnedRec m))

/-- What a proxy's windows keep for a destination goes again, in order, and a window that keeps nothing more goes on (R63, R102). -/
def resendWindows (s : State) (c : CoreId) (part : PartId) (dst : CoreId) : State :=
  let mine (p : Msg × CoreId × Nat) : Bool := p.1.dstPart == part && p.2.1 == dst && p.1.srcCore == c
  let go (s : State) (p : Nat × Window) : State :=
    let l := p.2.nacked.filter mine
    if l.isEmpty then s
    else
      let rest := p.2.nacked.filter fun q => !mine q
      l.foldl (fun s q => putFlight s c q.1 false) (updWindow s p.1 fun w => { w with nacked := rest, stopped := !rest.isEmpty })
  s.eth.windows.foldl go s

/-- SPACE_NOTICE (R102, R103): what waits for the destination goes again. A stopped window goes on with its message
(R63). -/
def execSpaceNotice (id : Nat) (s : State) : Host.Outcome State Fault Refusal :=
  .next (takeArrival s id (fun m => m.kind == 4) fun s c m =>
    if isProxy c then resendWindows s c m.srcPart m.srcCore
    else if (s.dir c m.job).isSome then resend s c m.job m.srcPart m.srcCore
    else if c = 0 then resendInitial s m.job m.srcPart m.srcCore
    else s)

/-- NACK_HOLD_TIMEOUT (R102): 65,536 cycles after the last NACK; a host proxy is a source like another (R63, R103). -/
def execNackHoldTimeout (core : CoreId) (job : JobId) (part : PartId) (dst : CoreId) (s : State) : Host.Outcome State Fault Refusal :=
  let due (l : List Hold) : Bool := l.any fun h => h.part == part && h.core == dst && decide (h.since + 65536 ≤ s.clk.cycle)
  let late (w : Window) : Bool := w.nacked.any fun p => p.1.srcCore == core && p.1.dstPart == part && p.2.1 == dst && decide (p.2.2 + 65536 ≤ s.clk.cycle)
  .next (
    if isProxy core then (if s.eth.windows.any fun p => late p.2 then resendWindows s core part dst else s)
    else
      match s.dir core job with
      | some d => if due d.holds then resend s core job part dst else s
      | none => match s.job job with
        | some x => if core = 0 ∧ due x.fwHolds = true then resendInitial s job part dst else s
        | none => s)

/-- A reply credit comes back to a context (R393); while it is not resident, to its image (R413). -/
def giveCredit (s : State) (c : CoreId) (j : JobId) : State :=
  match (s.core c).leadOf j with
  | some i => s.updCtx c i fun k => { k with credits := Nat.min Config.replyCredits (k.credits + 1) }
  | none => match s.dir c j with
    | some d =>
      if d.st = .evicted then
        let n := natOf (memBytes s.mem (d.saveKey 310) 2)
        { s with mem := memPut s.mem (d.saveKey 310) (bytesOf 2 (Nat.min Config.replyCredits (n + 1))) }
      else s
    | none => s

/-- COMPLETION (R101, R164, R393): a completion or reply for its context, or for the mailbox of a proxy's window (R63). A
reply beyond the ring's room takes an overflow record, and without one the job ends (R393, R104). -/
def execCompletion (id : Nat) (s : State) : Host.Outcome State Fault Refusal :=
  .next (takeArrival s id (fun m => m.kind == 5) fun s c m =>
    if isProxy c then toMailbox s m.seq.toNat (mailboxRec 2 0 m.job m.sel m.tag m.arg m.payload)
    else
      let s := if m.sel = 0xFFF then giveCredit s c m.job else s
      match s.dir c m.job with
      | some d =>
        if d.spillQ + 288 ≤ d.ring.length then
          match takeOverflow s m.job (d.ring.length - (d.spillQ + 288)) with
          | (true, s) => arriveA s c m
          | (false, s) => endJob (toMailboxes s m.job (returnedRec m)) m.job
        else arriveA s c m
      | none => arriveA s c m)

/-- TOPOLOGY_EVENT (R291, R101). One of another part writes this part's notice of R73 too, once for the job: with its arrival at the first of the
job's contexts (log 50). -/
def execTopologyEvent (id : Nat) (s : State) : Host.Outcome State Fault Refusal :=
  .next (takeArrival s id (fun m => m.kind == 6) fun s c m =>
    let first := (s.fw.dirs.find? fun d => d.job == m.job && !d.trailing).map (·.core)
    let s := arriveA s c m
    if m.srcPart ≠ s.part ∧ first = some c then toMailboxes s m.job (mailboxRec 6 0 m.job 0 0 m.arg []) else s)
/-- FAULT_EVENT (R241, R243). -/
def execFaultEvent (id : Nat) (s : State) : Host.Outcome State Fault Refusal := .next (takeArrival s id (fun m => m.kind == 7) arriveA)

/-- The count field of an UNDELIVERABLE event (R241). -/
def undelCount (m : Msg) : BitVec 32 := m.seq ++ m.sel ++ m.tag

/-- The fault event that the NI makes of a message (R242, R95, R273); i is the slot whose work failed, 0 for another's (R241). -/
def niFault (s : State) (c : CoreId) (m : Msg) (cause : Cause) (sub : BitVec 8) (addr : Word64) (i : BitVec 2 := 0) : Msg :=
  let sel := match (s.core c).leadOf m.job with
    | some i => ((s.ctxAt c i).map (·.faultSel)).getD 0
    | none => ((s.job m.job).map (·.faultSel)).getD 0
  faultEvent s c m.job sel cause { source := 5, slot := i, tile := 0, row := 0, acc := 0, sub := sub, count := undelCount m } addr

/-- The UE event of a retained message that is given up (R273, R274); its element 0 is a free value (log 23). -/
def retainLost (s : State) (c : CoreId) (m : Msg) : State :=
  let f := freeAddr s
  arriveA f.2 c (niFault f.2 c m .ue 0x08 f.1)

/-- RETAIN_ACKNOWLEDGEMENT (R272, R273): aux 0 frees the record, aux 1 injects it again, at most three times and where it can be read. A tagged one is
ignored (R270). -/
def execRetainAcknowledgement (id : Nat) (s : State) : Host.Outcome State Fault Refusal :=
  .next (takeArrival s id (fun m => m.kind == 9) fun s c m =>
    if m.etag then s
    else
      match (s.dir c m.job).bind fun d => d.retained.find? fun r => r.msg.seq == m.seq with
      | none => s
      | some r =>
        let drop (s : State) : State := s.updDir c m.job fun d => { d with retained := d.retained.filter fun x => x.msg.seq != m.seq }
        let key := ((s.dir c m.job).map Dir.retainKey).getD 0 + 320 * r.place
        if m.aux = 0 then drop s
        else if 3 ≤ r.tries ∨ badAt s ((List.range 320).map (key + ·)) = true then retainLost (drop s) c r.msg
        else
          let s := s.updDir c m.job fun d => { d with
            retained := d.retained.map fun x => if x.msg.seq = m.seq then { x with tries := x.tries + 1, sent := false, age := 0 } else x }
          let o : OutMsg := { msg := r.msg, slot := 0, uid := 0, evs := [], posts := [], at_ := none, route := true, loop := false, asIs := true, stepped := false, ord := 0 }
          flushOut (s.updCore c fun k => { k with out := k.out ++ [o] }) c)

/-- RETAIN_TIMEOUT (R274): 2^22 cycles without an acknowledgement. -/
def execRetainTimeout (core : CoreId) (job : JobId) (seq : BitVec 16) (s : State) : Host.Outcome State Fault Refusal :=
  .next (match (s.dir core job).bind fun d => d.retained.find? fun r => r.msg.seq == seq with
    | some r =>
      if 2 ^ 22 ≤ r.age ∧ niFree s core = true then
        retainLost (s.updDir core job fun d => { d with retained := d.retained.filter fun x => x.msg.seq != seq }) core r.msg
      else s
    | none => s)

/-- A remote row of a frozen slot is performed: PROGRESS counts it (R255). -/
def frozenRow (x : Slot) (req : RemReq) : Slot :=
  let n := (x.going.map fun g => g.rows.length).getD 0
  if req.row + 1 < n then { x with progress := { x.progress with live := true, row := BitVec.ofNat 3 (req.row + 1) } }
  else { x with progress := { live := false, row := 0, tile := 0 } }

/-- A reply put with the remote request that it answers: number, status, tag and data. -/
def putReply (s : State) (req : RemReq) (status : Nat) (tag : Bool) (data : List Byte) : State :=
  let s := match req.owner with
    | .slot c i _ => if status = 0 then s.updSlot c i fun x => match x.st with
        | .frozen (some (.remote id)) _ => if id = req.id then frozenRow x req else x
        | _ => x else s
    | _ => s
  let s := { s with rems := s.rems.map fun (r : RemReq) => if r.id = req.id then { r with reply := some (status, tag, data) } else r }
  -- a leader's answer is logged for a re-run (R279)
  match req.owner with
  | .slot c i u => { s with pairs := s.pairs.map fun (p : Pair) =>
      if p.core = c ∧ p.slot = i ∧ p.uid = u then { p with replies := p.replies ++ [((s.slot c i).icount, req.addr, status, tag, data)] } else p }
  | _ => s

/-- The core that a remote request's reply comes to. -/
def Owner.on (o : Owner) (s : State) (c : CoreId) : Bool := match o with
  | .slot d _ _ => d == c
  | .stream k uid => (s.cluster k).ectxs.any fun e => e.core == c && e.streams.any fun r => r.uid == uid
  | .copy k uid => (s.cluster k).copies.any fun d => d.core == c && d.uid == uid
  | _ => false
/-- The slot that issued an owner's work (R241). -/
def Owner.slotOf (o : Owner) (s : State) : BitVec 2 := match o with
  | .slot _ i _ => i
  | .stream k uid => ((s.cluster k).ectxs.findSome? fun e => (e.streams.find? fun r => r.uid == uid).map (·.slot)).getD 0
  | .copy k uid => (((s.cluster k).copies.find? fun d => d.uid == uid).map (·.slot)).getD 0
  | _ => 0
/-- The remote request that a returned or answered built-in operation belongs to: its sequence number is the request's
number modulo 2^16 (log 25). -/
def requestOf (s : State) (c : CoreId) (m : Msg) : Option RemReq :=
  s.rems.find? fun r => r.reply.isNone && BitVec.ofNat 16 r.id == m.seq && r.owner.on s c

/-- BUILTIN_REPLY (R42): status, tag and data reach the row that waits. -/
def execBuiltinReply (id : Nat) (s : State) : Host.Outcome State Fault Refusal :=
  .next (takeArrival s id (fun m => m.kind == 11 && m.vnet == 1) fun s c m =>
    match requestOf s c m with
    | some r => putReply s r m.aux.toNat m.etag m.payload
    | none => s)

/-- Has a job a region on a part, as messages from there or firmware's own knowledge say (R47, log 45)? -/
def Job.onPart (x : Job) (part : PartId) : Bool := x.parts.contains part || Config.holdsRegion x.id part
/-- A record's message comes back to its proxy (R62, R63): a window error of status 5 where the job is not current on the part that returned it
(log 45), else a returned-message record. -/
def proxyReturn (s : State) (m : Msg) : State :=
  let n := m.seq.toNat
  let current := m.srcPart == s.part || m.job == 0 || ((s.job m.job).map fun x => x.onPart m.srcPart).getD false
  let same (g : Msg) : Bool := g.dstPart == m.srcPart && g.sel == m.sel && g.tag == m.tag && g.arg == m.arg && g.job == m.job && g.payload == m.payload
  match (windowAt s n).bind fun w => w.abroad.find? fun p => same p.2 with
  | some p => if current then toMailbox s n (returnedRec m) else toMailbox s n (mailboxRec 4 5 0 0 0 p.1 [])
  | none => toMailbox s n (returnedRec m)

/-- UNDELIVERABLE (R242, R42, R63, R324): a returned message becomes a fault event; a returned built-in operation completes its
row with zeros and the tag; a credit comes back (R393), a retained record is freed (R272). -/
def execUndeliverable (id : Nat) (s : State) : Host.Outcome State Fault Refusal :=
  .next (takeArrival s id (fun m => m.kind == 10) fun s c m =>
    if isProxy c then proxyReturn s m
    else if c = 0 ∧ (s.dir c m.job).isNone then toMailboxes s m.job (returnedRec m)
    else
      let builtin := if m.srcCore = 0 ∧ (m.sel = 1 ∨ m.sel = 2 ∨ m.sel = 3) then requestOf s c m else none
      match builtin with
      | some r => arriveA (putReply s r 0 true (List.replicate 256 0)) c (niFault s c m .undeliverable 0 m.arg (r.owner.slotOf s))
      | none =>
        let s := if m.tag ≠ 0 ∧ m.sel ≠ 0xFFF then giveCredit s c m.job else s
        let s := if m.retained then s.updDir c m.job fun d => { d with retained := d.retained.filter fun x => x.msg.seq != m.seq } else s
        arriveA s c (niFault s c m .undeliverable 0 m.arg))

/-- SENDAT_INJECT (R392): a message whose instant has come, the earliest instant first, those of one cycle in issue order.
Output of a frozen job waits (R254). -/
def execSendatInject (core : CoreId) (s : State) : Host.Outcome State Fault Refusal :=
  .next (
    let k := s.core core
    let at_ (o : OutMsg) : Nat := (o.at_.getD 0).toNat
    let ready (o : OutMsg) : Bool := decide (at_ o ≤ s.now.toNat) && released s core o && !behindHeld s core o && !frozenAt s core o.msg.job
    let best := (k.timed.filter ready).foldl (fun (b : Option OutMsg) o => match b with
      | some x => if at_ o < at_ x then some o else some x
      | none => some o) none
    match best with
    | none => s
    | some o => emit (s.updCore core fun q => { q with timed := q.timed.erase o }) core o)

/-- INITIAL_MESSAGE_INJECT (R324): record n of a started job at its instant, after every earlier record whose delay is no
greater. -/
def execInitialMessageInject (job : JobId) (n : Nat) (s : State) : Host.Outcome State Fault Refusal :=
  .next (match s.job job with
    | none => s
    | some x =>
      match x.initial[n]? with
      | none => s
      | some r =>
        let earlier := (List.range n).any fun i => !x.injected.contains i && (match x.initial[i]? with
          | some q => decide (q.seq.toNat ≤ r.seq.toNat)
          | none => false)
        if !x.started || x.injected.contains n || earlier || s.now.toNat < x.startAt.toNat + r.seq.toNat then s
        else
          let w := routeOf r.route
          let m : Msg := Msg.formed {
            dstPart := w.part, dstCore := w.core, srcCore := 0, srcPart := s.part, vnet := 0, kind := r.kind.setWidth 4, prio := w.prio,
            rcheck := 0, etag := false, job := job, sel := w.sel, tag := w.tag, pfmt := if r.plen = 0 then 0 else w.pfmt,
            seq := BitVec.ofNat 16 n, residue := 0, aux := r.aux, arg := r.arg, zeros := 0, retained := false, fixed := false, args := [],
            payload := r.payload.take r.plen.toNat }
          let s := s.updJob job fun x => { x with injected := x.injected ++ [n] }
          if w.part ≠ s.part then
            (if x.fwHolds.any fun h => h.part == m.dstPart && h.word == m.dstCore then s.updJob job fun x => { x with fwRet := x.fwRet ++ [m] } else putFlight s 0 m false)
          else if w.core.extractLsb' 8 12 = 0xFFF then putFlight s 0 m true
          else
            match rankEntry s job (w.core.extractLsb' 8 12).toNat with
            | none => sendBack s 0 m 10
            | some e =>
              let m := Msg.checked { m with dstCore := entryCluster e ++ w.core.extractLsb' 0 8 }
              if x.fwHolds.any fun h => h.part == m.dstPart && h.word == m.dstCore then s.updJob job fun x => { x with fwRet := x.fwRet ++ [m] }
              else putFlight s 0 m false)

/-- Sources of refused messages invited again, once the ring is below half its quota (R103). -/
def spaceNotices (s : State) (c : CoreId) (j : JobId) (limit : Nat) : State :=
  match s.dir c j with
  | none => s
  | some d =>
    if !d.refusing || limit ≤ d.outside then s
    else
      let note (p : PartId × CoreId) : Msg := Msg.formed {
        dstPart := p.1, dstCore := p.2, srcCore := c, srcPart := s.part, vnet := 1, kind := 4, prio := 0, rcheck := 0, etag := false, job := j,
        sel := 0, tag := 0, pfmt := 0, seq := 0, residue := 0, aux := 0, arg := 0, zeros := 0, retained := false, fixed := true, args := [],
        payload := [] }
      let s := s.updDir c j fun d => { d with refusing := false, byBuffer := false, refused := [] }
      d.refused.foldl (fun s p => putFlight s c (note p) false) s

/-- ARRIVAL_RING_DRAIN (R92): the oldest record of an active, diverting context's ring enters the queue or is applied; an empty
ring gives way to the folded adds and flags. -/
def execArrivalRingDrain (core : CoreId) (ctx : BitVec 2) (s : State) : Host.Outcome State Fault Refusal :=
  .next (match s.ctxAt core ctx with
    | none => s
    | some k =>
      match s.dir core k.job with
      | none => s
      | some d =>
        if k.st ≠ .active || k.frozen || k.trailing || !d.diverting then s
        else
          let after (s : State) : State := spaceNotices s core k.job ((d.spillQ + 1) / 2)
          let size := d.spillQ + 288
          match d.ring with
          | [] =>
            let add (k : Ctx) : Ctx := { k with
              cval := Vector.ofFn fun (i : Fin 16) => k.cval[i] + d.pendAdd[i]
              flags := k.flags ||| d.pendFlags }
            after ((s.updCtx core ctx add).updDir core k.job fun d => { d with pendAdd := Vector.replicate 16 0, pendFlags := 0 })
          | r :: rest =>
            let pop (s : State) : State := s.updDir core k.job fun d => { d with ring := rest, aHead := (d.aHead + 1) % size }
            let q := (s.core core).queue
            let transit := (q.filter fun e => e.ctx == ctx && e.drained).length
            if r.msg.kind = 1 ∨ r.msg.kind = 2 then after (pop (s.updCtx core ctx fun k => applySignal k r.msg))
            else if q.length < Config.queueEntries ∧ transit < 4 ∧ niFree s core = true then
              let w := if r.msg.vnet = 0 then r.w else 0
              after (pop (enqueue s core ctx r.msg r.stamp w true))
            else s)

/-- UNCLAIMED_TAG_TIMEOUT (R95): a selector-0xFFF message whose w has reached 2^20 and that no enabled tag trigger names becomes
a fault event. -/
def execUnclaimedTagTimeout (core : CoreId) (n : Nat) (s : State) : Host.Outcome State Fault Refusal :=
  .next (match (s.core core).queue[n]? with
    | none => s
    | some e =>
      match s.ctxAt core e.ctx with
      | none => s
      | some k =>
        let claimed := k.trig.toList.any fun w => trigOn w && trigKind w == 2 && trigIndex w == e.msg.tag
        if e.msg.sel ≠ 0xFFF || e.w < 2 ^ 20 || claimed || k.frozen || k.st ≠ .active || !niFree s core then s
        else arriveA (s.updCore core fun q => { q with queue := q.queue.eraseIdx n }) core (niFault s core e.msg .undeliverable 0 e.msg.arg))

/-- RESIDENCY_REQUEST (R110): firmware of the chiplet's service cluster restores the context, after evicting a victim that is
not frozen (R262) where the core holds four. -/
def execResidencyRequest (core : CoreId) (job : JobId) (slot : BitVec 2) (s : State) : Host.Outcome State Fault Refusal :=
  .next (
    let k := s.core core
    if !s.fw.requests.contains (core, job) then s
    else
      match s.dir core job with
      | none => { s with fw := { s.fw with requests := s.fw.requests.erase (core, job) } }
      | some d =>
        if d.st ≠ .evicted then { s with fw := { s.fw with requests := s.fw.requests.erase (core, job) } }
        else
          match slotIds.find? fun i => (k.ctx i).isNone with
          | some i =>
            let s := s.updCore core fun q => q.setCtx i (some (restoringCtx s d))
            let s := s.updDir core job fun d => { d with st := .resident, slot := i, asked := false }
            { s with fw := { s.fw with requests := s.fw.requests.erase (core, job) } }
          | none =>
            let leaving := slotIds.any fun i => match k.ctx i with
              | some x => x.st == .saving || x.evictAsked
              | none => false
            match k.ctx slot with
            | some x => if x.frozen || leaving || x.st ≠ .active then s else startEvict s core slot
            | none => s)

end Sys2Proof.Machine
end

