-- ==== Sys2Proof/Machine/Copies.lean ====
section
/-! DEFINITION. The copy engine (06 R181 to R185, 14 R386): a sector at a time, faults, completions. -/

namespace Sys2Proof.Machine

/-- A copy of a cluster. -/
def findCopy (s : State) (k : ClusterId) (uid : Nat) : Option Copy := (s.cluster k).copies.find? fun d => d.uid == uid
/-- A copy changed. -/
def updCopy (s : State) (k : ClusterId) (uid : Nat) (f : Copy → Copy) : State :=
  s.updCluster k fun q => { q with copies := q.copies.map fun d => if d.uid = uid then f d else d }
/-- A copy leaves the engine. -/
def dropCopy (s : State) (k : ClusterId) (uid : Nat) : State :=
  s.updCluster k fun q => { q with copies := q.copies.filter fun d => d.uid != uid }
/-- First byte of the next sector (R182). -/
def Copy.start (d : Copy) : Nat := 4096 * d.sectors
/-- Bytes of the next sector. -/
def Copy.size (d : Copy) : Nat := Nat.min 4096 (d.length - d.start)

/-- A completion of a copy, held like any output while its job is frozen (R254). -/
def copyCompletion (s : State) (d : Copy) (status : BitVec 8) (arg : Word64) : State :=
  match completionMsg s d.core d.job d.fin status arg with
  | none => s
  | some m =>
    let o : OutMsg := { msg := m, slot := 0, uid := 0, evs := [], posts := [], at_ := none, route := true, loop := false, asIs := true, stepped := false, ord := 0 }
    flushOut (s.updCore d.core fun k => { k with out := k.out ++ [o] }) d.core

/-- A copy fault at the next sector (R183): XLATE, PERM and XLATE_UE leave it FAULTED, another cause ends it. -/
def copyFault (s : State) (k : ClusterId) (d : Copy) (c : Cause) (addr : Word64) : State :=
  let n := BitVec.ofNat 32 d.sectors
  let (cause, source, sub) : Cause × BitVec 4 × BitVec 8 := if c = .xlateUe then (.ue, 6, 0x07) else (.engine, 4, causeCode c)
  let s := sendFault s d.core d.job cause { source := source, slot := d.slot, tile := 0, row := 0, acc := 0, sub := sub, count := n } addr
  if c = .xlate ∨ c = .perm ∨ c = .xlateUe then updCopy s k d.uid fun d => { d with faulted := true, evs := [], reqs := [], taken := none }
  else copyCompletion (dropCopy s k d.uid) d (causeCode c) (d.fin.arg.extractLsb' 32 32 ++ n)

/-- Uncorrectable errors in source data (R183): one UE event for each copy. -/
def copyUe (s : State) (k : ClusterId) (d : Copy) (addr : Word64) : State :=
  if d.ue then s
  else
    let s := sendFault s d.core d.job .ue { source := 4, slot := d.slot, tile := 0, row := 0, acc := 0, sub := 0x08, count := BitVec.ofNat 32 d.sectors } addr
    updCopy s k d.uid fun d => { d with ue := true }

/-- The copy waits for a page (R145). -/
def copyMiss (s : State) (k : ClusterId) (d : Copy) (asid : BitVec 16) (v : BitVec 32) (write : Bool) : State :=
  noteMiss s k { asid := asid, vpn := v, write := write, fetch := false, who := .copy d.uid, served := false }

/-- A remote request of a copy: 16 to 256 bytes at an offset of the sector (R41, R36). -/
def copyRequest (s : State) (k : ClusterId) (d : Copy) (p : Word64) (off n : Nat) (data : Option (List Byte)) : State :=
  let addr := ((ptrOf p).map fun q => q.at_ ((q.addr : Int) + (d.start + off : Nat))).getD 0
  let id := s.nextId
  let req : RemReq := { id := id, owner := .copy k d.uid, dst := 0, map := (List.range n).map fun i => (i, off + i), addr := addr, row := 0, reply := none }
  let m := engineMsg s d.core d.job id addr (if data.isSome then 2 else 1) (BitVec.ofNat 8 (n / 16 - 1)) 0 [] (data.getD [])
  updCopy (putFlight { s with nextId := id + 1, rems := s.rems ++ [req] } d.core m false) k d.uid fun d => { d with reqs := d.reqs ++ [id] }

/-- Runs of whole granules to be stored: (offset, length), none above 256 bytes. -/
def storeRuns (good : Nat → Bool) (n : Nat) : List (Nat × Nat) :=
  (List.range (n / 16)).foldl (fun (acc : List (Nat × Nat)) g =>
    if !good g then acc
    else match acc.getLast? with
      | some (o, l) => if o + l = 16 * g ∧ l < 256 then acc.dropLast ++ [(o, l + 16)] else acc ++ [(16 * g, 16)]
      | none => [(16 * g, 16)]) []

/-- A sector is done (R182). -/
def sectorDone (s : State) (k : ClusterId) (d : Copy) : State :=
  updCopy s k d.uid fun d => { d with sectors := d.sectors + 1, evs := [], reqs := [], taken := none }

/-- The sector's bytes go to the destination (R182, R212); granules whose source is tagged stay unwritten (R183). -/
def sectorWrite (s : State) (k : ClusterId) (d : Copy) (asid : BitVec 16) (data : List (Byte × Bool)) : State :=
  let good (g : Nat) : Bool := !(((data.drop (16 * g)).take 16).any (·.2))
  match engineAt s k (.copy d.uid) asid d.dst d.dstWindow (d.start : Nat) d.size true with
  | .fault c addr => takeFault (copyFault s k d c addr) k (.copy d.uid)
  | .miss v => copyMiss s k d asid v true
  | .remote =>
    let runs := storeRuns good d.size
    if runs = [] then sectorDone s k d
    else runs.foldl (fun (s : State) (r : Nat × Nat) => copyRequest s k d d.dst r.1 r.2 (some (((data.drop r.1).take r.2).map (·.1)))) s
  | .keys f =>
    let l := ((List.range d.size).filter fun o => good (o / 16)).map fun o => (f o, o)
    if l.isEmpty then sectorDone s k d
    else
      let r := plainEvents s (.copy k d.uid) d.job d.cls d.scope (engineNear d.core d.dst d.dstWindow) d.dst l fun g => .write (g.map fun p => (p.1, (data.getD p.2 (0, false)).1))
      updCopy r.2 k d.uid fun d => { d with evs := r.1 }

/-- The events of the sector are performed: its source's bytes with their tags are taken, the first that is bad told (R183), or it is done. -/
def sectorBack (s : State) (k : ClusterId) (d : Copy) : State :=
  match d.taken with
  | some _ => sectorDone s k d
  | none =>
    let r := takeRets s d.evs
    let byte (o : Nat) : Byte × Bool := ((r.1.find? fun p => p.1 == o).map fun p => p.2).getD (0, false)
    let data := (List.range d.size).map byte
    let s := match data.findIdx? (·.2) with
      | some o => copyUe r.2 k d (((ptrOf d.src).map fun q => q.at_ ((q.addr : Int) + (d.start + o : Nat))).getD 0)
      | none => r.2
    updCopy s k d.uid fun d => { d with evs := [], taken := some data }

/-- The replies of the sector's requests are in (R42, R183): loaded bytes are taken, stores end the sector. -/
def sectorReplies (s : State) (k : ClusterId) (d : Copy) : State :=
  let mine := s.rems.filter fun r => d.reqs.contains r.id
  if mine.any fun r => r.reply.isNone then s
  else
    let s := { s with rems := s.rems.filter fun r => !d.reqs.contains r.id }
    match mine.findSome? fun r => match r.reply with
      | some (st, _, _) => if st = 0 then none else some (st, r.addr)
      | none => none with
    | some (st, addr) => copyFault s k d (causeOfStatus st) addr
    | none =>
      match d.taken with
      | some _ =>
        -- a granule that the target discarded counts like one whose source was bad (R270, log 54)
        let s := match mine.find? fun r => (r.reply.map fun p => p.2.1).getD false with
          | some r => copyUe s k d r.addr
          | none => s
        sectorDone s k d
      | none =>
        let bytes : List (Byte × Bool) := mine.flatMap fun r => match r.reply with
          | some (_, t, l) => (l.take r.map.length).map fun b => (b, t)
          | none => []
        let tagged (r : RemReq) : Bool := match r.reply with
          | some (_, t, _) => t
          | none => false
        let s := match mine.find? tagged with
          | some r => copyUe s k d r.addr
          | none => s
        updCopy s k d.uid fun d => { d with reqs := [], taken := some bytes }

/-- The sector's source is read (R182, R212). -/
def sectorRead (s : State) (k : ClusterId) (d : Copy) (asid : BitVec 16) : State :=
  match engineAt s k (.copy d.uid) asid d.src d.srcWindow (d.start : Nat) d.size false with
  | .fault c addr => takeFault (copyFault s k d c addr) k (.copy d.uid)
  | .miss v => copyMiss s k d asid v false
  | .remote =>
    (List.range ((d.size + 255) / 256)).foldl
      (fun (s : State) i => copyRequest s k d d.src (256 * i) (Nat.min 256 (d.size - 256 * i)) none) s
  | .keys f =>
    let r := plainEvents s (.copy k d.uid) d.job d.cls d.scope (engineNear d.core d.src d.srcWindow) d.src ((List.range d.size).map fun o => (f o, o)) fun _ => .read
    updCopy r.2 k d.uid fun d => { d with evs := r.1 }

/-- Has a copy one of the 16 places at work? Copies that came back with a restored context wait for one (R181). -/
def atWork (s : State) (k : ClusterId) (uid : Nat) : Bool := ((s.cluster k).copies.take Config.copyPlaces).any fun d => d.uid == uid

/-- COPY_SECTOR (R182 to R184): one step of the copy's next sector: its source is read, its bytes are taken once all have come, its destination is
written, it is done. After the last sector the completion goes. -/
def execCopySector (cluster : ClusterId) (uid : Nat) (s : State) : Host.Outcome State Fault Refusal :=
  .next (match findCopy s cluster uid with
    | none => s
    | some d =>
      let asid := ((s.ctxAt d.core d.ctx).map (·.asid)).getD 0
      let who : Waiter := .copy uid
      if gated s cluster || !atWork s cluster uid || d.faulted || d.waits.any (outstanding s) || (d.parked && !d.busy) || !mayGo s cluster who then s
      else if d.length ≤ d.start then copyCompletion (dropCopy s cluster uid) d (if d.ue then 0x41 else 0) d.fin.arg
      else if !d.reqs.isEmpty then sectorReplies s cluster d
      else if !d.evs.isEmpty then (if d.evs.any (outstanding s) then s else sectorBack s cluster d)
      else
        match d.taken with
        | some data => sectorWrite (retried s cluster who) cluster d asid data
        | none => sectorRead (retried s cluster who) cluster d asid)

end Sys2Proof.Machine
end

