-- ==== Sys2Proof/Machine/Gcm.lean ====
section
/-! DEFINITION. AES-256-GCM (02 R43, R44; FIPS 197 and SP 800-38D, log 43): the block cipher, the field of GHASH, sealing and opening. -/

namespace Sys2Proof.Machine

/-- A byte as the cipher's field takes it, times x, modulo x^8 + x^4 + x^3 + x + 1. -/
def fieldX (a : Byte) : Byte := if a.msb then (a <<< 1) ^^^ 0x1B else a <<< 1
/-- Product of a and the n low bits of b. -/
def fieldMul : Nat → Byte → Byte → Byte
  | 0, _, _ => 0
  | n + 1, a, b => (if b.getLsbD 0 then a else 0) ^^^ fieldMul n (fieldX a) (b >>> 1)
/-- a to the power 2^(n+1) - 2: for n = 7 its inverse, and 0 for 0. -/
def fieldPow : Nat → Byte → Byte
  | 0, _ => 1
  | n + 1, a => let q := fieldMul 8 a a; fieldMul 8 q (fieldPow n q)
/-- The cipher's substitution: the inverse, then its sum with four rotations of itself and a constant. -/
def subByte (a : Byte) : Byte :=
  let v := fieldPow 7 a
  [1, 2, 3, 4].foldl (fun w k => w ^^^ v.rotateLeft k) (v ^^^ 0x63)

/-- Two lists of bytes added byte by byte, as long as the first. -/
def xorBytes : List Byte → List Byte → List Byte
  | [], _ => []
  | a :: l, k => (a ^^^ k.headD 0) :: xorBytes l k.tail

/-- The schedule of a key, its latest 4 B word first: n words beyond the eight of the key. rc is the next round constant. -/
def growKey : Nat → Nat → Byte → List (List Byte) → List (List Byte)
  | 0, _, _, ws => ws
  | n + 1, i, rc, ws =>
    let last := ws.headD []
    let old := ws.getD 7 []
    if i % 8 = 0 then
      let t := (last.tail ++ [last.headD 0]).map subByte
      growKey n (i + 1) (fieldX rc) (xorBytes old (xorBytes t [rc]) :: ws)
    else growKey n (i + 1) rc (xorBytes old (if i % 8 = 4 then last.map subByte else last) :: ws)
/-- The 15 round keys of 16 B of a 32 B key; bytes that are absent count as zero. -/
def roundKeys (key : List Byte) : List (List Byte) :=
  let byte (i : Nat) : Byte := key.getD i 0
  let first := (List.range 8).map fun w => (List.range 4).map fun b => byte (4 * w + b)
  let words := (growKey 52 8 1 first.reverse).reverse
  (List.range 15).map fun r => (List.range 4).flatMap fun c => words.getD (4 * r + c) []

/-- Substitution of every byte, with row r of the 4×4 block turned by r columns. -/
def subShift (b : List Byte) : List Byte := (List.range 16).map fun i => subByte (b.getD ((i + 4 * (i % 4)) % 16) 0)
/-- Every column of a block multiplied by the cipher's matrix. -/
def mixColumns (b : List Byte) : List Byte :=
  (List.range 16).map fun i =>
    let at_ (k : Nat) : Byte := b.getD (i / 4 * 4 + (i + k) % 4) 0
    fieldX (at_ 0) ^^^ (fieldX (at_ 1) ^^^ at_ 1) ^^^ at_ 2 ^^^ at_ 3
/-- One block of 16 B enciphered under a schedule of round keys. -/
def cipherBlock (ks : List (List Byte)) (b : List Byte) : List Byte :=
  let b := ((ks.drop 1).take 13).foldl (fun b k => xorBytes (mixColumns (subShift b)) k) (xorBytes b (ks.headD []))
  xorBytes (subShift b) (ks.getD 14 [])

/-- Bytes as a number, the first most significant. -/
def bigNat (l : List Byte) : Nat := l.foldl (fun n b => n * 256 + b.toNat) 0
/-- A number as n bytes, most significant first. -/
def bigBytes (n x : Nat) : List Byte := (bytesOf n x).reverse

/-- Sum of the v x^i over the set bits i of x, in GHASH's field, whose first bit is the most significant; n bits of x are left. -/
def hashMul : Nat → Nat → Nat → Nat
  | 0, _, _ => 0
  | n + 1, x, v => (if x.testBit n then v else 0) ^^^ hashMul n x (if v.testBit 0 then (v >>> 1) ^^^ (0xE1 <<< 120) else v >>> 1)
/-- GHASH of bytes that fill whole blocks, f blocks at most. -/
def ghash (h : Nat) : Nat → Nat → List Byte → Nat
  | 0, y, _ => y
  | f + 1, y, l => if l.isEmpty then y else ghash h f (hashMul 128 (y ^^^ bigNat (l.take 16)) h) (l.drop 16)
/-- Zero bytes up to a multiple of n. -/
def padTo (n : Nat) (l : List Byte) : List Byte := l ++ List.replicate ((n - l.length % n) % n) 0

/-- Key stream for n blocks from a counter value. -/
def keyStream (ks : List (List Byte)) (nonce : List Byte) : Nat → Nat → List Byte
  | 0, _ => []
  | n + 1, c => cipherBlock ks (nonce ++ bigBytes 4 c) ++ keyStream ks nonce n (c + 1)
/-- The text enciphered or deciphered. -/
def gcmText (ks : List (List Byte)) (nonce text : List Byte) : List Byte := xorBytes text (keyStream ks nonce (text.length / 16 + 1) 2)
/-- The 16 B tag over authenticated data and an enciphered text. -/
def gcmTag (ks : List (List Byte)) (nonce aad text : List Byte) : List Byte :=
  let l := padTo 16 aad ++ padTo 16 text ++ bigBytes 8 (8 * aad.length) ++ bigBytes 8 (8 * text.length)
  xorBytes (bigBytes 16 (ghash (bigNat (cipherBlock ks (List.replicate 16 0))) (l.length / 16) 0 l)) (cipherBlock ks (nonce ++ bigBytes 4 1))

end Sys2Proof.Machine
end

