-- ==== Sys2Proof/Machine/Packets.lean ====
section
/-! DEFINITION. Lamcon packets as the bytes that a link carries (02 R37, R38), their protection (R43, R44), the device's identity as fields of fixed
length (01 R26, R30). -/

namespace Sys2Proof.Machine

/-- A list cut or filled with zeros to n bytes. -/
def fit (n : Nat) (l : List Byte) : List Byte := (List.range n).map fun i => l.getD i 0
/-- The device identity public key, 1,952 B (R26, R30). -/
def identity : List Byte := fit 1952 Config.identityKey
/-- A signature by the identity key over a digest, 3,309 B (R30). -/
def signBy (digest : List Byte) : List Byte := fit 3309 (Config.mlDsaSign digest)
/-- The ciphertext of 1,088 B and the shared secret of 32 B for an encapsulation key (R45, R60). -/
def encapsulate (ek : List Byte) (n : Nat) : List Byte × List Byte := let c := Config.mlKemEncaps ek n; (fit 1088 c.1, fit 32 c.2)
/-- A fresh encapsulation key, 1,184 B (R45). -/
def freshKem (n : Nat) : List Byte := fit 1184 (Config.mlKemKey n)
/-- The shared secret that a fresh key takes from a ciphertext (R45). -/
def decapsulate (n : Nat) (ct : List Byte) : List Byte := fit 32 (Config.mlKemDecaps n ct)

/-- The fields of a link header (R38). -/
structure LinkHead where
  pathSeq : BitVec 32
  linkSeq : BitVec 12
  vc : BitVec 2
  mode : BitVec 2
  epoch : BitVec 1
  length : BitVec 3
  argc : BitVec 4
  hops : BitVec 8
  srcGw : BitVec 8
deriving DecidableEq, Repr

/-- A link header as 128 bits (R38). -/
def LinkHead.word (h : LinkHead) : BitVec 128 :=
  h.pathSeq ++ h.linkSeq ++ h.vc ++ h.mode ++ h.epoch ++ h.length ++ h.argc ++ h.hops ++ h.srcGw ++ (0 : BitVec 56)
/-- The link header that a packet begins with; its lowest bits come first (log 43). -/
def Packet.head (p : Packet) : LinkHead :=
  let w : BitVec 128 := BitVec.ofNat 128 (natOf (p.bytes.take 16))
  { pathSeq := w.extractLsb' 96 32, linkSeq := w.extractLsb' 84 12, vc := w.extractLsb' 82 2, mode := w.extractLsb' 80 2, epoch := w.extractLsb' 79 1,
    length := w.extractLsb' 76 3, argc := w.extractLsb' 72 4, hops := w.extractLsb' 64 8, srcGw := w.extractLsb' 56 8 }

/-- What lies between link header and trailer (R37): mesh header, argument words, payload, zeros up to 16 B. -/
def Msg.wire (m : Msg) : List Byte :=
  padTo 16 (bytesOf 16 (flit0 m).toNat ++ bytesOf 16 (flit1 m).toNat ++ (m.args.flatMap fun w => bytesOf 8 w.toNat) ++ m.payload)
/-- Lamcon flits of 64 B that a number of bytes takes (R37). -/
def linkFlits (n : Nat) : Nat := (n + 63) / 64

/-- The GCM nonce of a packet (R44): sending part and port, channel, count. -/
def nonceOf (part : PartId) (port : BitVec 4) (vc : BitVec 2) (count : Nat) : List Byte :=
  bigBytes 2 part.toNat ++ [port.setWidth 8, vc.setWidth 8] ++ bigBytes 8 count
/-- Key number of what this end sends or receives (R44): direction 0 is the lower part's. -/
def sendKey (x : Port) (vc : BitVec 2) (epoch : BitVec 1) : Nat := keyNo (decide (x.partner.toNat < x.self.toNat)) vc epoch
/-- The same for what it receives. -/
def recvKey (x : Port) (vc : BitVec 2) (epoch : BitVec 1) : Nat := keyNo (decide (x.self.toNat < x.partner.toNat)) vc epoch
/-- Schedule of a key register. -/
def Port.schedule (x : Port) (n : Nat) : List (List Byte) := roundKeys ((x.keys.look n).getD [])
/-- Packets counted under a key (R44). -/
def Port.count (x : Port) (n : Nat) : Nat := (x.counts.look n).getD 0

/-- Text and trailer of a packet in a mode (R38, R43): CRC-32C over the whole packet; a tag over it; or the text enciphered, the header
authenticated with it. -/
def protect (mode : BitVec 2) (ks : List (List Byte)) (nonce head text : List Byte) : List Byte :=
  if mode = 0 then text ++ bytesOf 4 (crc32c (head ++ text)).toNat ++ List.replicate 12 0
  else if mode = 1 then text ++ gcmTag ks nonce (head ++ text) []
  else let c := gcmText ks nonce text; c ++ gcmTag ks nonce head c
/-- Does the trailer of a packet hold (R38, R43)? -/
def trailerOk (mode : BitVec 2) (ks : List (List Byte)) (nonce head text trailer : List Byte) : Bool :=
  if mode = 0 then trailer == bytesOf 4 (crc32c (head ++ text)).toNat ++ List.replicate 12 0
  else if mode = 1 then trailer == gcmTag ks nonce (head ++ text) []
  else trailer == gcmTag ks nonce head text
/-- The text as it was before its protection. -/
def bare (mode : BitVec 2) (ks : List (List Byte)) (nonce text : List Byte) : List Byte := if mode = 2 then gcmText ks nonce text else text

/-- The mode of a channel on a link (R43). -/
def modeOf (x : Port) (vc : BitVec 2) : BitVec 2 :=
  let k := Config.enclosureMode vc.toNat
  if x.far || k == 3 then 2 else k

/-- A message made a packet for a port (R37, R38, R43, R44). -/
def packetOf (x : Port) (port : BitVec 4) (pathSeq : BitVec 32) (srcGw hops : BitVec 8) (vc : BitVec 2) (m : Msg) : Packet :=
  let mode := modeOf x vc
  let text := Msg.wire m
  let h : LinkHead :=
    { pathSeq := pathSeq, linkSeq := x.sendSeq, vc := vc, mode := mode, epoch := x.epoch, length := BitVec.ofNat 3 (linkFlits (32 + text.length)),
      argc := BitVec.ofNat 4 m.args.length, hops := hops, srcGw := srcGw }
  let head := bytesOf 16 h.word.toNat
  let n := sendKey x vc x.epoch
  { bytes := head ++ protect mode (x.schedule n) (nonceOf x.self port vc (x.count n)) head text, retained := m.retained, fixed := m.fixed }

/-- Text and trailer of a packet. -/
def Packet.text (p : Packet) : List Byte := (p.bytes.drop 16).take (p.bytes.length - 32)
/-- The last 16 B. -/
def Packet.trailer (p : Packet) : List Byte := p.bytes.drop (p.bytes.length - 16)
/-- The nonce under which a port takes a packet: the partner counts as it does (R44). -/
def recvNonce (x : Port) (h : LinkHead) : List Byte := nonceOf x.partner x.partnerPort h.vc (x.count (recvKey x h.vc h.epoch))
/-- Does a packet's CRC or tag hold at a port (R46)? -/
def Packet.intact (p : Packet) (x : Port) : Bool :=
  let h := Packet.head p
  trailerOk h.mode (x.schedule (recvKey x h.vc h.epoch)) (recvNonce x h) (p.bytes.take 16) (Packet.text p) (Packet.trailer p)
/-- The message that a packet's header and its bare text hold; none where length or argc does not match the packet's size in bytes (R38, R53). -/
def wireMessage (h : LinkHead) (bytes : Nat) (l : List Byte) : Option Msg :=
  let a : BitVec 128 := BitVec.ofNat 128 (natOf (l.take 16))
  let b : BitVec 128 := BitVec.ofNat 128 (natOf ((l.drop 16).take 16))
  let flits := (a.extractLsb' 51 5).toNat
  let n := 32 + 8 * h.argc.toNat
  let size := n + 16 * (flits - 2)
  if bytes < 64 ∨ 8 < h.argc.toNat ∨ flits < 2 ∨ 18 < flits ∨ l.length ≠ (size + 15) / 16 * 16 ∨ h.length.toNat ≠ linkFlits bytes then none
  else
    let m := msgOf a b ((l.drop n).take (size - n))
    some { m with args := (List.range h.argc.toNat).map fun i => BitVec.ofNat 64 (natOf ((l.drop (32 + 8 * i)).take 8)) }
/-- The message of a packet at a port (R53). -/
def Packet.message (p : Packet) (x : Port) : Option Msg :=
  let h := Packet.head p
  let l := bare h.mode (x.schedule (recvKey x h.vc h.epoch)) (recvNonce x h) (Packet.text p)
  (wireMessage h p.bytes.length l).map fun m => { m with retained := p.retained, fixed := p.fixed }

end Sys2Proof.Machine
end

