-- ==== Sys2Proof/Machine/Launch.lean ====
section
/-! DEFINITION. The dispatcher and the life of a handler (04 R85, R94 to R98, 05 R129 to R133, 09 R235 to R237, R243), the
trailer's launch (10 R277), eviction and restore (04 R108, R109), words that are no instruction (11 R297). -/

namespace Sys2Proof.Machine

/-- Are 16 launch records of a paired context waiting (R277)? -/
def pairFull (s : State) (c : CoreId) (i : BitVec 2) (k : Ctx) : Bool :=
  k.pair.getLsbD 37 &&
    decide (16 ≤ (s.launches.filter fun r => r.core == c && r.launch.ctx == i).length
      + (slotIds.filter fun t => match (s.slot c t).st with
          | .launching _ => (s.slot c t).ctx == i
          | _ => false).length)
/-- May the dispatcher take candidates of a context (R94)? A diverting one too, where the table of R80 has it that it does not: records that came from its
ring leave the queue by dispatch alone, and R92 drains no further while four of them are there (log 51). -/
def dispatches (s : State) (c : CoreId) (i : BitVec 2) : Bool := match s.ctxAt c i with
  | some k => k.st == .active && !k.frozen && !k.trailing && !pairFull s c i k
  | none => false

/-- A candidate: a queue entry, or a trigger word of a context slot. -/
inductive Choice where
  | entry (e : QEntry)
  | trigger (i : BitVec 2) (w : BitVec 5)
deriving DecidableEq, Repr

/-- Candidates of a core (R94). -/
def candidates (s : State) (c : CoreId) : List Choice :=
  let k := s.core c
  let msgs := (k.queue.filter fun e => e.msg.sel != 0xFFF && dispatches s c e.ctx).map Choice.entry
  let trigs := slotIds.flatMap fun i => match s.ctxAt c i with
    | some x => if dispatches s c i then
        ((List.range 32).filter fun n => let w := x.trigAt (BitVec.ofNat 5 n); trigOn w && conditionHolds s c i x w).map
          fun n => Choice.trigger i (BitVec.ofNat 5 n)
      else []
    | none => []
  msgs ++ trigs
/-- The ranking key of a candidate (R93, R94). -/
def choiceKey (s : State) (c : CoreId) (x : Choice) : Cand :=
  match x with
  | .entry e => entryKey (s.core c) e
  | .trigger i n =>
    let k := (s.ctxAt c i).getD Ctx.reset
    let w := k.heldAt n
    { eff := effPrio (trigPrio (k.trigAt n)).toNat w k.ageShift, w := w, trig := true, ctx := i, idx := n.toNat, ord := 0 }

/-- May a message be received in a format (R132)? A wire format that is none is never received, payload or not. -/
def receivable (m : Msg) (f : Fmt) : Bool :=
  decide (m.pfmt.toNat ≤ 16) && (m.payload.isEmpty || ((m.pfmt == 16) == (f == .mask1)))
/-- Is a slot FREE in this cycle (R97)? -/
def slotFree (s : State) (k : Core) (t : BitVec 2) : Bool := (k.slot t).st == .free && decide ((k.slot t).freeAt ≤ s.clk.cycle)

/-- TRIGGER_FIRE (R85): the condition is consumed; T1's value and the message of a tag trigger. -/
def fire (s : State) (c : CoreId) (i : BitVec 2) (w : BitVec 32) : Word64 × Option Msg × State :=
  let k := (s.ctxAt c i).getD Ctx.reset
  let ix := trigIndex w
  match (trigKind w).toNat with
  | 0 => (0, none, s.updCtx c i fun k => { k with flags := putBit16 k.flags ix false })
  | 1 => ((k.cvalAt ix).setWidth 64, none, s.updCtx c i fun k => { k with carmed := putBit16 k.carmed ix false })
  | 2 =>
    match tagMessage (s.core c) i ix with
    | some e => (e.msg.arg, some e.msg, s.updCore c fun q => { q with queue := q.queue.filter fun x => x.ord != e.ord })
    | none => (0, none, s)
  | _ =>
    let q : BitVec 2 := ix.setWidth 2
    (k.qdeadAt q, none, s.updCtx c i fun k => { k with qarmed := k.qarmed &&& ~~~(1#4 <<< q.toNat) })

/-- The origin of a trigger launch (R133). -/
def originOf (w : BitVec 32) : Origin := match (trigKind w).toNat with
  | 0 => .flag
  | 1 => .counter
  | 2 => .tag
  | _ => .timer

/-- What becomes of a message that cannot launch (R79, R132, R243): kind 0 goes back, a fault event raises Frost as an unhandled
trap of its cause, what else came on VN-A goes to the mailboxes (R461). -/
def cannotLaunch (s : State) (c : CoreId) (m : Msg) : State :=
  if m.kind = 0 then sendBack s c m 10
  else if m.kind = 7 then (frostFrom s m.job 2 m.aux c 0).2
  else toMailboxes s m.job (returnedRec m)

/-- A slot is LAUNCHING for a handler (R96). -/
def beginLaunch (s : State) (c : CoreId) (t : BitVec 2) (l : Launch) : State :=
  s.updSlot c t fun x => { x with st := .launching s.clk.cycle, ctx := l.ctx, launch := some l, trailing := false }

/-- The code-cache line that a handler-table entry lies in is asked for (R78, R150). -/
def askLine (s : State) (k : ClusterId) (asid : BitVec 16) (va : BitVec 48) : State :=
  let line := va &&& ~~~(0x3F : BitVec 48)
  s.updCluster k fun q => if q.codeWaits.any fun w => w.1 == asid && w.2.1 == line then q
    else { q with codeWaits := q.codeWaits ++ [(asid, line, none)] }
/-- A line whose fetch faulted is forgotten once an entry was read from it. -/
def dropLine (s : State) (k : ClusterId) (asid : BitVec 16) (va : BitVec 48) : State :=
  let line := va &&& ~~~(0x3F : BitVec 48)
  s.updCluster k fun q => { q with codeWaits := q.codeWaits.filter fun w => !(w.1 == asid && w.2.1 == line && w.2.2.isSome) }

/-- DISPATCH (R94, R96): in a cycle a core takes its best candidate if a slot is FREE. A message leaves the queue, a trigger word
consumes its condition, and a slot is LAUNCHING; an invalid entry launches nothing (R79). -/
def execDispatch (core : CoreId) (s : State) : Host.Outcome State Fault Refusal :=
  .next (
    let k := s.core core
    let cl := clusterOf core
    match slotIds.find? (slotFree s k), bestOf (choiceKey s core) (candidates s core) with
    | some t, some x =>
      if gated s cl || decide (s.clk.cycle < k.dispatched) then s
      else
        let i := (choiceKey s core x).ctx
        let ctx := (s.ctxAt core i).getD Ctx.reset
        let sel := match x with
          | .entry e => e.msg.sel
          | .trigger _ w => trigSel (ctx.trigAt w)
        let va := ctx.table + BitVec.ofNat 48 (16 * sel.toNat)
        match readEntry s core ctx sel with
        | .miss => askLine s cl ctx.asid va
        | r =>
          let s := s.updCore core fun q => { q with dispatched := s.clk.cycle + 1 }
          let s := if r = .invalid then dropLine s cl ctx.asid va else s
          match x with
          | .entry e =>
            let s := s.updCore core fun q => { q with queue := q.queue.filter fun y => y.ord != e.ord }
            match r with
            | .found en =>
              if !receivable e.msg en.fmt then cannotLaunch s core e.msg
              else beginLaunch s core t { ctx := i, sel := sel, code := en.code, fmt := en.fmt, budget := en.budget, arg := e.msg.arg, msg := some e.msg,
                                          origin := .message, index := e.msg.tag, trailer := none }
            | _ => cannotLaunch s core e.msg
          | .trigger _ n =>
            let w := ctx.trigAt n
            let (arg, m, s) := fire s core i w
            let s := s.updCtx core i fun k => { k with held := k.held.set n.toNat 0 (by have := n.isLt; omega) }
            match r, m with
            | .found en, some m =>
              if !receivable m en.fmt then cannotLaunch s core m
              else beginLaunch s core t { ctx := i, sel := sel, code := en.code, fmt := en.fmt, budget := en.budget, arg := arg, msg := some m,
                                          origin := .tag, index := m.tag, trailer := none }
            | .found en, none =>
              beginLaunch s core t { ctx := i, sel := sel, code := en.code, fmt := en.fmt, budget := en.budget, arg := arg, msg := none,
                                     origin := originOf w, index := trigIndex w, trailer := none }
            | _, _ => sendFault s core ctx.job .engine { source := 5, slot := 0, tile := 0, row := 0, acc := 0, sub := 0, count := 0 } 0
    | _, _ => s)

/-- TIMER_DEADLINE (R88): from its deadline on, the condition of an armed timer holds. Deadline, armed bit and Thyme say so; the
passing of the instant changes none of them. -/
def execTimerDeadline (core : CoreId) (ctx : BitVec 2) (q : BitVec 2) (s : State) : Host.Outcome State Fault Refusal :=
  let _ := (core, ctx, q)
  .next s

/-- Element e of a payload in a wire format. -/
def wireElem (f : Fmt) (p : Nat) (e : Nat) : Nat := (p >>> (fmtBits f * e)) % 2 ^ fmtBits f

/-- Elements that a payload carries (R131). -/
def wireCount (m : Msg) (w : Fmt) : Nat :=
  let cap := m.payload.length * 8 / fmtBits w
  if 1 ≤ m.aux.toNat ∧ m.aux.toNat ≤ cap then m.aux.toNat else cap
/-- Elements of one payload tile (R131). -/
def recvCols (f : Fmt) : Nat := Nat.min 64 (512 / fmtBits f)

/-- T12 + q of a payload received in a format (R131, R205, R269). -/
def recvTile (t : Code8) (m : Msg) (w f : Fmt) (q : Nat) : Tile :=
  let c := recvCols f
  let n := wireCount m w
  let got := Nat.min n ((q + 1) * c) - q * c
  let p := natOf m.payload
  if got = 0 then Tile.zero
  else
    let shape : Tile := { Tile.zero with fmt := f, cols := c, vcols := got }
    let elem (e : Nat) : Nat := let x := wireElem w p (q * c + e); if w = f then x else convElem t w f .rne x
    shape.build elem m.etag

/-- The code8 table that a launch selected in a cycle converts by: the one held in the next cycle (R205, R384). -/
def launchTable (k : Ctx) (selected : Nat) : Code8 := if selected + 1 < k.code8At then k.code8Old else k.code8

/-- MSGINFO (R133). -/
def msgInfo (s : State) (c : CoreId) (l : Launch) : Word64 :=
  let (src, part) : CoreId × PartId := match l.msg with
    | some m => (m.srcCore, m.srcPart)
    | none => (c, s.part)
  let (wire, dropped) : BitVec 5 × Bool := match l.msg with
    | some m => if m.payload.isEmpty then (0, false)
      else (m.pfmt, match fmtOf m.pfmt.toNat with
        | some w => decide (4 * recvCols l.fmt < wireCount m w)
        | none => false)
    | none => (0, false)
  let org : BitVec 3 := match l.origin with
    | .message => 0
    | .flag => 1
    | .counter => 2
    | .tag => 3
    | .timer => 4
  src ++ part ++ l.sel ++ l.index ++ wire ++ org ++ BitVec.ofBool dropped ++ (0 : BitVec 3)

/-- The tiles of a launch (R129, R131). -/
def launchTiles (t : Code8) (l : Launch) : Vector Tile 16 :=
  let tag := (l.msg.map (·.etag)).getD false
  let pay (q : Nat) : Tile := match l.msg with
    | some m => match fmtOf m.pfmt.toNat with
      | some w => if m.payload.isEmpty then Tile.zero else recvTile t m w l.fmt q
      | none => Tile.zero
    | none => Tile.zero
  Vector.ofFn fun (i : Fin 16) => if i.val = 1 then Tile.ofWord l.arg tag else if 12 ≤ i.val then pay (i.val - 12) else Tile.zero

/-- The LFSR's seed (R123). -/
def lfsrSeed (c : CoreId) (t : BitVec 2) : BitVec 32 := lfsrFix (0x9E3779B9 ^^^ (c.setWidth 32 <<< 4) ^^^ t.setWidth 32)

/-- A slot set up for a handler (R129, R236): SKID, its history and TRAPADDR stay. -/
def setUp (x : Slot) (uid : Nat) (l : Launch) (frozen : Bool) (budget : Nat) (tiles : Vector Tile 16) (lfsr : BitVec 32) (info : Word64) : Slot :=
  { x with
    st := if frozen then .frozen none false else .ready
    uid := uid, ctx := l.ctx, pc := l.code, tiles := tiles, masks := Vector.replicate 4 0, rstack := [], lfsr := lfsr,
    progress := { live := false, row := 0, tile := 0 }, budget := budget, setAside := 0, allowance := 0, launchBudget := budget,
    cause := 0, causeFrost := false, fhandler := (l.msg.map fun m => m.kind == 7).getD false, resumeAt := 0, msginfo := info, launch := some l,
    replied := false, pend := [], fences := [], window := none, going := none, regs := [], popped := [], icount := 0, rowOnly := false, binds := [],
    stepping := none, stepFrom := .free, stepStatus := 0 }

/-- HANDLER_LAUNCH (R96, R129): four cycles after its selection the handler is READY, or FROZEN before its first instruction where
its context froze meanwhile (R128). A paired context sends its trailer a launch record (R277). -/
def execHandlerLaunch (core : CoreId) (slot : BitVec 2) (s : State) : Host.Outcome State Fault Refusal :=
  .next (
    let x := s.slot core slot
    match x.st, x.launch with
    | .launching n, some l =>
      if s.clk.cycle < n + 4 || gated s (clusterOf core) || x.trailing then s
      else
        let k := (s.ctxAt core l.ctx).getD Ctx.reset
        let uid := s.nextId
        let tiles := launchTiles (launchTable k n) l
        let budget := if l.budget = 0 then k.budget else l.budget
        let info := msgInfo s core l
        let lfsr := lfsrSeed core slot
        let y := setUp x uid l k.frozen budget tiles lfsr info
        let s := ({ s with nextId := uid + 1 }).updSlot core slot fun _ => y
        if !k.pair.getLsbD 37 then s
        else
          let r : LaunchRec := { core := core, slot := slot, uid := uid, launch := l, lfsr := lfsr, info := info, tiles := tiles, into := none }
          let p : Pair := { core := core, slot := slot, uid := uid, job := k.job, tcore := k.pair.extractLsb' 44 20, tslot := none, buf := [], sigs := [],
                            vals := [], logVals := [], logSigs := [], replayVals := [], replaySigs := [], oldVals := [], replies := [], snapL := y, snapT := y,
                            count := 0, lastSig := 0, ckptPc := l.code, atL := none, atT := none, state := 0 }
          { s with launches := s.launches ++ [r], pairs := s.pairs ++ [p] }
    | _, _ => s)

/-- The trailer's slot of a launch record is set up (R277, R129), four cycles after it was taken (R96). -/
def trailerReady (s : State) (r : LaunchRec) (p : Pair) (t i : BitVec 2) : State :=
  let k := s.core p.tcore
  match (k.slot t).st with
  | .launching n =>
    if s.clk.cycle < n + 4 || gated s (clusterOf p.tcore) then s
    else
      let frozen := ((k.ctx i).map (·.frozen)).getD false
      let uid := s.nextId
      let y := { setUp (k.slot t) uid { r.launch with ctx := i, trailer := some (r.lfsr, r.info) } frozen (s.slot r.core r.slot).launchBudget r.tiles r.lfsr r.info with
        trailing := true }
      let s := ({ s with nextId := uid + 1, launches := s.launches.filter fun q => q != r }).updSlot p.tcore t fun _ => y
      updPair s p fun q => { q with tslot := some t, snapT := y }
  | _ => { s with launches := s.launches.map fun q => if q = r then { q with into := none } else q }

/-- TRAILER_LAUNCH (R277): the trailer's lowest FREE slot takes the record, oldest first, one launch a cycle, and is LAUNCHING until the fourth cycle
after (R96). -/
def execTrailerLaunch (core : CoreId) (slot : BitVec 2) (s : State) : Host.Outcome State Fault Refusal :=
  .next (match s.launches.find? fun r => r.core == core && r.slot == slot with
    | none => s
    | some r =>
      match s.pairs.find? fun p => p.core == core && p.slot == slot && p.uid == r.uid with
      | none => { s with launches := s.launches.filter fun q => q != r }
      | some p =>
        let first := (s.launches.find? fun q => match s.pairs.find? fun z => z.core == q.core && z.slot == q.slot && z.uid == q.uid with
          | some z => z.tcore == p.tcore && q.into.isNone
          | none => false) == some r
        let k := s.core p.tcore
        match r.into, slotIds.find? (slotFree s k), k.ctxOf p.job with
        | some t, _, some i => trailerReady s r p t i
        | none, some t, some i =>
          if gated s (clusterOf p.tcore) || !first || decide (s.clk.cycle < k.dispatched) then s
          else
            let s := s.updCore p.tcore fun q => { q with dispatched := s.clk.cycle + 1 }
            let s := s.updSlot p.tcore t fun x => { x with st := .launching s.clk.cycle, ctx := i, launch := some r.launch, trailing := true }
            { s with launches := s.launches.map fun q => if q = r then { q with into := some t } else q }
        | _, _, _ => s)

/-- May a slot that waits be at an instruction boundary or row restart point (R98, R128)? A row or request in flight has to end
first. -/
def atBoundary (x : SlotSt) : Bool := match x with
  | .ready => true
  | .stalled (.remote _) | .stalled (.accCfg _) | .stalled (.tlbi _ _ _) | .stalled (.ctxld _) | .stalled .done | .stalled (.harv _)
  | .stalled (.step _ _) | .stalled (.memory _) => false
  | .stalled _ => true
  | _ => false

/-- BUDGET_EXHAUSTED (R98, R233): a trap BUDGET at the next boundary; TRAPADDR is the resume address. A trailing slot takes it from
its leader (R280). -/
def execBudgetExhausted (core : CoreId) (slot : BitVec 2) (s : State) : Host.Outcome State Fault Refusal :=
  .next (
    let x := s.slot core slot
    if x.budget ≠ 0 || !atBoundary x.st || x.trailing || x.stepping.isSome || gated s (clusterOf core) then s
    else
      let s := { s with cur := (core, slot) }
      let a : TReg := if x.progress.live then x.progress.tile else 0
      let s := if x.progress.live then tagPartly s a else s
      takeTrap s core slot .budget (x.pc.setWidth 64) x.pc a)

/-- TRAP_ALLOWANCE_EXPIRY (R237): a TRAPPED slot whose allowance is used up freezes, and its job with it. -/
def execTrapAllowanceExpiry (core : CoreId) (slot : BitVec 2) (s : State) : Host.Outcome State Fault Refusal :=
  .next (
    let x := s.slot core slot
    let frozen := ((s.ctxAt core x.ctx).map (·.frozen)).getD false
    if x.st ≠ .trapped || x.allowance ≠ 0 || x.trailing || frozen then s
    else freezeTrapped s core slot x.cause 2)

/-- The A field of a word; a B-format word has none (R236, R294). -/
def fieldA (w : BitVec 32) : BitVec 4 := if [0x30, 0x31, 0x32].contains (w.extractLsb' 26 6).toNat then 0 else w.extractLsb' 22 4
/-- ILLEGAL_ENCODING (R297): a word of no instruction, or one that arrived tagged (R293), traps ILLEGAL. -/
def execIllegalEncoding (w : BitVec 32) (s : State) : Host.Outcome State Fault Refusal :=
  .next (issue s 0 [] fun s => trapHere s .illegal (fieldA w))

/-- The engine context of an evicted context goes straight to PARKING (R167). -/
def parkForEviction (e : Ectx) : Ectx := match e.st with
  | .resident | .draining _ | .restoring => { e with st := .parking, forEviction := true }
  | _ => { e with forEviction := true }

/-- EVICTION_DRAINED (R108 steps 3 and 4): no slot holds a handler of the SAVING context, and its engine work parks. A Frost holds it here (R262). -/
def execEvictionDrained (core : CoreId) (ctx : BitVec 2) (s : State) : Host.Outcome State Fault Refusal :=
  .next (match s.ctxAt core ctx with
    | none => s
    | some k =>
      if k.st ≠ .saving || k.evicting || k.frozen || slotIds.any (fun t => (s.slot core t).holds ctx) then s
      else
        let s := s.updCtx core ctx fun k => { k with evicting := true }
        s.updCluster (clusterOf core) fun q => { q with
          ectxs := q.ectxs.map fun e => if e.core = core ∧ e.ctx = ctx then parkForEviction e else e
          wants := q.wants.filter fun w => !(w.1 == core && w.2 == ctx)
          copies := q.copies.map fun d => if d.core = core ∧ d.ctx = ctx then { d with parked := true } else d })

/-- EVICTION_COMPLETE (R108 steps 5 and 6): engine work is parked and the image written; the context slot is free. -/
def execEvictionComplete (core : CoreId) (ctx : BitVec 2) (s : State) : Host.Outcome State Fault Refusal :=
  .next (match s.ctxAt core ctx with
    | none => s
    | some k =>
      let q := s.cluster (clusterOf core)
      let es := q.ectxs.filter fun e => e.core == core && e.ctx == ctx
      let cs := q.copies.filter fun d => d.core == core && d.ctx == ctx
      if k.st ≠ .saving || !k.evicting || es.any (fun e => e.st != .parked) || cs.any Copy.busy then s
      else
        let s := s.updCluster (clusterOf core) fun q => { q with
          ectxs := q.ectxs.filter fun e => !(e.core == core && e.ctx == ctx)
          copies := q.copies.filter fun d => !(d.core == core && d.ctx == ctx) }
        let s := s.updCore core fun q => q.setCtx ctx none
        let s := match s.dir core k.job with
          | some d => if k.trailing then s else writeImage s d k
          | none => s
        s.updDir core k.job fun d => { d with st := .evicted, parked := es, copies := cs })

/-- Is an image unreadable (R109, R414): an uncorrectable error in it, or a malformed trigger word or code8 table? -/
def imageLost (s : State) (d : Dir) (k : Ctx) : Bool :=
  !d.trailing && (badAt s ((List.range 8192).map d.saveKey) || k.trig.toList.any (fun w => (trigBad w).isSome) || (match k.code8 with
    | some b => !code8Ok b
    | none => false))

/-- RESTORE_COMPLETE (R109, R262): the context is ACTIVE, frozen if its job is; its engine work is back, and faulted copies are tried
again (R183). An unreadable image makes it LOST. -/
def execRestoreComplete (core : CoreId) (ctx : BitVec 2) (s : State) : Host.Outcome State Fault Refusal :=
  .next (match s.ctxAt core ctx with
    | none => s
    | some k =>
      match s.dir core k.job with
      | none => s
      | some d =>
        let k := if k.trailing then k else Ctx.ofImage k (imageOf s d)
        if k.st ≠ .restoring then s
        else if imageLost s d k then
          let s := s.updCore core fun q => q.setCtx ctx none
          let s := s.updDir core k.job fun d => { d with st := .lost }
          firmwareFault s (chipletOf (clusterOf core)) k.job .contextLost 0
        else
          let frozen := (frostState s k.job).1
          let s := s.updCtx core ctx fun _ => { k with st := .active, frozen := frozen, evicting := false }
          let s := if frozen then (match s.job k.job with
            | some x => writeFrost s core k.job x.frost
            | none => s) else s
          let back (e : Ectx) : Ectx := { e with ctx := ctx, st := .parked, forEviction := false, frozen := frozen, asleep := false }
          let copy (x : Copy) : Copy := { x with ctx := ctx, parked := frozen, faulted := false }
          let s := s.updCluster (clusterOf core) fun q => { q with
            ectxs := q.ectxs ++ d.parked.map back
            copies := q.copies ++ d.copies.map copy }
          let s := if d.parked.isEmpty then s else askService s core ctx
          let s := s.updDir core k.job fun d => { d with parked := [], copies := [] }
          if k.evictAsked && !frozen then startEvict s core ctx else s)

end Sys2Proof.Machine
end

