-- ==== Sys2Proof/Machine/System.lean ====
section
/-! DEFINITION. System instructions on slots, contexts, caches and jobs (15 R408, R410 to R412, R414 to R418). -/

namespace Sys2Proof.Machine

/-- The target of SLOTRD, SLOTWR and RFT as a job may reach it (R239, R408): TRAPPED, of the same context, not the
issuing slot. -/
def jobMayReach (s : State) (t : BitVec 2) : Bool :=
  let x := s.slot s.cur.1 t
  t != s.cur.2 && x.st == .trapped && x.ctx == s.me.ctx && !x.trailing

/-- Is the target's trailing counterpart still short of the trap (log 24)? -/
def counterpartLate (s : State) (t : BitVec 2) : Bool :=
  match trailerOf s s.cur.1 t with
  | some u => (s.slot u.1 u.2).st != .trapped && (s.slot s.cur.1 t).st == .trapped
  | none => false

/-- RFT (R408, R240): t is the action, t' the slot. An action of 3 is ILLEGAL. -/
def execRft (t t' : BitVec 2) (s : State) : Host.Outcome State Fault Refusal :=
  .next (issue s 1 [] fun s =>
    if t = 3 then trapHere s .illegal 0
    else if s.me.trailing then finish (effect s [] (bytesOf 1 (t ++ t').toNat) true (.rft t' t))
    else
      let x := s.slot s.cur.1 t'
      let ok := t' != s.cur.2 && x.st == .trapped && (s.firmware || x.ctx == s.me.ctx)
      if !ok then trapHere s .perm 0
      else if counterpartLate s t' then stall s .pair
      else finish (effect s [] (bytesOf 1 (t ++ t').toNat) true (.rft t' t)))

/-- CINV (R410): a GLOBAL pointer, then every earlier access performed, then the lines leave every code cache. -/
def execCinv (b : BitVec 4) (l : BitVec 12) (s : State) : Host.Outcome State Fault Refusal :=
  .next (issueRead s 0 (if b = 0 then [] else [b]) [] 1 atOnce
    (fun _ x => do
      if b = 0 then .ok none
      else
        let t := x.tile b
        needs .poison (!t.tag)
        let p ← controlOf t
        match ptrOf p with
        | none => .error (.bounds, some p)
        | some q => if q.space = 2 ∧ q.zeroOk then .ok (some (BitVec.ofNat 48 (q.addr / 64 * 64))) else .error (.bounds, some p))
    (fun s _ => if (ownEvents s (ownerOf s)).isEmpty then none else some .drain)
    fun s v => finish (effect s (bytesOf 8 ((v.getD 0).toNat)) (bytesOf 2 l.toNat) true (.cinv s.myCtx.asid v (l.toNat + 1))))

/-- TLBI (R411): the slot waits for the completion of R148, which retires it. s' is the scope, k the kind. -/
def execTlbi (a b : BitVec 4) (s' : BitVec 1) (k : BitVec 2) (s : State) : Host.Outcome State Fault Refusal :=
  .next (if !s.firmware then trapHere s .priv a else
    issueRead s a (if k = 0 then [a, b] else if k = 1 then [a] else []) [] 0 atOnce
      (fun _ x => do
        if k = 3 then .error (.illegal, none)
        else if k = 2 then .ok ((none : Option (BitVec 16)), (none : Option (BitVec 48)))
        else
          let v ← controlOf (x.tile a)
          needs .shape (decide (v.toNat ≤ 1023))
          if k = 1 then .ok (some (v.setWidth 16), none)
          else
            let p ← controlOf (x.tile b)
            match ptrOf p with
            | none => .error (.bounds, some p)
            | some q =>
              if q.space = 2 ∧ q.zeroOk then
                if (x.tile b).tag then .error (.poison, none) else .ok (some (v.setWidth 16), some (BitVec.ofNat 48 q.addr))
              else .error (.bounds, some p))
      noWait
      fun s v => stall s (.tlbi v.1 v.2 (s' == 1)))

/-- The items of R239 that a job's SLOTRD, and its SLOTWR, may name. -/
def jobItem (write : Bool) (t : BitVec 2) (n : BitVec 8) : Bool :=
  if t = 3 then
    if write then n == 0x20 else [0x20, 0x30, 0x31, 0x21, 0x22, 0x50].contains n.toNat
  else true

/-- An item of another slot as SLOTRD returns it (R412). -/
def slotItem (s : State) (i t : BitVec 2) (n : BitVec 8) : Tile :=
  let x := s.slot s.cur.1 i
  let r : TReg := n.setWidth 4
  match t.toNat with
  | 0 => x.tile r
  | 1 => Tile.ofInt .int64 ((x.tile r).shapeWord : Int) false
  | 2 => uwordTile (x.mask (n.setWidth 2)) false
  | _ => Tile.ofWord (csrRead s s.cur.1 i (n.setWidth 12)) false

/-- Are the loads of a slot held from its tiles until a resume, so that a read of them returns what was there before (R255)? -/
def heldBack (s : State) (i : BitVec 2) : Bool := ((s.ctxAt s.cur.1 (s.slot s.cur.1 i).ctx).map (·.frozen)).getD false
/-- SLOTRD (R412, R239): i is the slot, t and n the item. The leader finds the traps and the value (R419). -/
def execSlotrd (a : BitVec 4) (i t : BitVec 2) (n : BitVec 8) (s : State) : Host.Outcome State Fault Refusal :=
  .next (issue s 1 [a] fun s =>
    if s.me.trailing then issueOutside s a Tile.zero
    else if (!s.firmware && !jobItem false t n) || (t == 3 && !csrAssigned (n.setWidth 12)) then trapHere s .illegal a
    else if !s.firmware && !jobMayReach s i then trapHere s .perm a
    else if t = 0 ∧ (s.slot s.cur.1 i).tileBusy (n.setWidth 4) ∧ !heldBack s i then stall s (.target i)
    else issueOutside s a (slotItem s i t n))

/-- SLOTWR (R412, R239): i is the slot, t and n the item; an illegal shape, a stream-bound tile and a tagged source
trap. -/
def execSlotwr (b : BitVec 4) (i t : BitVec 2) (n : BitVec 8) (s : State) : Host.Outcome State Fault Refusal :=
  .next (issueRead s 0 [b] [] 1 atOnce
    (fun s x => do
      let v := x.tile b
      let job := !s.firmware
      needs .illegal (!((job && !jobItem true t n) || (t == 3 && !csrAssigned (n.setWidth 12))))
      let w ← if t = 0 then .ok v.word else controlOf v
      needs .shape (t != 1 || (shapeFromBits w.toNat).isSome)
      needs .perm (s.me.trailing || !job || jobMayReach s i)
      needs .poison (!v.tag)
      needs .stream (s.me.trailing || !(t == 0 || t == 1) || (boundTo s s.cur.1 i (n.setWidth 4)).isNone)
      .ok (if t = 0 then v else uwordTile w false))
    noWait
    fun s v => finish (effect s (bytesOf 2 ((t ++ i).toNat)) (bytesOf 1 n.toNat ++ v.byteRange 0 64) true (.slotwr i t n v)))

/-- The directory entry at a physical address (R82, R414). -/
def dirAt (s : State) (pa : Nat) : Option Dir := s.fw.dirs.find? fun d => d.addr.toNat == pa

/-- The pointer of CTXLD and CTXSV (R414): SYSTEM, aligned to 16 B. -/
def dirPointer (t : Tile) : Check Nat := do
  let p ← controlOf t
  match ptrOf p with
  | none => .error (.bounds, some p)
  | some q =>
    if q.space = 5 ∧ q.zeroOk then
      if q.addr % 16 = 0 then (if t.tag then .error (.poison, none) else .ok q.addr) else .error (.align, some p)
    else .error (.bounds, some p)

/-- CTXLD (R414, R109): the context restores in the named context slot, and the slot waits until it is ACTIVE or
LOST. -/
def execCtxld (b : BitVec 4) (c : BitVec 2) (s : State) : Host.Outcome State Fault Refusal :=
  .next (if !s.firmware then trapHere s .priv 0 else
    match s.me.st with
    | .stalled (.ctxld _) => finish s
    | _ =>
      issueRead s 0 [b] [] 0 atOnce
        (fun s x => do
          let pa ← dirPointer (x.tile b)
          match dirAt s pa with
          | none => .error (.perm, none)
          | some d =>
            needs .perm ((d.st == .absent || d.st == .evicted) && d.core == s.cur.1 && (s.ctxAt s.cur.1 c).isNone
              && ((s.core s.cur.1).ctxOf d.job).isNone)
            .ok d)
        noWait
        fun s d =>
          let s := s.updCore s.cur.1 fun q => q.setCtx c (some (restoringCtx s d))
          let s := s.updDir s.cur.1 d.job fun d => { d with st := .resident, slot := c, asked := false }
          stall s (.ctxld c))

/-- CTXSV (R414, R413): the image of a frozen, settled context is written; the context stays. -/
def execCtxsv (b : BitVec 4) (c : BitVec 2) (s : State) : Host.Outcome State Fault Refusal :=
  .next (if !s.firmware then trapHere s .priv 0 else
    issueRead s 0 [b] [] 0 atOnce
      (fun s x => do
        let pa ← dirPointer (x.tile b)
        match dirAt s pa, s.ctxAt s.cur.1 c with
        | some d, some k =>
          needs .perm (k.job == d.job && k.frozen && settledCore s s.cur.1 k.job)
          .ok (d, k)
        | _, _ => .error (.perm, none))
      noWait
      fun s v => finish (if v.1.trailing then s else writeImage s v.1 v.2))

/-- CTXEV (R414, R108). -/
def execCtxev (c : BitVec 2) (s : State) : Host.Outcome State Fault Refusal :=
  .next (if !s.firmware then trapHere s .priv 0 else
    issue s 0 [] fun s =>
      match s.ctxAt s.cur.1 c with
      | none => trapHere s .perm 0
      | some _ => finish (startEvict s s.cur.1 c))

/-- RESUME (R415, R259): Ta becomes the status. -/
def execResume (a b : BitVec 4) (s : State) : Host.Outcome State Fault Refusal :=
  .next (if !s.firmware then trapHere s .priv a else
    issueRead s a [a, b] [a] 0 atOnce
      (fun _ x => do
        let j ← controlOf (x.tile a)
        let t ← controlOf (x.tile b)
        .ok (j, t, (x.tile a).tag || (x.tile b).tag))
      noWait
      fun s v =>
        let r := resumeRequest s (v.1.setWidth 16) v.2.1
        finish (r.2.updMe fun x => x.setTile a (Tile.ofWord (BitVec.ofNat 64 r.1) v.2.2)))

/-- A generation harvested and not committed (R282). -/
def uncommitted (x : Job) : Bool :=
  let pend (g : Option Generation) : Bool := match g with
    | some g => some g.number != x.committed && (match x.committed with
        | some n => decide (n.toNat < g.number.toNat)
        | none => true)
    | none => false
  pend x.gens.1 || pend x.gens.2

/-- HARV (R415): steps 1 to 3 of R283; the slot waits, and then Ta takes generation and status. -/
def execHarv (a : BitVec 4) (s : State) : Host.Outcome State Fault Refusal :=
  .next (if !s.firmware then trapHere s .priv a else
    let fin (s : State) (g : BitVec 32) (st : BitVec 8) : State :=
      finish (s.updMe fun x => x.setTile a (uwordTile (g ++ (0 : BitVec 24) ++ st) false))
    match s.me.st with
    | .stalled (.harv j) => fin s (((s.job j).map (·.genCount)).getD 0) 0
    | _ =>
      issueRead s a [a] [a] 0 atOnce (fun _ x => controlOf (x.tile a)) noWait
        fun s v =>
          let j : JobId := v.setWidth 16
          match s.job j with
          | none => fin s 0 5
          | some x =>
            if x.harvesting then fin s 0 1
            else if uncommitted x then fin s 0 6
            else
              let s := firmwareFrost s j 5 1 s.cur.1 s.cur.2
              let s := s.updJob j fun x => { x with harvesting := true, harvestCmd := none, harvestKeep := true }
              stall s (.harv j))

/-- PAIRSIG (R416): the pair of the named context and slot of this core, or 0. -/
def execPairsig (a : BitVec 4) (s : State) : Host.Outcome State Fault Refusal :=
  .next (if !s.firmware then trapHere s .priv a else
    issueAlu s a [a] [a] fun x =>
      match (x.tile a).control with
      | none => .error .shape
      | some v =>
        let w := BitVec.ofInt 64 v
        let i : BitVec 2 := w.setWidth 2
        let k : BitVec 2 := w.extractLsb' 2 2
        let r : Word64 := match s.pairs.find? fun p =>
            p.core == s.cur.1 && p.slot == i && p.uid == (s.slot s.cur.1 i).uid && (s.slot s.cur.1 i).ctx == k with
          | some p => p.lastSig ++ (0 : BitVec 9) ++ BitVec.ofNat 7 p.buf.length ++ (pairWord s p).extractLsb' 35 2
              ++ (0 : BitVec 4) ++ BitVec.ofNat 10 p.count
          | none => 0
        .ok (AluOut.one a (uwordTile r (x.tile a).tag) 0))

/-- Begin a single step of a slot and of its trailing counterpart (R257, R280): the status that refuses it, or none. -/
def beginStep (s : State) (j : JobId) (c : CoreId) (i : BitVec 2) (row : Bool) : Option Nat × State :=
  match s.job j with
  | none => (some 5, s)
  | some x =>
    if !(x.region.contains (clusterOf c)) then (some 5, s)
    else
      let y := s.slot c i
      let kind := x.frost.cause.extractLsb' 8 4
      let mine := ((s.ctxAt c y.ctx).map (·.job)) == some j
      let ready := x.frost.active && kind != 5 && mine && frozenAt s c j && (match y.st with
        | .frozen _ _ => true
        | _ => false)
      if !ready then (some 6, s)
      else
        let go (s : State) (c : CoreId) (i : BitVec 2) : State := s.updSlot c i fun y => { y with
          st := match y.st with
            | .frozen (some w) _ => .stalled w
            | _ => .ready
          stepFrom := y.st, stepping := some y.icount, stepStatus := 0, rowOnly := row }
        let s' := go s c i
        (none, match trailerOf s c i with
          | some t => go s' t.1 t.2
          | none => s')

/-- STEP (R418, R257): the slot waits while the stepped slot runs, and then Tb takes its PROGRESS and the status. -/
def execStep (b : BitVec 4) (r : BitVec 1) (i : BitVec 2) (s : State) : Host.Outcome State Fault Refusal :=
  .next (if !s.firmware then trapHere s .priv b else
    let fin (s : State) (p : BitVec 16) (st : BitVec 8) : State :=
      finish (s.updMe fun x => x.setTile b (uwordTile ((0 : BitVec 32) ++ p ++ (0 : BitVec 8) ++ st) false))
    match s.me.st with
    | .stalled (.step c t) => let y := s.slot c t; fin s (y.progress.word.setWidth 16) y.stepStatus
    | _ =>
      issueRead s b [b] [b] 0 atOnce (fun _ x => controlOf (x.tile b)) noWait
        fun s v =>
          let c : CoreId := v.extractLsb' 16 20
          match beginStep s (v.setWidth 16) c i (r == 1) with
          | (some st, s) => fin s ((s.slot c i).progress.word.setWidth 16) (BitVec.ofNat 8 st)
          | (none, s) => stall s (.step c i))

end Sys2Proof.Machine
end

