-- ==== Sys2Proof/Machine/Halt.lean ====
section
/-! DEFINITION. The Frost halt on the part (09 R247 to R262): gate, wave, words from other parts, resume, single steps at their
end (R257, R258). -/

namespace Sys2Proof.Machine

/-- CLOCK_GATE (R249): 12 cycles after detection the origin's cluster is gated, and the job's cores in it freeze. In debug mode
the gate lasts until the capture, at most 16,384 cycles. -/
def execClockGate (cluster : ClusterId) (s : State) : Host.Outcome State Fault Refusal :=
  .next (match (s.cluster cluster).gateAt with
    | none => s
    | some (at_, j) =>
      if s.clk.cycle < at_ then s
      else
        let len := if s.fw.debugMode then 16384 else 16
        let s := s.updCluster cluster fun q => { q with gateAt := none, gate := some { endAt := s.clk.cycle + len, job := j } }
        let l := ((s.job j).map (·.frost.waiting)).getD []
        (l.filter fun c => clusterOf c == cluster).foldl (fun s c => freezeCore s c j) s)

/-- CLOCK_GATE_END (R249): the gate's time is over, or in debug mode its cluster's scan image is captured. -/
def execClockGateEnd (cluster : ClusterId) (s : State) : Host.Outcome State Fault Refusal :=
  .next (match (s.cluster cluster).gate with
    | none => s
    | some g =>
      if !s.fw.debugMode && decide (s.clk.cycle < g.endAt) then s
      else
        let seq := ((s.job g.job).map (·.frost.seq)).getD 0
        let s := s.updCluster cluster fun q => { q with
          gate := none, capture := if s.fw.debugMode then some (s.freeCnt, s.now, g.job, seq) else q.capture }
        { s with freeCnt := s.freeCnt + 1 })

/-- FROST_WAVE_ARRIVAL (R250): not before 12 cycles after detection on the origin's part. -/
def execFrostWaveArrival (core : CoreId) (job : JobId) (s : State) : Host.Outcome State Fault Refusal :=
  .next (match s.job job with
    | none => s
    | some x =>
      let own := x.frost.origin.extractLsb' 48 16 == s.part
      if !x.frost.waiting.contains core || (own && decide (s.clk.cycle < x.frost.detected + 12)) then s
      else freezeCore s core job)

/-- Is count a below count b modulo 2^24 (R251)? -/
def countBelow (a b : BitVec 24) : Bool := decide (0 < (b - a).toNat ∧ (b - a).toNat < 2 ^ 23)

/-- Does a word rank before the one a part holds (R251)? -/
def outranks (w : FrostWord) (f : Frost) : Bool :=
  let s := seqWord w.count w.part w.core w.slot
  decide (w.time.toNat < f.time.toNat) || (w.time == f.time && decide ((s.extractLsb' 0 40).toNat < (f.seq.extractLsb' 0 40).toNat))

/-- FROST_WORD_RECEIVE (R50, R251): a word seen before is discarded; one of a lower count or lower rank goes no further; a new count
freezes the job here and cancels a pending resume (R261); a higher rank is adopted, and merged set. -/
def execFrostWordReceive (port : BitVec 4) (w : FrostWord) (s : State) : Host.Outcome State Fault Refusal :=
  .next (
    let seq := seqWord w.count w.part w.core w.slot
    if s.lam.frostSeen.contains (w.job, seq) then s
    else
      let seen := { s with lam := { s.lam with frostSeen := s.lam.frostSeen ++ [(w.job, seq)] } }
      match s.job w.job with
      | none => floodFrost seen w (some port)
      | some x =>
        let f := x.frost
        if countBelow w.count f.count then seen
        else if w.count = f.count then
          if outranks w f then
            let keep := f.cause &&& 0x1F
            let cause := ((causeWord w.kind w.code) &&& ~~~(0x1F : Word64)) ||| (keep &&& 0x1D) ||| (if w.kind.toNat ≤ 4 then 2 else 0) ||| 0x10
            let s := seen.updJob w.job fun x => { x with frost := { x.frost with
              cause := cause, origin := originWord w.part w.core w.slot, time := w.time, seq := seq } }
            floodFrost (writeFrostAll s w.job) w (some port)
          else seen
        else
          let s := seen.updJob w.job fun x => { x with frost := { x.frost with
            count := w.count, cause := causeWord w.kind w.code, origin := originWord w.part w.core w.slot, time := w.time, seq := seq,
            detected := s.clk.cycle, active := true, waiting := if f.active then f.waiting else jobCores s w.job, resume := none, resuming := [] } }
          floodFrost (writeFrostAll s w.job) w (some port))

/-- RESUME_WORD_RECEIVE (R259, R261): pending from now on, unless the count is another or has been resumed. A word after its instant
resumes at once and sets late. -/
def execResumeWordReceive (port : BitVec 4) (job : JobId) (count : BitVec 24) (at_ : Word64) (s : State) : Host.Outcome State Fault Refusal :=
  .next (
    let known := s.lam.resumes.any fun r => r.2.1 == job && r.2.2.1 == count && r.2.2.2 == at_
    let s := if known then s else floodResume s job count at_ (some port)
    match s.job job with
    | none => s
    | some x =>
      let f := x.frost
      if count ≠ f.count || !f.active || f.resumed.contains count || f.resume.isSome then s
      else
        let late := decide (at_.toNat < s.now.toNat)
        let s := s.updJob job fun x => { x with frost := { x.frost with
          resume := some at_, cause := if late then x.frost.cause ||| 8 else x.frost.cause } }
        setPending s job true)

/-- FROST_CONTROL_DEBUG (R415): a firmware slot's store of command 4 to the Frost control register. -/
def execFrostControlDebug (job : JobId) (core : CoreId) (slot : BitVec 2) (s : State) : Host.Outcome State Fault Refusal :=
  .next (frostStore s ((0 : BitVec 16) ++ job ++ (4 : BitVec 32)) core slot)
/-- FROST_CONTROL_QUIESCE (R415): command 5 with a code. -/
def execFrostControlQuiesce (job : JobId) (code : BitVec 8) (core : CoreId) (slot : BitVec 2) (s : State) : Host.Outcome State Fault Refusal :=
  .next (frostStore s ((0 : BitVec 16) ++ job ++ (0 : BitVec 16) ++ code ++ (5 : BitVec 8)) core slot)

/-- FROST_CONTROL_MESSAGE (R75): a command relayed by another part's firmware is performed here; FROST_READ changes nothing. -/
def execFrostControlMessage (m : FrostCtl) (s : State) : Host.Outcome State Fault Refusal :=
  .next (
    let s := { s with fw := { s.fw with relays := s.fw.relays.erase m } }
    match m with
    | .frost j => if ((s.job j).map fun x => !x.region.isEmpty).getD false then firmwareFrost s j 4 0 0 0 else s
    | .read _ => s
    | .step j c i row => (beginStep s j c i row).2
    | .resume j t => (resumeRequest s j t).2)

/-- A record of the frozen-arrival buffer meets rows 3 to 6 of R89 as if it arrived now (R260): its fate, the context taken as not frozen. -/
def thawedFate (s : State) (c : CoreId) (j : JobId) (m : Msg) : Fate :=
  let d := s.dir c j
  let diverting := (d.map Dir.diverting).getD false
  let full := (d.map Dir.full).getD false
  if diverting then (if m.vnet = 0 ∧ full = true then (if m.kind = 0 then .refuse else .fold) else .ring)
  else if m.kind = 1 ∨ m.kind = 2 then .apply
  else if (s.core c).queue.length < Config.queueEntries then .queue
  else .ring
/-- The oldest record of a frozen-arrival buffer is delivered (R260 step 2); it waits for the next cycle where the NI has made its entry of this one. -/
def deliverFrozen (s : State) (c : CoreId) (j : JobId) (i : BitVec 2) : State :=
  match (s.dir c j).map (·.fbuf) with
  | some (x :: rest) =>
    let m := x.msg
    let r : SpillRec := { msg := m, stamp := if m.kind = 0 then s.clk.cycle else 0, w := 0, evict := false }
    let pop (s : State) : State := s.updDir c j fun d => { d with fbuf := rest, fHead := (d.fHead + 1) % 1024 }
    match thawedFate s c j m with
    | .queue => if niFree s c then enqueue (pop s) c i m s.clk.cycle 0 false else s
    | .ring => ringAppend (pop s) c j r
    | .apply => (pop s).updCtx c i fun k => applySignal k m
    | .refuse => refuse (pop s) c m false
    | .fold => (pop s).updDir c j fun d => d.fold m
    | _ => s
  | _ => s
/-- The same over and over, n times at most. -/
def deliverAll (c : CoreId) (j : JobId) (i : BitVec 2) : Nat → State → State
  | 0, s => s
  | n + 1, s => deliverAll c j i n (deliverFrozen s c j i)

/-- Messages of the timed store whose instant has come go, n at most. -/
def timedGo (c : CoreId) : Nat → State → State
  | 0, s => s
  | n + 1, s =>
    match execSendatInject c s with
    | .next t => timedGo c n t
    | _ => s

/-- A slot at the resume (R247, R260): after an unhandled trap it issues again from its resume address with its budget as at launch;
after BRK it goes on. -/
def thaw (x : Slot) : Slot :=
  match x.st with
  | .frozen _ true => { x with st := .ready, pc := x.resumeAt ++ (0 : BitVec 2), budget := if x.cause = 0x0B then x.setAside else x.launchBudget, stepping := none }
  | .frozen (some w) false => { x with st := .stalled w, stepping := none }
  | .frozen none false => { x with st := .ready, stepping := none }
  | _ => x

/-- Step 1 of a resume on one core (R260): the held writes. -/
def resumeBegin (s : State) (c : CoreId) (j : JobId) : State :=
  match (s.core c).ctxOf j with
  | none => s
  | some i => slotIds.foldl (fun s t => if (s.slot c t).holds i then makeHeld s c t else s) s

/-- Steps 2 to 4 of a resume on one core (R260), true once it is over. Records go in order, one entry into the queue in a cycle (R94), and arrivals join the
tail, the context frozen until the buffer is empty; then space notices where the buffer set refusing, waiting output, slots, engines. -/
def resumeCore (s : State) (c : CoreId) (j : JobId) : Bool × State :=
  match (s.core c).ctxOf j with
  | none => (true, s)
  | some i =>
    let mine (s : State) (t : BitVec 2) : Bool := (s.slot c t).holds i
    let s := deliverAll c j i (((s.dir c j).map fun d => d.fbuf.length).getD 0) s
    if ((s.dir c j).map fun d => !d.fbuf.isEmpty).getD false then (false, s)
    else
      let s := s.updCtx c i fun k => { k with frozen := false }
      let s := match s.job j with
        | some x => writeFrost s c j x.frost
        | none => s
      let s := if ((s.dir c j).map (·.byBuffer)).getD false then spaceNotices s c j (((s.dir c j).map (·.spillQ)).getD 0) else s
      let s := flushOut (timedGo c (s.core c).timed.length s) c
      let s := slotIds.foldl (fun s t => if mine s t then s.updSlot c t thaw else s) s
      let s := s.updCluster (clusterOf c) fun q => { q with
        ectxs := q.ectxs.map fun e => if e.core = c ∧ e.ctx = i then { e with frozen := false, asleep := false } else e
        copies := q.copies.map fun d => if d.core = c ∧ d.ctx = i then { d with parked := false, faulted := false } else d }
      match s.ctxAt c i with
      | some k => (true, if k.evictAsked then startEvict s c i else s)
      | none => (true, s)

/-- Cores whose resume is under way go on with it (R260). -/
def resumeOn (s : State) (j : JobId) (l : List CoreId) : State :=
  let go (acc : List CoreId × State) (c : CoreId) : List CoreId × State :=
    let r := resumeCore acc.2 c j
    if r.1 then (acc.1, r.2) else (acc.1 ++ [c], r.2)
  let r := l.foldl go ([], s)
  r.2.updJob j fun x => { x with frost := { x.frost with resuming := r.1 } }

/-- RESUME_INSTANT (R260): at the instant the job's cores on the part go on, each once its frozen-arrival buffer is empty; frozen and pending clear. -/
def execResumeInstant (job : JobId) (s : State) : Host.Outcome State Fault Refusal :=
  .next (match s.job job with
    | none => s
    | some x =>
      if !x.frost.resuming.isEmpty then resumeOn s job x.frost.resuming
      else
        match x.frost.resume with
        | none => s
        | some t =>
          if s.now.toNat < t.toNat || !x.frost.active || !x.frost.waiting.isEmpty then s
          else
            let s := s.updJob job fun x => { x with frost := { x.frost with
              active := false, resume := none, resumed := x.frost.resumed ++ [x.frost.count], byWarning := false, cause := x.frost.cause &&& ~~~(5 : Word64) } }
            let l := coresOf s job
            resumeOn (l.foldl (fun s c => resumeBegin s c job) s) job l)

/-- A step that stops before its instruction: the test of R257 is made before any held write. -/
def wouldWait (w : Wait) : Bool := match w with
  | .stream | .output | .island | .copyPlace => true
  | _ => false

/-- A stepped slot issues no more: it is FROZEN again, with the status of R257. -/
def endStep (s : State) (c : CoreId) (i : BitVec 2) (w : Option Wait) (status : BitVec 8) : State :=
  s.updSlot c i fun x => { x with st := .frozen w false, stepStatus := status, rowOnly := false }

/-- After an issue of a stepping slot (R257): retired, or one row done under .ROW, it is FROZEN; a wait of the four kinds ends the step
with status 1, nothing done; any other wait goes on once the held writes are made. -/
def afterStep (s : State) (c : CoreId) (i : BitVec 2) : State :=
  let x := s.slot c i
  match x.stepping with
  | none => s
  | some n =>
    match x.st with
    | .ready => if x.icount ≠ n ∨ x.rowOnly = true then endStep (makeHeld s c i) c i none 0 else s
    | .frozen _ _ => (makeHeld s c i).updSlot c i fun y => { y with rowOnly := false }
    -- status 1: nothing is done, so the slot is as it was
    | .stalled w => if wouldWait w && !x.progress.live then s.updSlot c i fun y => { y with st := y.stepFrom, stepStatus := 1, rowOnly := false } else makeHeld s c i
    | _ => (makeHeld s c i).updSlot c i fun y => { y with stepping := none, rowOnly := false }

/-- Is the instruction of a slot's single step under way: not retired, its data or replies out, or its sends not injected (R257, R258)? -/
def stepBusy (s : State) (c : CoreId) (i : BitVec 2) : Bool :=
  let x := s.slot c i
  match x.stepping with
  | none => false
  | some n =>
    (match x.st with
      | .frozen _ _ => false
      | _ => true) || (x.pend.any fun p => p.n == n && !p.evs.isEmpty)
      || (s.core c).out.any fun o => o.stepped && o.slot == i && o.uid == x.uid

/-- Is a single step over, the trailing slot's and its comparison included (R257, R280)? -/
def stepOver (s : State) (c : CoreId) (i : BitVec 2) : Bool :=
  !stepBusy s c i && (match s.pairs.find? fun p => p.core == c && p.slot == i && p.uid == (s.slot c i).uid with
    | some p => p.buf.isEmpty && (match p.tslot with
      | some u => !stepBusy s p.tcore u
      | none => true)
    | none => true)

end Sys2Proof.Machine
end

