-- ==== Sys2Proof/Machine/Island.lean ====
section
/-! DEFINITION. The outer-product island (06 R173 to R179, 15 R400 to R403): acceptance, firing and answers. -/

namespace Sys2Proof.Machine

/-- Cell (m, n) of an accumulator. -/
def Acc.cell (x : Acc) (m n : Nat) : Nat := (x.cells.toNat >>> (32 * (32 * m + n))) % 2 ^ 32
/-- An accumulator with cells given by position. -/
def Acc.withCells (x : Acc) (f : Nat → Nat → Nat) : Acc :=
  { x with cells := BitVec.ofNat 32768 (packBits 32 ((List.range 1024).map fun i => f (i / 32) (i % 32))) }

/-- One product added to a cell (R177): modulo 2^32, or rounded to nearest in FP32 with a signed zero by R195. -/
def mulAdd (fp32 : Bool) (af bf : Fmt) (acc a b : Nat) : Nat :=
  if fp32 then
    let p := mulVal (valOf none af a) (valOf none bf b)
    roundFloat fp32Spec .rne (addVal .rne (valFloat fp32Spec acc) p)
  else wrapTo 32 ((acc : Int) + intOf af a * intOf bf b)

/-- The steps of row m: (position in A's elements, k), in K order (R174, R175). -/
def postSteps (cls : Nat) (maps : List Nat) (sp : BitVec 2) (tr : Bool) (m : Nat) : List (Nat × Nat) :=
  let k := postK cls sp
  if sp = 0 then (List.range k).map fun j => (if tr then 32 * j + m else k * m + j, j)
  else ((List.range 12).filter fun j => (maps.getD m 0).testBit j).zipIdx.map fun p => (keptOf sp * m + p.2, p.1)

/-- Is a row's keep bitmap valid (R175)? -/
def mapOk (sp : BitVec 2) (b : Nat) : Bool :=
  ((List.range 12).filter fun j => b.testBit j).length == keptOf sp && b / 2 ^ 12 % 16 == 0

/-- A post applied (R177). -/
def applyPost (x : Acc) (a : List Nat) (af : Fmt) (maps : List Nat) (b : List Nat) (bf : Fmt) (sp : BitVec 2) (tr zf tag : Bool) : Acc :=
  let cls := (postClass af).getD 0
  let start (m n : Nat) : Nat := if zf then 0 else x.cell m n
  let y := x.withCells fun m n => (postSteps cls maps sp tr m).foldl
    (fun acc q => mulAdd x.fp32 af bf acc (a.getD q.1 0) (b.getD (32 * q.2 + n) 0)) (start m n)
  { y with tag := x.tag || tag }

/-- A fault event of the island (R241, R242): source 3. -/
def islandFault (s : State) (e : IslandEntry) (c : Cause) (sub : BitVec 8) : State :=
  sendFault s e.core e.job c { source := 3, slot := e.slot, tile := 0, row := 0, acc := e.acc, sub := sub, count := 0 } 0

/-- An accumulator of a cluster changed. -/
def updAcc (s : State) (k : ClusterId) (n : BitVec 3) (f : Acc → Acc) : State :=
  s.updCluster k fun q => q.setAcc n (f (q.acc n))

/-- What the island makes of an entry as it accepts it (R176, R400, R403): a POSTH takes the held B of that moment with its tag, a
post with a B group replaces it, an ACCCFG is decided by the state it finds. The held B follows the order of acceptance, in which the entries of one
accumulator are performed (R178): an ACCCFG that will be performed empties it here. -/
def acceptEntry (s : State) (k : ClusterId) (e : IslandEntry) : State :=
  let x := (s.cluster k).acc e.acc
  let mine := x.owner == some e.job
  let put (s : State) (e : IslandEntry) : State := s.updCluster k fun q => { q with island := q.island ++ [e] }
  match e.op with
  | .post a af maps none sp tr zf tag =>
    let cls := (postClass af).getD 0
    let op : IslandOp := match x.heldB with
      | some (b, bf, kk, bt) => if kk = postK cls sp ∧ postClass bf = some cls then .post a af maps (some (b, bf)) sp tr zf (tag || bt) else .drop .engine
      | none => .drop .engine
    put s { e with op := op, lost := !mine }
  | .post _ af _ (some (b, bf)) sp _ _ tag =>
    let s := if mine then updAcc s k e.acc fun x => { x with heldB := some (b, bf, postK ((postClass af).getD 0) sp, tag) } else s
    put s { e with lost := !mine }
  | .config v =>
    if v = 2 then put s (if mine then e else { e with op := .answered true })
    else if x.owner.isNone then
      let s := updAcc s k e.acc fun _ => { owner := some e.job, fp32 := v == 1, cells := 0, tag := false, heldB := none }
      put s { e with op := .answered false }
    else if mine then put (updAcc s k e.acc fun x => { x with heldB := none }) e
    else put s { e with op := .answered true }
  | _ => put s { e with lost := !mine }

/-- POST_ACCEPT (R229, R400): the slot's oldest held entry, once the accesses of its classes are performed and the queue
has room. Output of a frozen job waits (R254), but for what a single step issued and what its slot issued before that (R258). -/
def execPostAccept (core : CoreId) (slot : BitVec 2) (s : State) : Host.Outcome State Fault Refusal :=
  .next (
    let k := clusterOf core
    match (s.cluster k).heldPosts.find? fun e => e.core == core && e.slot == slot with
    | none => s
    | some e =>
      let full := e.counts && decide (Config.islandQueue ≤ ((s.cluster k).island.filter IslandEntry.counts).length)
      let held := frozenAt s core e.job && !(s.cluster k).heldPosts.any fun h => h.core == core && h.slot == slot && h.stepped
      if gated s k || e.evs.any (outstanding s) || full || held then s
      else flushAll (acceptEntry (s.updCluster k fun q => { q with heldPosts := q.heldPosts.filter fun h => h.id != e.id }) k e))

/-- Is an entry first among those of its accumulator? -/
def islandFirst (k : Cluster) (e : IslandEntry) : Bool :=
  match k.island.find? fun x => x.acc == e.acc with
  | some x => x.id == e.id
  | none => false

/-- The tiles of an ACCRD (R401): elements of rows row0 to row0 + n, or zero with the tag when it is discarded. -/
def accrdRets (e : IslandEntry) (x : Acc) (row0 : Nat) (half : Bool) (a : TReg) (n : BitVec 2) (tag lost : Bool) : List Ret :=
  (List.range (n.toNat + 1)).map fun q =>
    let bytes := (List.range 16).flatMap fun j => bytesOf 4 (if lost then 0 else x.cell (row0 + q) ((if half then 16 else 0) + j))
    { id := e.id, owner := .slot e.core e.slot e.uid, dst := a + BitVec.ofNat 4 q, bytes := bytes.zipIdx.map fun p => (p.2, p.1),
      tag := tag || x.tag || lost, shape := some (if x.fp32 then .fp32 else .int32) }

/-- ISLAND_ENTRY_FIRE (R178): a post, ACCRD or ACCZ that is first for its accumulator. -/
def execIslandEntryFire (cluster : ClusterId) (n : Nat) (s : State) : Host.Outcome State Fault Refusal :=
  .next (match (s.cluster cluster).island[n]? with
    | none => s
    | some e =>
      let x := (s.cluster cluster).acc e.acc
      if gated s cluster || !islandFirst (s.cluster cluster) e || !e.counts then s
      else
        let s := s.updCluster cluster fun q => { q with island := q.island.filter fun y => y.id != e.id }
        let lost := e.lost || x.owner != some e.job
        let tagged (s : State) : State := updAcc s cluster e.acc fun x => { x with tag := true }
        match e.op with
        | .post a af maps b sp tr zf tag =>
          if lost then islandFault s e .engine 0x06
          else if x.fp32 ≠ ((postClass af).getD 0 != 0) then islandFault (tagged s) e .engine 0x02
          else if sp ≠ 0 ∧ !(List.range 32).all fun m => mapOk sp (maps.getD m 0) then islandFault (tagged s) e .opaSparsity 0
          else match b with
            | none => s
            | some (bv, bf) => updAcc s cluster e.acc fun x => applyPost x a af maps bv bf sp tr zf tag
        | .accrd row0 half a n tag =>
          let s := { s with rets := s.rets ++ accrdRets e x row0 half a n tag lost }
          if lost then islandFault s e .engine 0x06 else s
        | .accz =>
          if lost then islandFault s e .engine 0x06 else updAcc s cluster e.acc fun x => { x with cells := 0, tag := false }
        | .drop c => if lost then islandFault s e .engine 0x06 else islandFault (tagged s) e c 0
        | _ => s)

/-- The wait of a slot answered, frozen or not. -/
def answerCfg (x : SlotSt) (p : Bool) : SlotSt :=
  match x with
  | .stalled (.accCfg none) => .stalled (.accCfg (some p))
  | .frozen (some (.accCfg none)) u => .frozen (some (.accCfg (some p))) u
  | x => x

/-- ACCCFG_ANSWER (R403): the answer that acceptance decided, or the change made once every earlier entry for the
accumulator is performed. -/
def execAcccfgAnswer (core : CoreId) (slot : BitVec 2) (s : State) : Host.Outcome State Fault Refusal :=
  .next (
    let k := clusterOf core
    match (s.cluster k).island.find? fun e => e.core == core && e.slot == slot && !e.counts with
    | none => s
    | some e =>
      if gated s k then s else
      let gone (s : State) : State := s.updCluster k fun q => { q with island := q.island.filter fun y => y.id != e.id }
      let tell (s : State) (p : Bool) : State :=
        s.updSlot core slot fun x => if x.uid = e.uid then { x with st := answerCfg x.st p } else x
      match e.op with
      | .answered p => tell (gone s) p
      | .config v =>
        if !islandFirst (s.cluster k) e then s
        else if v = 2 then tell (updAcc (gone s) k e.acc fun _ => Acc.reset) false
        else tell (updAcc (gone s) k e.acc fun x => { x with fp32 := v == 1, cells := 0, tag := false }) false
      | _ => s)

end Sys2Proof.Machine
end

