-- ==== Sys2Proof/Machine/Harvest.lean ====
section
/-! DEFINITION. Harvest and rebuilding (10 R282, R283, R286), in-service BIST and the retirement of clusters (10 R287 to R292). -/

namespace Sys2Proof.Machine

/-- Keys of a rank's window: first key and size in bytes (R137, R138). -/
def windowKeys (e : Word64) : Nat × Nat := (vaultKey (entryCluster e) (winBase e), winSize e)
/-- Listed bytes of a job's vault windows. -/
def vaultImage (s : State) (ranks : List Word64) : List (Nat × Byte) :=
  ranks.flatMap fun e => let w := windowKeys e; s.mem.filter fun c => decide (w.1 ≤ c.1 ∧ c.1 < w.1 + w.2)

/-- Every (core, context slot) that holds a context of a job. -/
def contextsOf (s : State) (j : JobId) : List (CoreId × BitVec 2 × Ctx) :=
  (coresOf s j).filterMap fun c => match (s.core c).ctxOf j with
    | some i => (s.ctxAt c i).map fun k => (c, i, k)
    | none => none

/-- What a Harvest dumps (R283 step 2), under a number, in a place, with the copied tables' root. -/
def dumpOf (s : State) (x : Job) (number : BitVec 32) (place : BitVec 1) (root : BitVec 52) : Generation :=
  let held (k : Slot) : Bool := match k.st with
    | .frozen _ _ | .trapped => true
    | _ => false
  let cs := contextsOf s x.id
  { number := number, place := place, root := root, vault := vaultImage s x.ranks
    accs := s.clusters.flatMap fun (p : Nat × Cluster) =>
      (List.range 8).filterMap fun n =>
        let a := p.2.acc (BitVec.ofNat 3 n)
        if a.owner = some x.id then some (BitVec.ofNat 12 p.1, BitVec.ofNat 3 n, a) else none
    slots := cs.flatMap fun (q : CoreId × BitVec 2 × Ctx) =>
      (slotIds.filter fun t => (s.slot q.1 t).holds q.2.1 && held (s.slot q.1 t)).map fun t => (q.1, t, s.slot q.1 t)
    ctxs := cs
    dirs := s.fw.dirs.filter fun d => d.job == x.id
    images := (s.fw.dirs.filter fun d => d.job == x.id).map fun d => if d.trailing then [] else imageOf s d
    pairs := s.pairs.filter fun p => p.job == x.id
    launches := s.launches.filter fun r => s.pairs.any fun p => p.job == x.id && p.core == r.core && p.slot == r.slot && p.uid == r.uid
    engines := s.clusters.map fun (p : Nat × Cluster) =>
      (BitVec.ofNat 12 p.1, p.2.ectxs.filter fun e => e.job == x.id, p.2.copies.filter fun d => d.job == x.id)
    ranks := x.ranks }

/-- C set in every valid leaf of the live tables (R283 step 3). -/
def commitLeaves (s : State) (root : Nat) : State :=
  { s with mem := (spaceLeaves s root).foldl (fun m (e : Nat × Nat × Nat × Word64) => memStore m e.2.1 (bytesOf 8 (e.2.2.2 ||| 0x40).toNat)) s.mem }

/-- A generation becomes the recovery point (R286); the one before it goes. -/
def commitGen (s : State) (j : JobId) (n : BitVec 32) : State :=
  match s.job j with
  | none => s
  | some x =>
    let old := x.committedGen
    let place := ((x.generations.find? fun g => g.number == n).map (·.place)).getD 0
    let s := putCommit (s.updJob j fun x => { x with committed := some n }) j (commitWord j n place)
    match old with
    | some g => if g.number = n then s else dropGen s j g
    | none => s

/-- The power-fail record of R18 step 5, to the hosts of a job. -/
def powerRecord (s : State) (j : JobId) : State := toMailboxes s j (mailboxRec 5 0 j 0 0 0 [])

/-- HARVEST_DUMP (R283): once every core is settled, the dump into the free place, the copied tables in the named frames, C in the live
leaves, the ASID's entry and a TLBI of the ASID; then the generation is answered and the job resumed, unless it stays frozen. A
power-fail Harvest is committed at once, and then the power-fail record is written (R18). A Harvest during which the supply fell below 85 % does not
complete (R19). -/
def execHarvestDump (job : JobId) (tables : List (BitVec 52)) (resumeAt : Word64) (s : State) : Host.Outcome State Fault Refusal :=
  .next (match s.job job with
    | none => s
    | some x =>
      let e := asidEntry s x.asid
      let needed := 1 + ((spaceEntries s e.root.toNat).filter fun q => !(pteOf q.2.2.2).leaf).length
      let late := !x.harvestKeep && decide (resumeAt.toNat < s.now.toNat + 4000)
      if !x.harvesting || x.harvestCut || !settled s job || tables.length < needed || late || !tablesFree s x tables [] 0 then s
      else
        match tables with
        | [] => s
        | root :: rest =>
          let n := x.genCount + 1
          let place : BitVec 1 := if x.gens.1.isNone then 0 else 1
          let g := dumpOf s x n place root
          let s := { s with mem := (copyTree 4 1 e.root.toNat root.toNat (clearRange s.mem root.toNat 4096, rest)).1 }
          let s := commitLeaves s e.root.toNat
          let s := putAsid s x.asid { e with harvest := true, altRoot := root }
          let s := invalidate s (some x.asid) none
          let s := s.updJob job fun x => { x with
            genCount := n, harvesting := false, harvestCmd := none, gens := if place = 0 then (some g, x.gens.2) else (x.gens.1, some g) }
          let s := if x.harvestCommit then powerRecord ((commitGen s job n).updJob job fun x => { x with harvestCommit := false }) job else s
          let s := match x.harvestCmd with
            | some c => reply s c 0 (n.setWidth 64) []
            | none => s
          if x.harvestKeep then s else (resumeRequest s job resumeAt).2)

/-- A generation's dump put back (R286): vault windows, accumulators, contexts, slots, directory entries with their images, engine state, shadow
pairs. -/
def restoreDump (s : State) (j : JobId) (g : Generation) : State :=
  let mem := g.ranks.foldl (fun m e => let w := windowKeys e; clearRange m w.1 w.2) s.mem
  let s := { s with mem := g.vault.foldl (fun m (p : Nat × Byte) => memWrite m p.1 p.2) mem }
  let s := g.accs.foldl (fun (s : State) (a : ClusterId × BitVec 3 × Acc) => updAcc s a.1 a.2.1 fun _ => a.2.2) s
  let s := g.ctxs.foldl (fun (s : State) (q : CoreId × BitVec 2 × Ctx) => s.updCore q.1 fun k => k.setCtx q.2.1 (some { q.2.2 with frozen := true })) s
  let s := g.slots.foldl (fun (s : State) (q : CoreId × BitVec 2 × Slot) => s.updSlot q.1 q.2.1 fun _ => q.2.2) s
  let s := g.engines.foldl (fun (s : State) (q : ClusterId × List Ectx × List Copy) => s.updCluster q.1 fun k => { k with
    ectxs := k.ectxs ++ q.2.1.map fun e => { e with frozen := true }
    copies := k.copies ++ q.2.2.map fun d => { d with parked := true } }) s
  let s := s.updJob j fun x => { x with ranks := g.ranks }
  let s := { s with mem := (g.dirs.zip g.images).foldl (fun m (p : Dir × List Byte) => memPut m (p.1.saveKey 0) p.2) s.mem }
  { s with
    fw := { s.fw with dirs := (s.fw.dirs.filter fun d => d.job != j) ++ g.dirs }
    pairs := s.pairs ++ g.pairs
    launches := s.launches ++ g.launches }

/-- The live tables name what a generation's tables name, all committed; a page that the generation does not have is unmapped. -/
def restoreTables (s : State) (live gen : Nat) : State :=
  let old := spaceLeaves s gen
  { s with mem := (spaceLeaves s live).foldl (fun m (e : Nat × Nat × Nat × Word64) =>
      let w : Word64 := match old.find? fun o => o.1 == e.1 && o.2.2.1 == e.2.2.1 with
        | some o => o.2.2.2 ||| 0x40
        | none => 0
      memStore m e.2.1 (bytesOf 8 w.toNat)) s.mem }

/-- JOB_REBUILD (R286): after a power-fail hold a job comes back from its committed generation, under its id and ASID, and its contexts
receive a topology event of reason 5. It stays frozen until it is resumed (R18, R19). -/
def execJobRebuild (job : JobId) (s : State) : Host.Outcome State Fault Refusal :=
  .next (match s.job job with
    | none => s
    | some x =>
      match x.committedGen with
      | none => s
      | some g =>
        if s.rot.phase ≠ .service || !(coresOf s job).isEmpty then s
        else
          let e := asidEntry s x.asid
          let s := restoreTables s e.root.toNat g.root.toNat
          let s := putAsid s x.asid { e with valid := true, harvest := true, altRoot := g.root }
          let s := restoreDump s job g
          let s := match x.openGen with
            | some o => dropGen s job o
            | none => s
          let s := s.updJob job fun x => { x with harvesting := false, frost := { x.frost with active := true, waiting := [], resume := none } }
          topologyPlain s job 5 s.part)

/-- Is a cluster a service cluster (R1, R288)? -/
def serviceCluster (k : ClusterId) : Bool := k.extractLsb' 0 8 == 0
/-- Jobs that hold a cluster. -/
def holders (s : State) (k : ClusterId) : List Job := s.fw.jobs.filter fun x => x.ranks.any fun e => entryCluster e == k

/-- IN_SERVICE_BIST (R288): once in 24 h on a job cluster that no region holds. -/
def execInServiceBist (cluster : ClusterId) (pass : Bool) (s : State) : Host.Outcome State Fault Refusal :=
  .next (
    let q := s.cluster cluster
    let early := q.bistAt ≠ 0 && decide (s.now.toNat < q.bistAt + 86400000000000)
    if serviceCluster cluster || q.retired || !(holders s cluster).isEmpty || early then s
    else s.updCluster cluster fun q => { q with bistFail := !pass, bistAt := s.now.toNat })

/-- Does a cluster's health ask for its retirement (R288)? -/
def unhealthy (q : Cluster) : Bool := q.bistFail || q.wear.worn

/-- Pages of 64 KiB from a first frame mapped read-write at a GLOBAL address of a job, with tables from its pool (R289, R290): none where a frame or an
address is not free, or the pool has too few tables. -/
def mapFrames (s : State) (x : Job) (va : BitVec 48) (frame : BitVec 52) (n : Nat) : Option State :=
  let root := (asidEntry s x.asid).root.toNat
  let step (acc : Option (List Host.Cell × List (BitVec 52))) (i : Nat) : Option (List Host.Cell × List (BitVec 52)) :=
    let leaf : Word64 := (frame + BitVec.ofNat 52 (65536 * i)).setWidth 64 ||| 0x0F
    acc.bind fun acc => mapAt 4 (va + BitVec.ofNat 48 (65536 * i)) (fun _ => leaf) 4 1 root acc.1 acc.2
  let free := va.toNat % 65536 == 0 && decide (va.toNat + 65536 * n ≤ 2 ^ 48) && frame.toNat % 65536 == 0
    && (mappedIn s root va.toNat (65536 * n)).isEmpty && rangeFree s x frame.toNat (65536 * n)
  let s := takeRange s x.id frame.toNat (65536 * n)
  let pool := (((s.job x.id).map (·.frames)).getD []).filter fun f => frameFree s x f.toNat 4096
  if free then
    ((List.range n).foldl step (some (s.mem, pool))).map fun r => { s with mem := r.1 }.updJob x.id fun y => { y with
      frames := y.frames.filter fun f => !(pool.contains f) || r.2.contains f }
  else none

/-- Is the copy of a job's window of a cluster lost (R289 step 2)? -/
def windowLost (s : State) (k : ClusterId) (e : Word64) : Bool :=
  let w := windowKeys e
  (s.cluster k).bistFail || s.hbm.bad.any fun u => decide (w.1 ≤ u ∧ u < w.1 + w.2)

/-- The vault image (R289 step 2): the job's window copied to frames of 64 KiB from a first frame, mapped at a GLOBAL address with W. -/
def keepImage (s : State) (x : Job) (e : Word64) (p : Retiring) : Option State :=
  let w := windowKeys e
  let n := (w.2 + 65535) / 65536
  (mapFrames s x (p.image.extractLsb' 0 48) p.imageFrame n).map fun t => { t with
    mem := copyRange (clearRange t.mem p.imageFrame.toNat (65536 * n)) w.1 p.imageFrame.toNat w.2
    hbm := freshRange t.hbm p.imageFrame.toNat (65536 * n) }

/-- The record for an abandoned handler (R289 step 3): MSGINFO in its argument word, T1 in its payload (log 9). -/
def abandoned (j : JobId) (x : Slot) : SpillRec :=
  { msg := Msg.formed {
      dstPart := 0, dstCore := 0, srcCore := 0, srcPart := 0, vnet := 0, kind := 0, prio := 0, rcheck := 0, etag := false, job := j, sel := 0,
      tag := 0, pfmt := 7, seq := 0, residue := 0, aux := 0, arg := x.msginfo, zeros := 0, retained := false, fixed := false,
      args := [], payload := bytesOf 16 (x.tileRaw 1).word.toNat }
    stamp := 0, w := 0, evict := false }

/-- Records of an area of a context that can be read, each with its type, and how many cannot (R290): those of the arrival ring from key a, of size
places with the oldest at an index. -/
def readable (s : State) (a size head : Nat) (l : List SpillRec) : List SpillRec × Nat :=
  let bad (n : Nat) : Bool := badAt s ((List.range 320).map fun i => a + 320 * ((head + n) % size) + i)
  let good := (l.zipIdx.filter fun p => !bad p.2).map (·.1)
  (good, l.length - good.length)

/-- One context of a retired cluster goes to the orphan buffer, and is ABSENT (R289 step 3); its output stays (R106). -/
def orphanContext (s : State) (c : CoreId) (j : JobId) : State :=
  match s.dir c j with
  | none => s
  | some d =>
    let i := (s.core c).ctxOf j
    let queue : List SpillRec := match i with
      | some i => (queueOrder (s.core c) fun q => q.ctx == i).map fun q => { msg := q.msg, stamp := q.stamp, w := 0, evict := false }
      | none => []
    let slots : List SpillRec := match i with
      | some i => (slotIds.filter fun t => (s.slot c t).holds i).map fun t => abandoned j (s.slot c t)
      | none => []
    let ring := readable s (d.spill.toNat + 128) d.ringSize d.aHead d.ring
    let frozen := readable s (d.spill.toNat + d.frozenAt + 64) 1024 d.fHead d.fbuf
    let s := (queue ++ ring.1 ++ frozen.1).foldl (fun s r => orphanPut s c r 0) s
    let s := (List.range (ring.2 + frozen.2)).foldl (fun s _ => match s.job j with
      | some x => orphanBump s x 16
      | none => s) s
    let s := slots.foldl (fun s r => orphanPut s c r 2) s
    let s := match i with
      | some i => dropContext s c i j
      | none => s
    s.updDir c j fun d => { d with st := .absent, ring := [], fbuf := [], parked := [], copies := [] }

/-- The orphan buffer of a job, mapped read-write at its GLOBAL pointer in frames from a first one and empty (R290): 64 B of header and 4,096 records. A
job that has one keeps it. -/
def startOrphans (s : State) (x : Job) (p : Retiring) : Option State :=
  if x.orphanPtr ≠ 0 then some s
  else
    (mapFrames s x (p.orphan.extractLsb' 0 48) p.orphanFrame 21).map fun t =>
      let t := t.updJob x.id fun y => { y with orphanPtr := p.orphan }
      { t with
        mem := memPut (clearRange t.mem p.orphanFrame.toNat (21 * 65536)) p.orphanFrame.toNat (bytesOf 8 0 ++ bytesOf 4 4096 ++ bytesOf 52 0)
        hbm := freshRange t.hbm p.orphanFrame.toNat (21 * 65536) }

/-- The vault image, unless it is lost, and the orphan buffer of one job (R289 step 2, R290): none where firmware's choices do not fit. -/
def makeRoom (s : State) (k : ClusterId) (x : Job) (e : Word64) (p : Retiring) : Option State :=
  (if windowLost s k e then some s else keepImage s x e p).bind fun s => startOrphans s x p

/-- Steps 2 to 5 of R289 for one job, with firmware's choices for it: none where they do not fit, or the instant of resume is too near. -/
def retireFor (s : State) (k : ClusterId) (x : Job) (p : Retiring) : Option State :=
  match x.ranks.findIdx? fun e => entryCluster e == k with
  | none => some s
  | some r =>
   if p.resumeAt.toNat < s.now.toNat + 4000 then none
   else
    let e := x.ranks.getD r 0
    let bad := windowLost s k e
    (makeRoom s k x e p).map fun s =>
    let x' := (s.job x.id).getD x
    -- from here on arrivals are orphans
    let cs := ((s.fw.dirs.filter fun d => d.job == x.id && clusterOf d.core == k).map (·.core)).mergeSort fun a b => a.toNat ≤ b.toNat
    let s := cs.foldl (fun s c => orphanContext s c x.id) s
    let s := s.updJob x.id fun y => { y with ranks := y.ranks.eraseIdx r }
    let n := orphanCount s x'
    let a : TopoArg := { reason := 0, cluster := k, rank := BitVec.ofNat 12 r, clusters := BitVec.ofNat 12 (x.ranks.length - 1),
                         orphans := n != 0, lost := bad }
    let s := topology s x.id (TopoArg.word s a) [if bad then 0 else p.image, x'.orphanPtr, s.now, BitVec.ofNat 64 n]
    (resumeRequest s x.id p.resumeAt).2

/-- Steps 2 to 5 of R289 for each of several jobs, each by firmware's first choices for it. -/
def retireJobs (s : State) (k : ClusterId) (js : List Job) (plan : List Retiring) : Option State :=
  js.foldl (fun (o : Option State) x => o.bind fun s => (plan.find? fun p => p.job == x.id).bind fun p => retireFor s k x p)
    (some (s.updCluster k fun q => { q with retired := true }))

/-- A cluster's retirement (R289): quiesce Frosts first, and once every core is settled the rest for each job; true when it is done. -/
def retireCluster (s : State) (k : ClusterId) (plan : List Retiring) : Bool × State :=
  let js := holders s k
  let fresh := js.filter fun x => !(frostState s x.id).1 || (frostState s x.id).2
  if !fresh.isEmpty then (false, fresh.foldl (fun (s : State) x => firmwareFrost s x.id 5 2 0 0) s)
  else if js.any fun x => !settled s x.id then (false, s)
  else
    match retireJobs s k js plan with
    | some s => (true, s.updCluster k fun q => { q with accs := Vector.replicate 8 Acc.reset })
    | none => (false, s)

/-- CLUSTER_RETIREMENT (R288, R289): firmware retires an unhealthy job cluster. -/
def execClusterRetirement (cluster : ClusterId) (plan : List Retiring) (s : State) : Host.Outcome State Fault Refusal :=
  .next (
    let q := s.cluster cluster
    if serviceCluster cluster || q.retired || !unhealthy q then s else (retireCluster s cluster plan).2)

end Sys2Proof.Machine
end

