-- ==== Sys2Proof/Machine/FwJobs.lean ====
section
/-! DEFINITION. Job commands of firmware (03 R67 to R73, R459, R460, 11 R321 to R324, 10 R282 to R286), each performed once it is the first
of its stream. -/

namespace Sys2Proof.Machine

/-- Has the window that carried a command the management right (R69)? -/
def mgmtRight (s : State) (c : Cmd) : Bool := ((windowAt s c.window).map (·.mgmt)).getD false

/-- Is a window free? Window indices are 12 bits (R69). -/
def windowFree (s : State) (n : Nat) : Bool := decide (n < 4096) && (match windowAt s n with
  | some w => !w.open_
  | none => true)
/-- Is an rkey in use (R57, R61)? -/
def rkeyUsed (s : State) (k : BitVec 32) : Bool :=
  (s.eth.rkeys.any fun r => r.rkey == k) || s.eth.windows.any fun (p : Nat × Window) => p.2.open_ && p.2.rkey == k
/-- A window as it opens (R60, R65). -/
def newWindow (qp : BitVec 12) (mgmt : Bool) (job : JobId) (secret key : List Byte) (rkey mbRkey : BitVec 32) (mbAddr : Word64) (slots : Nat) : Window :=
  { open_ := true, qp := qp, mgmt := mgmt, job := job, key := key, rkey := rkey, ring := [], fresh := [], last := 0, mbRkey := mbRkey, mbAddr := mbAddr, slots := slots,
    produced := 0, consumed := 0, pendingRecs := [], nacked := [], abroad := [], secret := secret, stopped := false, closing := false, owed := 0 }

/-- The key of a window (R60). -/
def windowKey (secret : List Byte) (qp win : BitVec 12) : List Byte :=
  shake256 (ascii "CRIOLO-WINKEY" ++ secret ++ bigBytes 4 qp.toNat ++ bigBytes 2 win.toNat) 32

/-- OPEN_WINDOW (R69): the window and its rkey are firmware's choice among the free ones. Its key is R60's, from the shared secret of the session
whose window carried the command (log 48). -/
def execOpenWindow (c : Cmd) (win : BitVec 12) (rkey : BitVec 32) (s : State) : Host.Outcome State Fault Refusal :=
  .next (
    let qp : BitVec 12 := c.arg.extractLsb' 16 12
    let j := Cmd.job c
    let slots := Cmd.field c 12 4
    if !due s c 0x100 then s
    else if slots < 16 ∨ 4096 < slots then reply s c 2 0 []
    else if (j ≠ 0 ∧ (s.job j).isNone) ∨ ((s.eth.qps.look qp.toNat).map (·.st)) ≠ some .ready then reply s c 5 0 []
    else if (List.range 4096).all fun n => !windowFree s n then reply s c 3 0 []
    else if !windowFree s win.toNat || rkeyUsed s rkey then s
    else
      let secret := ((windowAt s c.window).map (·.secret)).getD []
      let w := newWindow qp (c.arg.getLsbD 28) j secret (windowKey secret qp win) rkey (BitVec.ofNat 32 (Cmd.field c 0 4)) (BitVec.ofNat 64 (Cmd.field c 4 8)) slots
      let s := { s with eth := { s.eth with windows := s.eth.windows.put win.toNat w } }
      let s := s.updJob j fun x => { x with windows := x.windows ++ [win] }
      reply s c 0 (rkey ++ (0 : BitVec 20) ++ win) [])

/-- A setting of CREATE_JOB: 0 asks for the default, another value must lie in its range (R70). -/
def setting (v default lo hi : Nat) : Option Nat := if v = 0 then some default else if lo ≤ v ∧ v ≤ hi then some v else none

/-- Firmware's own place of the level-1 table of an ASID: the first 4 MiB of HBM hold the 1,024 of them (log 9). -/
def rootOf (asid : BitVec 16) : BitVec 52 := BitVec.ofNat 52 (4096 * asid.toNat)

/-- A job as CREATE_JOB makes it. -/
def newJob (j : JobId) (asid : BitVec 16) (budget shift spillQ retainQ : Nat) (sup fault : BitVec 12) : Job :=
  { id := j, asid := asid, budget := budget, ageShift := shift, spillQ := spillQ, retainQ := retainQ, supSel := sup, faultSel := fault, ranks := [],
    region := [], windows := [], loaded := false, started := false, initial := [], startAt := 0, injected := [], orphanPtr := 0,
    frost := Frost.reset, gens := (none, none), genCount := 0, committed := none, harvesting := false,
    harvestCmd := none, harvestKeep := false, harvestCommit := false, harvestCut := false, mapWait := none, frames := [], overflowLeft := 0, fwRet := [], fwHolds := [], parts := [] }

/-- CREATE_JOB (R69, R70, R139): during the transport self-test it is answered busy (R21). -/
def execCreateJob (c : Cmd) (s : State) : Host.Outcome State Fault Refusal :=
  .next (
    let j := Cmd.job c
    let asid : BitVec 16 := (c.arg.extractLsb' 16 10 : BitVec 10).setWidth 16
    let used := j = 0 || asid = 0 || (s.job j).isSome || (asidEntry s asid).valid
    if !due s c 0x110 then s
    else if s.rot.phase = .testing then reply s c 1 0 []
    else if used then reply s c 6 0 []
    else
      match setting (Cmd.field c 0 4) Config.defaultBudget 1 Config.maxBudget, setting (Cmd.field c 4 4) 12 4 20, setting (Cmd.field c 8 4) 1024 16 (2 ^ 20),
          setting (Cmd.field c 12 4) 16 1 64 with
      | some b, some g, some p, some r =>
        let x := newJob j asid b g p r (BitVec.ofNat 12 (Cmd.field c 16 4)) (BitVec.ofNat 12 (Cmd.field c 20 4))
        let e : AsidEntry := { valid := true, harvest := false, root := rootOf asid, altRoot := 0 }
        let s := { s with mem := clearRange s.mem (rootOf asid).toNat 4096, fw := { s.fw with jobs := s.fw.jobs ++ [x] } }
        let s := putAsid s asid e
        reply s c 0 0 []
      | _, _, _, _ => reply s c 2 0 [])

/-- Is a cluster free for a region: a job cluster, not retired, held by no job (R72)? -/
def grantable (s : State) (mask : BitVec 16) (k : ClusterId) : Bool :=
  !serviceCluster k && !(s.cluster k).retired && (holders s k).isEmpty && (mask == 0 || mask.getLsbD (chipletOf k).toNat)

/-- ALLOC_REGION (R72, R76): the clusters and their windows' bases are firmware's choice, in ascending order. -/
def execAllocRegion (c : Cmd) (grant : List (ClusterId × BitVec 17)) (s : State) : Host.Outcome State Fault Refusal :=
  .next (
    let wanted := (c.arg.extractLsb' 16 12).toNat
    let mask : BitVec 16 := c.arg.extractLsb' 28 16
    let entry (g : ClusterId × BitVec 17) : Word64 := (0 : BitVec 4) ++ g.1 ++ (0 : BitVec 7) ++ g.2 ++ (0 : BitVec 24)
    if !due s c 0x111 then s
    else if wanted = 0 then reply s c 2 0 []
    else
      match s.job (Cmd.job c) with
      | none => reply s c 5 0 []
      | some x =>
        if !x.region.isEmpty then reply s c 6 0 []
        else if ((List.range 4096).filter fun n => grantable s mask (BitVec.ofNat 12 n)).length < wanted then reply s c 3 0 []
        else if grant.length ≠ wanted || !(grant.all fun g => grantable s mask g.1 && decide (g.2.toNat ≤ 98304))
            || !(grant.zip (grant.drop 1)).all fun p => decide (p.1.1.toNat < p.2.1.toNat) then s
        else
          let s := s.updJob x.id fun x => { x with region := grant.map (·.1), ranks := grant.map entry }
          reply s c 0 (BitVec.ofNat 64 wanted) [])

/-- First addresses of n bytes of pages of a size. -/
def pageList (a n size : Nat) : List Nat := (List.range (n / size)).map fun i => a + i * size

/-- The pages of a range that it does not have yet. -/
def freshPages (inside : List (Nat × Nat × Nat × Word64)) (tl va len : Nat) : List Nat :=
  (pageList va len (2 ^ levelShift tl)).filter fun p => !(inside.any fun e => e.2.2.1 == p)

/-- Memory with the pages of a range mapped (R459): pages already there keep their entry but for W, the others get the frames, cleared; none
where the tables do not suffice. -/
def mapPages (m : List Host.Cell) (root tl va len : Nat) (write : Bool) (inside : List (Nat × Nat × Nat × Word64)) (frames tables : List (BitVec 52)) :
    Option (List Host.Cell × List (BitVec 52)) :=
  let size := 2 ^ levelShift tl
  let w : Word64 := if write then 4 else 0
  let m := inside.foldl (fun m (e : Nat × Nat × Nat × Word64) => memStore m e.2.1 (bytesOf 8 ((e.2.2.2 &&& ~~~(4 : Word64)) ||| w).toNat)) m
  let place (acc : Option (List Host.Cell × List (BitVec 52))) (p : Nat × BitVec 52) : Option (List Host.Cell × List (BitVec 52)) :=
    acc.bind fun acc => mapAt tl (BitVec.ofNat 48 p.1) (fun _ => p.2.setWidth 64 ||| 0x0B ||| w) 4 1 root (clearRange acc.1 p.2.toNat size) acc.2
  ((freshPages inside tl va len).zip frames).foldl place (some (m, tables))

/-- A MAP ends (R459): once no access is out that used an old translation, its TLBI is complete and the rkey is answered. -/
def mapEnd (s : State) (c : Cmd) (x : Job) (rkey : BitVec 32) : State :=
  if translatedOut s then s
  else reply ((invalidate s (some x.asid) none).updJob x.id fun y => { y with mapWait := none }) c 0 (rkey.setWidth 64) []

/-- MAP (R459): frames, tables and rkey are firmware's choice; what is not used of the frames joins the job's pool (log 17). -/
def execMap (c : Cmd) (frames : List (BitVec 52)) (tables : List (BitVec 52)) (rkey : BitVec 32) (s : State) : Host.Outcome State Fault Refusal :=
  .next (
    let va := (c.arg.extractLsb' 16 48).toNat
    let len := Cmd.field c 0 8
    let psize := Cmd.field c 8 4
    let wr := Cmd.field c 12 4
    let tl := if psize = 0 then 4 else if psize = 1 then 3 else 2
    let size := 2 ^ levelShift tl
    if !due s c 0x112 then s
    else
      match s.job (Cmd.job c) with
      | none => reply s c 5 0 []
      | some x =>
        match x.mapWait with
        | some w => if w.1 = c then mapEnd s c x w.2 else s
        | none =>
          if len = 0 || decide (2 < psize) || decide (2 ≤ wr) || va % size ≠ 0 || len % size ≠ 0 || decide (2 ^ 48 < va + len) then reply s c 2 0 []
          else
            let root := (asidEntry s x.asid).root.toNat
            let inside := mappedIn s root va len
            if inside.any fun e => e.1 != tl then reply s c 6 0 []
            else
              let fresh := freshPages inside tl va len
              let mine := frames.take fresh.length
              if frames.length < fresh.length then reply s c 3 0 []
              else if rkeyUsed s rkey || frames.eraseDups.length ≠ frames.length || !(mine.all fun f => frameFree s x f.toNat size)
                  || !tablesFree s x tables mine size then s
              else
                match mapPages s.mem root tl va len (wr == 1) inside frames tables with
                | none => reply s c 3 0 []
                | some r =>
                  let k : Rkey := { rkey := rkey, job := x.id, va := BitVec.ofNat 48 va, len := len }
                  let s := { s with mem := r.1, eth := { s.eth with rkeys := s.eth.rkeys ++ [k] } }
                  let s := s.updJob x.id fun x => { x with
                    frames := (x.frames.filter fun f => !mine.contains f) ++ (frames.drop fresh.length).filter fun f => !x.frames.contains f
                    mapWait := some (c, rkey) }
                  mapEnd s c x rkey)

/-- The fields of an image's header that LOAD uses (R321). -/
structure ImageHead where
  entries : Nat
  nsect : Nat
  nmsg : Nat
  ranks : Nat
  first : Nat
  last : Nat
  vault : Nat
  table : Nat
  sectOff : Nat
  msgOff : Nat
  code8Off : Nat
  tmplOff : Nat
  length : Nat
deriving DecidableEq, Repr

/-- A little-endian field of a list of bytes. -/
def fieldOf (l : List Byte) (off n : Nat) : Nat := natOf ((l.drop off).take n)

/-- The header of an image whose first check succeeds (R324 check 1). -/
def imageHead (b : List Byte) : ImageHead :=
  { entries := fieldOf b 10 2, nsect := fieldOf b 12 4, nmsg := fieldOf b 16 4, ranks := fieldOf b 20 4, first := fieldOf b 24 1, last := fieldOf b 25 1,
    vault := fieldOf b 28 4, table := fieldOf b 32 8, sectOff := fieldOf b 40 8, msgOff := fieldOf b 48 8, code8Off := fieldOf b 56 8,
    tmplOff := fieldOf b 64 8, length := fieldOf b 72 8 }

/-- A section record (R322): target, offset, length, kind. -/
def sections (b : List Byte) (h : ImageHead) : List (Nat × Nat × Nat × Nat) :=
  (List.range h.nsect).map fun i =>
    let o := h.sectOff + 32 * i
    (fieldOf b o 8, fieldOf b (o + 8) 8, fieldOf b (o + 16) 8, fieldOf b (o + 24) 1)

/-- An initial-message record (R322). -/
def initialRec (b : List Byte) (h : ImageHead) (i : Nat) : HostRec :=
  let r := (b.drop (h.msgOff + 304 * i)).take 304
  { seq := BitVec.ofNat 64 (fieldOf r 0 8), route := BitVec.ofNat 64 (fieldOf r 8 8), arg := BitVec.ofNat 64 (fieldOf r 16 8),
    job := BitVec.ofNat 16 (fieldOf r 24 2), kind := BitVec.ofNat 8 (fieldOf r 26 1), aux := BitVec.ofNat 8 (fieldOf r 27 1),
    plen := BitVec.ofNat 16 (fieldOf r 28 2), zeroOk := true, macOk := true, payload := (r.drop 32).take 256 }

/-- The image in GLOBAL memory, as far as its first check goes (R324): none where its pages are not mapped (R460). -/
def readImage (s : State) (asid : BitVec 16) (a : Nat) : Option (List Byte) :=
  (readSpace s asid a 128).bind fun h => let n := fieldOf h 72 8; if n < 128 then some h else readSpace s asid a n
/-- Check 1 of R324: magic, version, length, digest. -/
def imageOk (b : List Byte) : Bool :=
  fieldOf b 0 4 == 0x4C414245 && fieldOf b 4 2 == 1 && decide (128 ≤ fieldOf b 72 8) && b.length == fieldOf b 72 8
    && (b.drop 80).take 32 == shake256 (b.drop 128) 32
/-- The code8 image, if the image has one (R321). -/
def imageCode8 (b : List Byte) (h : ImageHead) : Code8 :=
  if h.code8Off = 0 then none else some (BitVec.ofNat 8192 (fieldOf b h.code8Off 1024))

/-- May a section be copied (R324 check 4)? -/
def sectionOk (s : State) (asid : BitVec 16) (h : ImageHead) (x : Nat × Nat × Nat × Nat) : Bool :=
  if x.2.2.2 = 1 then (match reach s asid x.1 x.2.2.1 true with
    | .keys _ _ => true
    | _ => x.2.2.1 == 0)
  else x.2.2.2 == 2 && decide (x.1 + x.2.2.1 ≤ h.vault)

/-- Check 3 and the windows: ranks within the region, windows within the slices (R137, R324). -/
def ranksOk (x : Job) (h : ImageHead) : Bool :=
  decide (h.ranks ≤ x.ranks.length) && (x.ranks.take h.ranks).all fun e => decide ((e.extractLsb' 24 17).toNat + h.vault / 64 ≤ 98304)

/-- A context as LOAD sets it from the template (R322, R324). -/
def templateCtx (x : Job) (h : ImageHead) (t : List Byte) (code8 : Code8) (p : Place) : Ctx :=
  { Ctx.reset with
    st := .restoring, job := x.id, asid := x.asid
    trig := Vector.ofFn fun (i : Fin 32) => BitVec.ofNat 32 (fieldOf t (4 * i.val) 4)
    ctgt := Vector.ofFn fun (i : Fin 16) => BitVec.ofNat 32 (fieldOf t (128 + 4 * i.val) 4)
    cval := Vector.ofFn fun (i : Fin 16) => BitVec.ofNat 32 (fieldOf t (192 + 4 * i.val) 4)
    carmed := BitVec.ofNat 16 (fieldOf t 256 2), flags := BitVec.ofNat 16 (fieldOf t 258 2)
    table := BitVec.ofNat 48 h.table, tableCount := BitVec.ofNat 16 h.entries, budget := x.budget, ageShift := x.ageShift
    retainQ := BitVec.ofNat 8 x.retainQ, spillQ := BitVec.ofNat 32 x.spillQ, spill := p.spill, supSel := x.supSel, faultSel := x.faultSel
    code8 := code8, code8Old := code8 }

/-- A pair word in which every field has its reset value (R276). -/
def unpaired : Word64 := 0x3C000000000
/-- The pair word of a loaded context (R276): partner, slack, enable, inject; one that is not paired has the reset values. -/
def pairWordOf (t : List Byte) (p : Place) : Word64 :=
  let b : BitVec 8 := BitVec.ofNat 8 (fieldOf t 260 1)
  if b.getLsbD 0 then p.partner ++ b.extractLsb' 1 6 ++ (1 : BitVec 1) ++ (0 : BitVec 5) ++ p.inject ++ (0 : BitVec 16) else unpaired

/-- A directory entry as LOAD makes it (R82, R91). -/
def newDir (x : Job) (p : Place) (core : CoreId) (slot : BitVec 2) (addr : BitVec 52) (pair : Word64) (trailing : Bool) : Dir :=
  { addr := addr, core := core, job := x.id, st := .resident, slot := slot, spill := p.spill, save := p.save, retain := p.retain, spillQ := x.spillQ, ring := [], ret := [],
    overflow := [], refused := [], refusing := false, byBuffer := false, pendAdd := Vector.replicate 16 0, pendFlags := 0, fbuf := [], aHead := 0, rHead := 0, fHead := 0, fpeak := 0, frefused := 0, fcount := 0,
    retained := [], holds := [], sentTo := [], parked := [], copies := [], asked := false, retainQ := x.retainQ, pair := pair, trailing := trailing }

/-- One loaded context, with its trailing context on the partner core where it is paired (R276). -/
def putContext (x : Job) (h : ImageHead) (t : List Byte) (code8 : Code8) (s : State) (p : Place) : State :=
  let pair := pairWordOf t p
  let k := { templateCtx x h t code8 p with pair := pair, window := ((x.ranks.find? fun e => entryCluster e == clusterOf p.core).getD 0) }
  let s := s.updCore p.core fun q => q.setCtx p.slot (some k)
  let d := newDir x p p.core p.slot p.dirAddr pair false
  let s := writeImage { s with fw := { s.fw with dirs := s.fw.dirs ++ [d] } } d k
  if !pair.getLsbD 37 then s
  else
    let tr : Ctx := { Ctx.reset with
      st := .restoring, job := x.id, asid := x.asid, table := k.table, tableCount := k.tableCount, budget := x.budget, ageShift := x.ageShift, supSel := x.supSel,
      faultSel := x.faultSel, code8 := code8, code8Old := code8, trailing := true }
    let s := s.updCore p.partner fun q => q.setCtx p.partnerSlot (some tr)
    { s with fw := { s.fw with dirs := s.fw.dirs ++ [newDir x p p.partner p.partnerSlot 0 unpaired true] } }

/-- Are the areas of a context where R82, R91 and R271 have them: the spill area at 64 B, the save area's pages aligned, both in HBM; the retain area in the
slice of its cluster, outside every window and every other retain area there? -/
def areasOk (s : State) (x : Job) (size : Nat) (p : Place) : Bool :=
  let d := newDir x p p.core p.slot p.dirAddr 0 false
  let k := clusterOf p.core
  let n := 320 * x.retainQ
  let apart (a m : Nat) : Bool := decide (p.retain + n ≤ a ∨ a + m ≤ p.retain)
  let window (y : Job) : Bool := y.ranks.all fun e => entryCluster e != k || apart (winBase e) (if y.id == x.id then size else winSize e)
  decide (p.spill.toNat % 64 = 0 ∧ p.spill.toNat + d.spillBytes ≤ Config.deviceBase) && !p.save.isEmpty
    && p.save.all (fun g => decide (g.toNat % 65536 = 0 ∧ g.toNat + 65536 ≤ Config.deviceBase)) && decide (p.retain + n ≤ Config.sliceBytes)
    && s.fw.jobs.all window && s.fw.dirs.all fun e => e.trailing || clusterOf e.core != k || apart e.retain (320 * e.retainQ)
/-- Do areas of two contexts keep apart? -/
def areasApart (x : Job) (p q : Place) : Bool :=
  let n := (newDir x p p.core p.slot p.dirAddr 0 false).spillBytes
  let apart (a b m : Nat) : Bool := decide (a + m ≤ b ∨ b + m ≤ a)
  apart p.spill.toNat q.spill.toNat n && p.save.all (fun g => !q.save.contains g) && (clusterOf p.core != clusterOf q.core || apart p.retain q.retain (320 * x.retainQ))

/-- Do firmware's places name each core of the image's contexts once, with free context slots, with areas apart and, for pairs, partners as R276 and R72
ask? -/
def placesOk (s : State) (x : Job) (h : ImageHead) (paired : Bool) (places : List Place) : Bool :=
  let cores := (x.ranks.take h.ranks).flatMap fun e => (List.range 256).filterMap fun i =>
    if h.first ≤ i ∧ i ≤ h.last then some (entryCluster e ++ BitVec.ofNat 8 i) else none
  let takes := places.map (fun p => (p.core, p.slot)) ++ (if paired then places.map fun p => (p.partner, p.partnerSlot) else [])
  places.map (·.core) == cores && places.all (areasOk s x h.vault) && decide (places.Pairwise fun p q => areasApart x p q = true) && takes.eraseDups.length == takes.length && ((takes.map (·.1)).eraseDups).length == takes.length
    && takes.all (fun q => (s.ctxAt q.1 q.2).isNone && ((s.core q.1).ctxOf x.id).isNone)
    && (!paired || places.all fun p => chipletOf (clusterOf p.partner) == chipletOf (clusterOf p.core) && clusterOf p.partner != clusterOf p.core)

/-- Core indices that an image puts contexts on, in each cluster of its ranks. -/
def imageClusters (x : Job) (h : ImageHead) : List ClusterId := (x.ranks.take h.ranks).map entryCluster
/-- Cores of a cluster that cannot take a partner's context: with no free context slot, or with a context of the job, beside those of the image. -/
def takenCores (s : State) (x : Job) (h : ImageHead) (k : ClusterId) : Nat :=
  let image (c : CoreId) : Bool := (imageClusters x h).contains k && decide (h.first ≤ (c.extractLsb' 0 8).toNat ∧ (c.extractLsb' 0 8).toNat ≤ h.last)
  let bad (p : Nat × Core) : Bool :=
    let c : CoreId := BitVec.ofNat 20 p.1
    clusterOf c == k && !image c && ((p.2.ctxs.toList.all (·.isSome)) || (p.2.ctxOf x.id).isSome)
  (s.cores.filter bad).length + (if (imageClusters x h).contains k then h.last + 1 - h.first else 0)
/-- Can every context of an image be placed: a free context slot on its core, and for a paired image partner cores in other clusters of the same
chiplet, one for each (R72, R81)? A cluster's contexts may use every free core outside it; those of two clusters every free core. -/
def placeable (s : State) (x : Job) (h : ImageHead) (paired : Bool) : Bool :=
  let ks := imageClusters x h
  let own := ks.all fun k => (List.range 256).all fun i => decide (i < h.first ∨ h.last < i) ||
    (let q := s.core (k ++ BitVec.ofNat 8 i); q.ctxs.toList.any (·.isNone) && (q.ctxOf x.id).isNone)
  let free (k : ClusterId) : Nat := if serviceCluster k || (s.cluster k).retired then 0 else 256 - takenCores s x h k
  let each := h.last + 1 - h.first
  let chip (k : ClusterId) : Bool :=
    let same := ks.filter fun q => chipletOf q == chipletOf k
    let total := ((List.range 256).map fun i => free (chipletOf k ++ BitVec.ofNat 8 i)).foldl (· + ·) 0
    decide (each * same.length ≤ total ∧ each ≤ total - free k)
  own && (!paired || ks.all chip)

/-- A section copied: to its GLOBAL address, or into every rank's window (R322, R324). -/
def copySection (asid : BitVec 16) (b : List Byte) (ranks : List Word64) (s : State) (x : Nat × Nat × Nat × Nat) : State :=
  let bytes := (b.drop x.2.1).take x.2.2.1
  if x.2.2.2 = 1 then
    match reach s asid x.1 x.2.2.1 true with
    | .keys f s => writeKeys s (bytes.zipIdx.map fun p => (f (x.1 + p.2), p.1))
    | _ => s
  else ranks.foldl (fun s e => writeKeys s (bytes.zipIdx.map fun p => (vaultKey (entryCluster e) (winBase e + x.1 + p.2), p.1))) s

/-- LOAD (R324, R460): the checks in order, then sections, contexts and initial messages, where firmware places them. -/
def execLoad (c : Cmd) (places : List Place) (s : State) : Host.Outcome State Fault Refusal :=
  .next (
    let a := (c.arg.extractLsb' 16 48).toNat
    if !due s c 0x113 then s
    else
      match s.job (Cmd.job c) with
      | none => reply s c 5 0 []
      | some x =>
        if x.loaded then reply s c 6 0 []
        else
          match (if a % 64 = 0 then readImage s x.asid a else none) with
          | none => reply s c 2 0 []
          | some b =>
            let h := imageHead b
            let t := (b.drop h.tmplOff).take 320
            let code8 := imageCode8 b h
            let words := (List.range 32).map fun i => BitVec.ofNat 32 (fieldOf t (4 * i) 4)
            let badTable := match code8 with
              | some w => !code8Ok w
              | none => false
            let paired := (BitVec.ofNat 8 (fieldOf t 260 1)).getLsbD 0
            if !imageOk b then reply s c 2 0 []
            else if fieldOf b 6 2 ≠ x.id.toNat ∨ fieldOf b 8 2 ≠ x.asid.toNat then reply s c 2 0 []
            else if !ranksOk x h then reply s c 3 0 []
            else if !(sections b h).all (sectionOk s x.asid h) then reply s c 2 0 []
            else if words.any (fun w => (trigBad w).isSome) || badTable then reply s c 2 0 []
            else if !placeable s x h paired then reply s c 3 0 []
            else if !placesOk s x h paired places then s
            else
              let size : Word64 := BitVec.ofNat 64 (h.vault / 64)
              let ranks := x.ranks.zipIdx.map fun p => if p.2 < h.ranks then (p.1 &&& ~~~(0x1FFFF : Word64)) ||| size else p.1
              let x := { x with ranks := ranks }
              let s := s.updJob x.id fun y => { y with ranks := ranks, loaded := true, initial := (List.range h.nmsg).map (initialRec b h) }
              let s := (sections b h).foldl (copySection x.asid b (ranks.take h.ranks)) s
              let s := places.foldl (putContext x h t code8) s
              let s := { s with clusters := s.clusters.map fun (q : Nat × Cluster) => (q.1, { q.2 with code := q.2.code.filter fun l => l.asid != x.asid }) }
              reply s c 0 (BitVec.ofNat 64 places.length) [])

/-- START (R69, R460). -/
def execStart (c : Cmd) (s : State) : Host.Outcome State Fault Refusal :=
  .next (
    let t := BitVec.ofNat 64 (Cmd.field c 0 8)
    if !due s c 0x114 then s
    else
      match s.job (Cmd.job c) with
      | none => reply s c 5 0 []
      | some x =>
        if !x.loaded || x.started then reply s c 6 0 []
        else
          let at_ := if t.toNat < s.now.toNat then s.now else t
          reply (s.updJob x.id fun x => { x with started := true, startAt := at_ }) c 0 0 [])

/-- END_JOB (R69): the reply is written before windows close (R67). -/
def execEndJob (c : Cmd) (s : State) : Host.Outcome State Fault Refusal :=
  .next (
    if !due s c 0x115 then s
    else if (s.job (Cmd.job c)).isNone then reply s c 5 0 []
    else endJob (reply s c 0 0 []) (Cmd.job c))

/-- Does a debug Frost hold a job, or the quiesce of a power-fail warning (R283, R18)? -/
def staysFrozen (s : State) (x : Job) : Bool :=
  x.frost.active && x.frost.resume.isNone && (decide ((x.frost.cause.extractLsb' 8 4).toNat ≤ 4) || s.fw.quiesce)

/-- HARVEST (R282, R283): the quiesce Frost; HARVEST_DUMP goes on and answers. -/
def execHarvest (c : Cmd) (s : State) : Host.Outcome State Fault Refusal :=
  .next (
    if !due s c 0x120 then s
    else
      match s.job (Cmd.job c) with
      | none => reply s c 5 0 []
      | some x =>
        if x.harvestCmd = some c then s
        else if x.harvesting then reply s c 1 0 []
        else if x.openGen.isSome then reply s c 6 0 []
        else
          let s := firmwareFrost s x.id 5 1 0 0
          s.updJob x.id fun y => { y with harvesting := true, harvestCmd := some c, harvestKeep := staysFrozen s x })

/-- COMMIT (R286). -/
def execCommit (c : Cmd) (s : State) : Host.Outcome State Fault Refusal :=
  .next (
    if !due s c 0x121 then s
    else
      match s.job (Cmd.job c) with
      | none => reply s c 5 0 []
      | some x =>
        match x.openGen with
        | some g => if g.number = c.arg.extractLsb' 16 32 then reply (commitGen s x.id g.number) c 0 0 [] else reply s c 5 0 []
        | none => reply s c 5 0 [])

/-- A command of a job relayed to the firmware of every other part that holds the job (R75): selector, argument word and payload are the command's
(log 47). -/
def relay (s : State) (x : Job) (c : Cmd) : State :=
  let msg (p : PartId) : Msg := Msg.formed {
    dstPart := p, dstCore := 0, srcCore := 0, srcPart := s.part, vnet := 0, kind := 8, prio := 31, rcheck := 0, etag := false, job := 0, sel := c.sel,
    tag := c.tag, pfmt := 0, seq := 0, residue := 0, aux := 0, arg := c.arg, zeros := 0, retained := false, fixed := true, args := [],
    payload := padTo 16 (c.payload.take 256) }
  (x.parts.filter fun p => p != s.part).foldl (fun s p => putFlight s 0 (msg p) false) s

/-- FROST (R69, R460): the store of R415 by the slot of 0.0.0 that performs the command; the reply is FROST_SEQ. -/
def execFrostCommand (c : Cmd) (s : State) : Host.Outcome State Fault Refusal :=
  .next (
    let j := Cmd.job c
    if !due s c 0x130 then s
    else if !mgmtRight s c then reply s c 4 0 []
    else
      match s.job j with
      | none => reply s c 5 0 []
      | some x =>
        if !(s.fw.dirs.any fun d => d.job == j && d.st != .absent) && !(x.parts.any fun p => p != s.part) then reply s c 6 0 []
        else
          let s := relay (firmwareFrost s j 4 0 0 0) x c
          reply s c 0 (((s.job j).map (·.frost.seq)).getD 0) [])

/-- FROST_READ (R69). -/
def execFrostRead (c : Cmd) (s : State) : Host.Outcome State Fault Refusal :=
  .next (
    if !due s c 0x131 then s
    else if !mgmtRight s c then reply s c 4 0 []
    else
      match s.job (Cmd.job c) with
      | none => reply s c 5 0 []
      | some x => reply (relay s x c) c 0 0 ([x.frost.cause, x.frost.origin, x.frost.time, x.frost.seq].flatMap fun w => bytesOf 8 w.toNat))

/-- STEP (R69, R257): the step is begun, and answered once it is over. -/
def execStepCommand (c : Cmd) (s : State) : Host.Outcome State Fault Refusal :=
  .next (
    let j := Cmd.job c
    let i : BitVec 2 := c.arg.extractLsb' 36 2
    if !due s c 0x132 then s
    else if !mgmtRight s c then reply s c 4 0 []
    else
      match s.job j with
      | none => reply s c 5 0 []
      | some x =>
        match rankEntry s j (c.arg.extractLsb' 16 12).toNat with
        | none =>
          -- a rank that this part does not hold is another part's to step: its PROGRESS is a free value here (log 47)
          if x.parts.any fun p => p != s.part then
            reply { relay s x c with freeCnt := s.freeCnt + 1 } c 0 (((Config.freeWord s.freeCnt).setWidth 16 : BitVec 16).setWidth 64) []
          else reply s c 5 0 []
        | some e =>
          let core : CoreId := entryCluster e ++ c.arg.extractLsb' 28 8
          if x.harvestCmd = some c then
            if stepOver s core i then
              let y := s.slot core i
              let s := s.updJob j fun x => { x with harvestCmd := none }
              reply s c y.stepStatus.toNat (y.progress.word.setWidth 64) []
            else s
          else
            match beginStep s j core i (c.arg.getLsbD 38) with
            | (some st, s) => reply s c st 0 []
            | (none, s) => s.updJob j fun x => { x with harvestCmd := some c })

/-- RESUME (R69, R259). -/
def execResumeCommand (c : Cmd) (s : State) : Host.Outcome State Fault Refusal :=
  .next (
    if !due s c 0x133 then s
    else if !mgmtRight s c then reply s c 4 0 []
    else
      match s.job (Cmd.job c) with
      | none => reply s c 5 0 []
      | some x =>
        let r := resumeRequest s (Cmd.job c) (BitVec.ofNat 64 (Cmd.field c 0 8))
        reply (if r.1 = 0 then relay r.2 x c else r.2) c r.1 0 [])

end Sys2Proof.Machine
end

