-- ==== Sys2Proof/Machine/FwPart.lean ====
section
/-! DEFINITION. Commands about the part (03 R69 to R71), the signed report (01 R29, R30), and register writes (01 R20, 02 R44, R48, 10 R287). -/

namespace Sys2Proof.Machine

/-- Bytes written to host memory by the Ethernet block. -/
def hostWrite (s : State) (rkey : BitVec 32) (addr : Word64) (l : List Byte) : State :=
  { s with eth := { s.eth with out := s.eth.out ++ [.write rkey addr l] } }

/-- CLOSE_WINDOW (R69): the reply first, then the window closes once its replies are written (R67). -/
def execCloseWindow (c : Cmd) (s : State) : Host.Outcome State Fault Refusal :=
  .next (
    let n := (c.arg.extractLsb' 0 12).toNat
    if !due s c 0x101 then s
    else
      match windowAt s n with
      | some w =>
        if w.open_ && !w.closing then updWindow (reply s c 0 0 []) n fun w => { w with closing := true } else reply s c 5 0 []
      | none => reply s c 5 0 [])

/-- RETIRE (R69, R288, R289): denied for a service cluster; firmware's choices for each job come with it. -/
def execRetire (c : Cmd) (plan : List Retiring) (s : State) : Host.Outcome State Fault Refusal :=
  .next (
    let k : ClusterId := c.arg.extractLsb' 0 4 ++ c.arg.extractLsb' 4 8
    if !due s c 0x122 then s
    else if serviceCluster k then reply s c 4 0 []
    else if (s.cluster k).retired then reply s c 6 0 []
    else
      match retireCluster s k plan with
      | (true, s) => reply s c 0 0 []
      | (false, s) => s)

/-- Chain records of a capture from an offset on (R71): id, bit length, offset of the bits, the bits padded to 8 B. -/
def chainRecords : Nat → List (BitVec 32 × BitVec 32 × List Byte) → List Byte
  | _, [] => []
  | at_, c :: l =>
    let bits := padTo 8 (fit ((c.2.1.toNat + 7) / 8) c.2.2)
    bytesOf 4 c.1.toNat ++ bytesOf 4 c.2.1.toNat ++ bytesOf 8 (at_ + 16) ++ bits ++ chainRecords (at_ + 16 + bits.length) l
/-- The image of SCAN_READ (R71): the header, then a record for each scan chain; the die's stepping decides the chains, and their bits are free
values (log 20). -/
def scanImage (k : ClusterId) (n : Nat) (at_ : Word64) (j : JobId) (seq : Word64) : List Byte :=
  let chains := Config.scanChains n
  let body := chainRecords 64 chains
  bytesOf 4 0x4E414353 ++ bytesOf 2 1 ++ bytesOf 1 (chipletOf k).toNat ++ bytesOf 1 (k.extractLsb' 0 8).toNat ++ bytesOf 8 at_.toNat
    ++ bytesOf 2 j.toNat ++ bytesOf 6 0 ++ bytesOf 8 seq.toNat ++ bytesOf 4 chains.length ++ bytesOf 4 (64 + body.length)
    ++ bytesOf 24 0 ++ body

/-- SCAN_READ (R69, R71): 5 without a capture, 6 unless the capture's job is still frozen by a debug Frost. -/
def execScanRead (c : Cmd) (s : State) : Host.Outcome State Fault Refusal :=
  .next (
    let k : ClusterId := c.arg.extractLsb' 0 4 ++ c.arg.extractLsb' 4 8
    if !due s c 0x134 then s
    else if !mgmtRight s c then reply s c 4 0 []
    else
      match (s.cluster k).capture with
      | none => reply s c 5 0 []
      | some (n, at_, j, seq) =>
        let held := match s.job j with
          | some x => x.frost.active && x.frost.seq == seq && decide ((x.frost.cause.extractLsb' 8 4).toNat ≤ 4)
          | none => false
        if !held then reply s c 6 0 []
        else
          let img := scanImage k n at_ j seq
          reply (hostWrite s (BitVec.ofNat 32 (Cmd.field c 8 4)) (BitVec.ofNat 64 (Cmd.field c 0 8)) img) c 0 (BitVec.ofNat 64 img.length) [])

/-- HEALTH (R23, R24, R69): the report whole. -/
def execHealth (c : Cmd) (s : State) : Host.Outcome State Fault Refusal :=
  .next (
    if !due s c 0x140 then s
    else reply (hostWrite s (BitVec.ofNat 32 (Cmd.field c 8 4)) (BitVec.ofNat 64 (Cmd.field c 0 8)) s.rot.report) c 0 (BitVec.ofNat 64 s.rot.report.length) [])

/-- The signed content of R30. -/
def signedContent (s : State) (nonce : List Byte) : List Byte :=
  nonce.take 32 ++ List.replicate (32 - nonce.length) 0 ++ bytesOf 2 s.part.toNat ++ bytesOf 2 0 ++ bytesOf 4 s.rot.version.toNat
    ++ bytesOf 4 s.rot.minVersion.toNat ++ bytesOf 1 s.rot.transport.toNat ++ bytesOf 3 0
    ++ (s.rot.measure ++ List.replicate (64 - s.rot.measure.length) 0)
    ++ (if s.rot.report.isEmpty then List.replicate 64 0 else shake256 s.rot.report 64)
/-- The report of R30: content, key, signature. -/
def attestReport (s : State) (nonce : List Byte) : List Byte :=
  let b := signedContent s nonce
  b ++ identity ++ signBy (shake256 b 64)

/-- ATTEST (R30, R69). -/
def execAttest (c : Cmd) (s : State) : Host.Outcome State Fault Refusal :=
  .next (
    if !due s c 0x141 then s
    else
      let r := attestReport s (bytesOf 32 (Cmd.field c 0 32))
      reply (hostWrite s (BitVec.ofNat 32 (Cmd.field c 40 4)) (BitVec.ofNat 64 (Cmd.field c 32 8)) r) c 0 (BitVec.ofNat 64 r.length) [])

/-- TRANSPORT (R21, R69). -/
def execTransport (c : Cmd) (s : State) : Host.Outcome State Fault Refusal :=
  .next (if !due s c 0x142 then s else reply { s with rot := { s.rot with transport := c.arg.getLsbD 0 } } c 0 0 [])

/-- IMAGE_COMMIT (R28, R69): the minimum version rises to the running image's. -/
def execImageCommit (c : Cmd) (s : State) : Host.Outcome State Fault Refusal :=
  .next (
    let v := if s.rot.minVersion.toNat < s.rot.version.toNat then s.rot.version else s.rot.minVersion
    if !due s c 0x143 then s else reply { s with rot := { s.rot with minVersion := v } } c 0 (v.setWidth 64) [])

/-- Entries put in a table from an index on. -/
def putEntries {α : Type} (l : List α) (i : Nat) (es : List α) : List α := l.take i ++ es ++ l.drop (i + es.length)

/-- The Thyme reference of a domain (R52): the part that firmware names where the table has it, else the lowest number of the table, and the part
itself where the table is empty (log 3). -/
def referenceOf (own : PartId) (domain : List (PartId × List Byte)) : PartId :=
  let l := domain.map (·.1)
  let named := Config.thymeReference l
  if l.contains named then named else l.foldl (fun (p q : PartId) => if q.toNat < p.toNat then q else p) (l.headD own)
/-- Is a part the Thyme reference? -/
def isReference (p : PartId) (domain : List (PartId × List Byte)) : Bool := referenceOf p domain == p

/-- DOMAIN (R69): the part's number and entries of the domain key table, 256 at most; a table has no gaps. -/
def execDomain (c : Cmd) (s : State) : Host.Outcome State Fault Refusal :=
  .next (
    let n := (c.arg.extractLsb' 28 2).toNat
    let i := (c.arg.extractLsb' 16 12).toNat
    let old := if c.arg.getLsbD 30 then [] else s.rot.domain
    let es : List (PartId × List Byte) := (List.range n).map fun k => (BitVec.ofNat 16 (Cmd.field c (66 * k) 2), bytesOf 64 (Cmd.field c (66 * k + 2) 64))
    if !due s c 0x144 then s
    else if !mgmtRight s c then reply s c 4 0 []
    else if !s.fw.jobs.isEmpty then reply s c 6 0 []
    else if c.payload.length < 66 * n || decide (old.length < i) || decide (256 < i + n) then reply s c 2 0 []
    else
      let t := putEntries old i es
      let p : PartId := c.arg.extractLsb' 0 16
      reply { s with part := p, rot := { s.rot with domain := t }, lam := { s.lam with reference := isReference p t } } c 0 (BitVec.ofNat 64 t.length) [])

/-- TIME (R69). -/
def execTime (c : Cmd) (s : State) : Host.Outcome State Fault Refusal :=
  .next (if !due s c 0x145 then s else reply s c 0 s.now [])

/-- REGISTER_WRITE (R3, R20, R44, R48, R287): RW1C bits fall where a one is written; a key register takes its key and its packet count
starts at 0. -/
def execRegisterWrite (reg : DevReg) (v : Word64) (s : State) : Host.Outcome State Fault Refusal :=
  .next (match reg with
    | .powerStatus => writePower s v.toNat
    | .portStatus p => writePort s p v.toNat
    | .clusterHealth k => writeHealth s k v.toNat
    | .linkKey p dir vc epoch key => updPort s p fun x => x.takeKey (keyNo dir vc epoch) key)

end Sys2Proof.Machine
end

