-- ==== Sys2Proof/Machine/Power.lean ====
section
/-! DEFINITION. Power-up and loss (01 R21 to R28), supply and warnings (R14 to R20), HBM refresh (R12), ageing monitors (R25), rebuilding
after a hold (10 R286). -/

namespace Sys2Proof.Machine

/-- Does what a slot's bytes hold pass the checks of R27? The version is the signed header's. -/
def imagePasses (s : State) (b : SMap Byte) : Bool :=
  let signed := Config.imageSigned b
  shake256 (Config.imageKey b) 64 == Config.firmwareKeyDigest && Config.mlDsaVerify (Config.imageKey b) (shake256 signed 64) (Config.imageSignature b)
    && decide (s.rot.minVersion.toNat ≤ (Config.imageVersion signed).toNat)

/-- Slot n of base flash: its state and its bytes. -/
def Rot.image (r : Rot) (n : BitVec 1) : ImageSt × SMap Byte := r.slots[n.toNat]'(by have := n.isLt; omega)
/-- Slot n replaced. -/
def Rot.putImage (r : Rot) (n : BitVec 1) (x : ImageSt × SMap Byte) : Rot := { r with slots := r.slots.set n.toNat x (by have := n.isLt; omega) }
/-- State of slot n replaced. -/
def Rot.mark (r : Rot) (n : BitVec 1) (st : ImageSt) : Rot := r.putImage n (st, (r.image n).2)

/-- Ports of the Ethernet block that work in a phase (R28, R54). -/
def ethUp (phase : Phase) (fail : BitVec 4) : BitVec 4 := if phase = .recovery then 1 else ~~~fail

/-- A slot that passed starts (R27): it is active, the other one that was active spare; measured; tested first if the transport flag is
set (R21), with no wear seen yet (R23). -/
def startImage (s : State) (n : BitVec 1) : State :=
  let r := s.rot
  let signed := Config.imageSigned (r.image n).2
  let r := if (r.image (~~~n)).1 = .active then r.mark (~~~n) .spare else r
  let r := r.mark n .active
  let phase : Phase := if r.transport then .testing else .service
  { s with rot := { r with measure := shake256 signed 64, version := Config.imageVersion signed, phase := phase }, eth := { s.eth with up := ethUp phase 0 } }

/-- The check of one slot and then of the other (R27, R28). -/
def tryImages (s : State) (n : BitVec 1) : State :=
  if imagePasses s (s.rot.image n).2 then startImage s n
  else
    let s := { s with rot := s.rot.mark n .spare }
    if imagePasses s (s.rot.image (~~~n)).2 then startImage s (~~~n)
    else { s with rot := { s.rot.mark (~~~n) .spare with phase := .recovery }, eth := { s.eth with up := ethUp .recovery 0 } }

/-- POWER_UP (R27, R28): the pending slot is checked first, otherwise the active one; where neither slot is either, slot 1 comes first (log 6). HBM
leaves self-refresh and is refreshed whole (R12). -/
def execPowerUp (s : State) : Host.Outcome State Fault Refusal :=
  .next (
    if s.rot.phase ≠ .reset then s
    else
      let first : BitVec 1 := if (s.rot.image 0).1 = .pending then 0 else if (s.rot.image 1).1 = .pending then 1 else if (s.rot.image 0).1 = .active then 0 else 1
      tryImages { s with hbm := { s.hbm with hold := false, allBank := s.hbm.allBank + 1, openRow := [] } } first)

/-- Retired clusters, ascending. -/
def retiredList (s : State) : List ClusterId := (s.clusters.filter fun (p : Nat × Cluster) => p.2.retired).map fun p => BitVec.ofNat 12 p.1

/-- Usable lanes of a Lamcon port whose failed lanes a mask names (R23, R24): fewer than 6 leave the port down. -/
def usableLanes (failed : BitVec 8) : Nat :=
  let n := ((List.range 8).filter fun i => !failed.getLsbD i).length
  if 6 ≤ n then n else 0
/-- Service clusters that crossed a threshold of R288, by chiplet (R24). -/
def serviceBits (s : State) : BitVec 16 := (List.range 16).foldl (fun (w : BitVec 16) i =>
  if unhealthy (s.cluster (BitVec.ofNat 4 i ++ (0 : BitVec 8))) then w ||| (1#16 <<< i) else w) 0

/-- The health report of a test (R24). -/
def healthReport (s : State) (r : SelfTest) : List Byte :=
  let l := retiredList s
  bytesOf 4 0x52544C48 ++ bytesOf 2 1 ++ bytesOf 2 s.part.toNat ++ bytesOf 8 s.now.toNat ++ bytesOf 1 r.steps.toNat ++ bytesOf 1 0 ++ bytesOf 2 l.length
    ++ bytesOf 2 (serviceBits s).toNat ++ bytesOf 2 0
    ++ ((List.range 16).flatMap fun i => bytesOf 4 ((s.hbm.corrected.look i).getD 0) ++ bytesOf 4 ((s.hbm.uncorrected.look i).getD 0))
    ++ ((List.range 12).flatMap fun p => bytesOf 1 (r.lamconFail.getD p 0).toNat ++ bytesOf 1 (usableLanes (r.lamconFail.getD p 0)) ++ bytesOf 2 0)
    ++ ((List.range 4).flatMap fun p => bytesOf 4 (r.ethFail.getD p 0).toNat)
    ++ ((List.range 16).flatMap fun c => bytesOf 2 (((s.chiplet (BitVec.ofNat 4 c)).wearLow.map (·.toNat)).getD 0))
    ++ bytesOf 8 0 ++ l.flatMap fun k => bytesOf 2 k.toNat

/-- TRANSPORT_SELF_TEST_END (R21 to R24, R54): failed clusters are retired, the report is written, the flag is cleared. -/
def execTransportSelfTestEnd (r : SelfTest) (s : State) : Host.Outcome State Fault Refusal :=
  .next (
    if s.rot.phase ≠ .testing then s
    else
      let s := (r.failed.filter fun k => !serviceCluster k).foldl (fun (s : State) k => s.updCluster k fun q => { q with retired := true }) s
      let add (m : SMap Nat) (f : BitVec 32 × BitVec 32 → Nat) : SMap Nat :=
        r.hbm.zipIdx.foldl (fun m p => if f p.1 = 0 then m else m.put p.2 ((m.look p.2).getD 0 + f p.1)) m
      let s := { s with hbm := { s.hbm with corrected := add s.hbm.corrected (·.1.toNat), uncorrected := add s.hbm.uncorrected (·.2.toNat) } }
      let fail : BitVec 4 := (List.range 4).foldl (fun w p => if r.ethFail.getD p 0 = 0 then w else w ||| (1#4 <<< p)) 0
      { s with
        rot := { s.rot with report := healthReport s r, transport := false, phase := .service }
        eth := { s.eth with up := ethUp .service fail } })

/-- Does the supply call for a warning (R16)? The example of R20 raises it 2 ms after the fall (log 42). -/
def supplyFails (s : State) : Bool := match s.power.lowSince with
  | some t => decide (s.power.supply.toNat < 85) || decide (t + 2000000 ≤ s.now.toNat)
  | none => false

/-- What firmware does to a job on a warning (R18 steps 1 to 3). A Harvest already under way goes on; one begun below 85 % cannot complete (R19). -/
def warnJob (s : State) (x : Job) : State :=
  let fz := frostState s x.id
  let s := firmwareFrost s x.id 5 3 0 0
  let s := match x.openGen with
    | some g => discardOpen s x g
    | none => s
  s.updJob x.id fun y => { y with
    harvesting := true, harvestKeep := true, harvestCommit := true, harvestCut := y.harvestCut || decide (s.power.supply.toNat < 85)
    frost := { y.frost with byWarning := !fz.1 || fz.2 } }

/-- The warning of R18: the flags, a quarter of every allowance, and firmware's quiesce and Harvest of every job. -/
def raiseWarning (s : State) : State :=
  if s.power.warn || !supplyFails s then s
  else
    let s := { s with power := { s.power with warn := true, warnSeen := true, quarter := true }, fw := { s.fw with quiesce := true } }
    s.fw.jobs.foldl warnJob s

/-- SUPPLY_DROOP (R16, R17, R19, R20): the reading and the stretch; the instant at which the supply fell below 95 % counts; below 85 % no Harvest
under way can complete. -/
def execSupplyDroop (pct stretch : BitVec 8) (s : State) : Host.Outcome State Fault Refusal :=
  .next (
    if 95 ≤ pct.toNat ∨ 64 < stretch.toNat then s
    else
      let cut (x : Job) : Job := if x.harvesting && decide (pct.toNat < 85) then { x with harvestCut := true } else x
      { s with
        power := { s.power with
          supply := pct, stretch := stretch, highSince := none, lowSince := if s.power.lowSince.isSome then s.power.lowSince else some s.now.toNat }
        fw := { s.fw with jobs := s.fw.jobs.map cut } })

/-- SUPPLY_RECOVERY (R16, R19): a warning that the fall called for is raised all the same. -/
def execSupplyRecovery (pct : BitVec 8) (s : State) : Host.Outcome State Fault Refusal :=
  .next (
    let s := raiseWarning s
    if pct.toNat < 95 then { s with power := { s.power with supply := pct } }
    else { s with power := { s.power with
      supply := pct, stretch := 0, lowSince := none, highSince := if s.power.highSince.isSome then s.power.highSince else some s.now.toNat } })

/-- POWER_FAIL_WARNING (R16, R18). -/
def execPowerFailWarning (s : State) : Host.Outcome State Fault Refusal := .next (raiseWarning s)

/-- A Harvest that the supply cut short is given up (R19, log 42): its command is answered 6, and the power-fail record is written. -/
def giveUp (s : State) (x : Job) : State :=
  if !(x.harvesting && x.harvestCut) then s
  else
    let s := s.updJob x.id fun y => { y with harvesting := false, harvestCut := false, harvestCommit := false, harvestCmd := none }
    let s := match x.harvestCmd with
      | some c => reply s c 6 0 []
      | none => s
    if x.harvestCommit then powerRecord s x.id else s

/-- A job that the warning froze is resumed once its Harvest is over (R19); where the RESUME is refused it stays to be resumed. -/
def resumeBack (at_ : Word64) (s : State) (x : Job) : State :=
  if x.harvesting then s
  else
    let r := resumeRequest s x.id at_
    if r.1 = 0 then r.2.updJob x.id fun y => { y with frost := { y.frost with byWarning := false } } else s

/-- WARNING_CLEAR (R19): 10 ms at 95 % or more end the warning, and the jobs that it froze are resumed, those whose Harvest is still under way by the
same occurrence later. -/
def execWarningClear (at_ : Word64) (s : State) : Host.Outcome State Fault Refusal :=
  .next (match s.power.highSince with
    | none => s
    | some t =>
      if s.now.toNat < t + 10000000 then s
      else
        let s := { s with power := { s.power with warn := false, quarter := false }, fw := { s.fw with quiesce := false } }
        let s := s.fw.jobs.foldl giveUp s
        (s.fw.jobs.filter fun x => x.frost.byWarning).foldl (resumeBack at_) s)

/-- CREDIT_REFILL (R14): every 64 cycles each cluster's counter takes its current allowance. -/
def execCreditRefill (s : State) : Host.Outcome State Fault Refusal :=
  .next (
    if s.clk.cycle < s.power.refillAt then s
    else { s with power := { s.power with credits := [], granted := allowanceOf s, refillAt := (s.clk.cycle / 64 + 1) * 64 } })

/-- WEAR_LIFE_UPDATE (R25): once in a minute of Thyme; during the self-test the lowest value is kept for its report (R23). -/
def execWearLifeUpdate (chiplet : BitVec 4) (monitor : BitVec 6) (months : Nat) (s : State) : Host.Outcome State Fault Refusal :=
  .next (
    let minute := s.now.toNat / 60000000000
    let m : BitVec 16 := BitVec.ofNat 16 (Nat.min 0xFFFF months)
    let early := match (s.chiplet chiplet).wearMinute with
      | some t => decide (minute ≤ t)
      | none => false
    let low (o : Option (BitVec 16)) : BitVec 16 := match o with
      | some v => if v.toNat ≤ m.toNat then v else m
      | none => m
    if early then s
    else s.updChiplet chiplet fun q => { q with
      wearLife := (0 : BitVec 32) ++ (1 : BitVec 1) ++ (0 : BitVec 9) ++ monitor ++ m
      wearMinute := some minute
      wearLow := if s.rot.phase = .testing then some (low q.wearLow) else q.wearLow })

/-- A job that outlives a hold: its generations and tables in HBM are there, what ran of it is not (R286). -/
def heldJob (x : Job) : Job :=
  { x with
    windows := [], ranks := [], frost := { x.frost with active := true, waiting := [], resume := none }, harvesting := false, harvestCmd := none,
    harvestCommit := false, harvestCut := false, fwRet := [], fwHolds := [] }

/-- POWER_LOSS (R22, R12, R286): what is stored beside power stays: base flash, the root of trust's store with the part's number and the
transport flag; and, where HBM stays in self-refresh, its bytes and the jobs with a committed generation. All else is as at reset. -/
def execPowerLoss (hold : Bool) (s : State) : Host.Outcome State Fault Refusal :=
  .next (
    let z := State.reset
    let jobs := if hold then (s.fw.jobs.filter fun x => x.committedGen.isSome).map heldJob else []
    -- entries of the ASID table whose job does not come back
    let lapsed (k : Nat) : Bool := decide (Config.asidTable ≤ k ∧ k < Config.asidTable + 16384) && !(jobs.any fun x => x.asid.toNat == (k - Config.asidTable) / 16)
    { z with
      clk := { z.clk with cycle := s.clk.cycle }
      sched := s.sched, autorun := s.autorun, nextId := s.nextId, freeCnt := s.freeCnt, part := s.part
      rot := { s.rot with phase := .reset, measure := [], version := 0 }
      hbm := { z.hbm with hold := hold, bad := if hold then s.hbm.bad.filter (· < vaultBase) else [] }
      mem := if hold then s.mem.filter fun c => decide (c.1 < vaultBase) && !lapsed c.1 else []
      power := { z.power with refillAt := (s.clk.cycle / 64 + 1) * 64 }
      fw := { z.fw with
        jobs := jobs
        freeFrames := if hold then s.fw.freeFrames else [] }
      lam := { z.lam with reference := s.lam.reference }
      eth := { z.eth with rkeys := s.eth.rkeys.filter fun r => jobs.any fun x => x.id == r.job }
      clusters := (s.clusters.filter fun (p : Nat × Cluster) => p.2.retired).map fun p => (p.1, { Cluster.reset with retired := true, bistAt := 0 }) })

/-- PER_BANK_REFRESH (R12, log 37): the bank is refreshed where its interval is over; a die above 85 °C halves its stack's interval. In the hold
and before initialisation the stacks refresh themselves. -/
def execPerBankRefresh (stack : BitVec 4) (pc : BitVec 6) (bank : Nat) (hot : Bool) (s : State) : Host.Outcome State Fault Refusal :=
  .next (
    let m : BitVec 16 := 1#16 <<< stack.toNat
    let n := bankNo stack.toNat pc.toNat bank
    if s.hbm.hold ∨ s.rot.phase = .reset then s
    else
      let s := { s with hbm := { s.hbm with hot := if hot then s.hbm.hot ||| m else s.hbm.hot &&& ~~~m } }
      let interval := if hot then Config.refreshInterval / 2 else Config.refreshInterval
      let early := match s.hbm.refreshAt.look n with
        | some t => decide (s.clk.cycle < t + interval)
        | none => false
      if early then s
      else { s with hbm := { s.hbm with
        refreshed := s.hbm.refreshed.put n ((s.hbm.refreshed.look n).getD 0 + 1), refreshAt := s.hbm.refreshAt.put n s.clk.cycle } })

/-- The threshold that a stack reports (R12, log 37). -/
def rfmAt (stack : BitVec 4) : Nat := Config.rfmThreshold stack + 1

/-- REFRESH_MANAGEMENT (R12, log 37): once a bank's activations reach the threshold that its stack reports; they are counted anew. -/
def execRefreshManagement (stack : BitVec 4) (pc : BitVec 6) (bank : Nat) (s : State) : Host.Outcome State Fault Refusal :=
  .next (
    let n := bankNo stack.toNat pc.toNat bank
    if s.hbm.hold || decide ((s.hbm.acts.look n).getD 0 < rfmAt stack) then s
    else { s with hbm := { s.hbm with managed := s.hbm.managed.put n ((s.hbm.managed.look n).getD 0 + 1), acts := s.hbm.acts.put n 0 } })

end Sys2Proof.Machine
end

