-- ==== Sys2Proof/Machine/Lamcon.lean ====
section
/-! DEFINITION. Lamcon (chapter 02): gateways and path sequences (R35, R39), links with their retry buffers (R46, R47), receipt and
forwarding (R32, R38, R40), port sets (R32, R35), what becomes of a message that cannot go (R47, R53). -/

namespace Sys2Proof.Machine

/-- A gateway's numbers for a part before any packet. -/
def GwOut.start (gw : BitVec 6) (part : PartId) : GwOut := { gw := gw, part := part, next := 0, unacked := [], waiting := [], held := false }
/-- What a source gateway keeps for a part (R39). -/
def outAt (s : State) (gw : BitVec 6) (part : PartId) : GwOut :=
  (s.lam.outs.find? fun o => o.gw == gw && o.part == part).getD (GwOut.start gw part)
/-- The same replaced. -/
def putOut (s : State) (o : GwOut) : State :=
  let same (q : GwOut) : Bool := q.gw == o.gw && q.part == o.part
  let l := if s.lam.outs.any same then s.lam.outs.map fun q => if same q then o else q else s.lam.outs ++ [o]
  { s with lam := { s.lam with outs := l } }

/-- The virtual channel of a message (R36). -/
def channelOf (s : State) (m : Msg) : BitVec 2 :=
  let bulk (r : RemReq) : Bool := BitVec.ofNat 16 r.id == m.seq && r.owner.on s m.srcCore && (match r.owner with
    | .copy _ _ => true
    | _ => false)
  if m.kind = 8 ∨ (m.job = 0 ∧ m.kind = 0) then 3
  else if m.kind = 11 ∧ m.vnet = 0 ∧ m.srcPart = s.part ∧ s.rems.any bulk = true then 2
  else m.vnet.setWidth 2

/-- Packets of a channel that a port has sent and the partner has not acknowledged: they hold its buffers (R36, log 44). -/
def Port.inFlight (x : Port) (vc : BitVec 2) : Nat := (x.retry.filter fun k => (Packet.head k).vc == vc).length
/-- Has a channel a free buffer at the partner (R36)? It never waits for another channel's. -/
def Port.credit (x : Port) (vc : BitVec 2) : Bool := decide (x.inFlight vc < Config.linkBuffers vc.toNat + 1)

/-- A message leaves by a port as a packet: it stays in the retry buffer until it is acknowledged (R46), and its key's count goes on (R44). -/
def transmit (s : State) (p : Nat) (q : Queued) : State :=
  let x := portAt s p
  let k := packetOf x (BitVec.ofNat 4 p) q.pathSeq q.srcGw q.hops q.vc q.msg
  let n := sendKey x q.vc x.epoch
  let s := updPort s p fun x => { x with
    sendSeq := x.sendSeq + 1, retry := x.retry ++ [k], counts := if modeOf x q.vc = 0 then x.counts else x.counts.put n (x.count n + 1) }
  { s with lam := { s.lam with sent := s.lam.sent ++ [(BitVec.ofNat 4 p, k)] } }

/-- What waits at a port for a channel goes in order, n messages at most, as far as its buffers reach (R36); while the link does not run it waits
(R47). -/
def portPump : Nat → State → Nat → BitVec 2 → State
  | 0, s, _, _ => s
  | n + 1, s, p, vc =>
    let x := portAt s p
    match x.queue.find? fun q => q.vc == vc with
    | none => s
    | some q =>
      if x.st ≠ 2 || !x.credit vc then s
      else portPump n (transmit (updPort s p fun x => { x with queue := x.queue.erase q }) p q) p vc
/-- Every channel of a port. -/
def portGo (s : State) (p : Nat) : State := [0, 1, 2, 3].foldl (fun (s : State) (vc : BitVec 2) => portPump (portAt s p).queue.length s p vc) s

/-- A message handed to a port (R36): behind what waits there for its channel. -/
def portSend (s : State) (p : Nat) (pathSeq : BitVec 32) (srcGw hops : BitVec 8) (vc : BitVec 2) (m : Msg) : State :=
  let q : Queued := { vc := vc, pathSeq := pathSeq, srcGw := srcGw, hops := hops, msg := m }
  portPump ((portAt s p).queue.length + 1) (updPort s p fun x => { x with queue := x.queue ++ [q] }) p vc

/-- A gateway sends what waits for a part: at most 256 packets unacknowledged (R39), nothing while a path change holds packets for that part
(R35) or the port does not run (R47). -/
def pump (s : State) (gw : BitVec 6) (part : PartId) : State :=
  let o := outAt s gw part
  let held := s.lam.outs.any fun q => q.part == part && q.held
  if held || (portAt s (gw.toNat / 4)).st ≠ 2 then s
  else
    let go := (o.waiting.take (256 - o.unacked.length)).zipIdx.map fun p => (o.next + BitVec.ofNat 32 p.2, p.1.1, p.1.2)
    let s := putOut s { o with waiting := o.waiting.drop go.length, next := o.next + BitVec.ofNat 32 go.length, unacked := o.unacked ++ go }
    go.foldl (fun (s : State) (p : BitVec 32 × BitVec 2 × Msg) => portSend s (gw.toNat / 4) p.1 (gw.setWidth 8) 1 p.2.1 p.2.2) s

/-- A message at its source gateway (R39). -/
def gwSend (s : State) (g : Nat) (m : Msg) : State :=
  let gw := BitVec.ofNat 6 g
  let o := outAt s gw m.dstPart
  pump (putOut s { o with waiting := o.waiting ++ [(channelOf s m, m)] }) gw m.dstPart

/-- A message that Lamcon cannot deliver (R47, R53): what came on VN-Q returns to its source, through the mesh from a place or by the
gateway that its path takes; what came on VN-A is never returned (R461). A return whose source field names no place of this mesh starts at
its target, so that it has no X leg (R267). -/
def lamReturn (s : State) (at_ : CoreId) (m : Msg) : State :=
  if m.vnet = 1 then (if (s.job m.job).isSome then toMailboxes s m.job (returnedRec m) else s)
  else
    let b := { Msg.back m 10 with fixed := true }
    if b.dstPart = s.part then putFlight s (if b.srcPart = s.part then b.dstCore else at_) b false
    else
      match gatewayOf s b with
      | some g => gwSend s g b
      | none => s

/-- A message of a gateway at a place: through the mesh of its own part, or out by the gateway that its path takes. -/
def gatewayEmit (s : State) (at_ : CoreId) (m : Msg) : State :=
  if m.dstPart = s.part then putFlight s at_ m false
  else
    match gatewayOf s m with
    | some g => gwSend s g m
    | none => lamReturn s at_ m

/-- The core at a mesh place (R4). -/
def coreAt (x y : Nat) : CoreId := clusterAt x y ++ BitVec.ofNat 8 (y % 16 * 16 + x % 16)

/-- A payload checked by a gateway (R264, R266); a retained message keeps its residue for R273. -/
def gatewayChecked (m : Msg) : Msg := if Msg.residueOk m || m.retained then m else Msg.tagged m

/-- The same, and a residue error counted at the gateway's place (R266). -/
def gatewayCount (s : State) (c : CoreId) (m : Msg) : State := if Msg.residueOk m then s else countResidue s (clusterOf c) 1

/-- A gateway accepts a built-in request (R41). -/
def acceptRequest (s : State) (t : CoreId) (m : Msg) : State :=
  { s with nextId := s.nextId + 1, lam := { s.lam with
    requests := s.lam.requests ++ [{ msg := { m with dstCore := t }, id := s.nextId, begun := false, evs := [] }] } }

/-- LAMCON_PACKET_SEND (R33, R39, R136): a message that has reached its gateway; a built-in operation for the own part is accepted there.
A part that no port set names is unreachable (R53). -/
def execLamconPacketSend (id : Nat) (s : State) : Host.Outcome State Fault Refusal :=
  .next (match flightOf s id with
    | none => s
    | some f =>
      if f.host || !forGateway s f.msg then s
      else
        match gatewayOf s f.msg with
        | none => lamReturn (dropFlight s id) (coreAt f.x f.y) f.msg
        | some g =>
          let t := Config.gatewayCore g
          if f.x ≠ meshX t ∨ f.y ≠ meshY t ∨ blockedBy s f none = true then s
          else
            let s := gatewayCount (dropFlight s id) t f.msg
            let m := gatewayChecked f.msg
            if !Msg.headerOk f.msg || !Msg.netOk f.msg then routeFail s (clusterAt f.x f.y) f.msg
            else if m.dstPart = s.part then acceptRequest s t m
            else gwSend s g m)

/-- What the destination part keeps for a source gateway (R39). -/
def inAt (s : State) (part : PartId) (gw : BitVec 8) : GwIn :=
  (s.lam.ins.find? fun o => o.part == part && o.gw == gw).getD { part := part, gw := gw, base := 0, accepted := [] }
/-- The same replaced. -/
def putIn (s : State) (o : GwIn) : State :=
  let same (q : GwIn) : Bool := q.part == o.part && q.gw == o.gw
  let l := if s.lam.ins.any same then s.lam.ins.map fun q => if same q then o else q else s.lam.ins ++ [o]
  { s with lam := { s.lam with ins := l } }
/-- The base moves past marked values (R39). -/
def advanceBase : Nat → BitVec 32 → List (BitVec 32) → BitVec 32 × List (BitVec 32)
  | 0, b, l => (b, l)
  | n + 1, b, l => if l.contains b then advanceBase n (b + 1) (l.filter (· != b)) else (b, l)
/-- A value accepted and marked (R39). -/
def GwIn.accept (o : GwIn) (q : BitVec 32) : GwIn :=
  let r := advanceBase 256 o.base (q :: o.accepted)
  { o with base := r.1, accepted := r.2 }

/-- An acknowledgement on a link (R46). -/
def ackLink (s : State) (port : BitVec 4) (q : BitVec 12) : State := { s with lam := { s.lam with acks := s.lam.acks ++ [(port, q)] } }
/-- An acknowledgement end to end (R39). -/
def ackEnd (s : State) (part : PartId) (gw : BitVec 8) (q : BitVec 32) : State :=
  { s with lam := { s.lam with ends := s.lam.ends ++ [(part, gw, q)] } }

/-- The gateway of a port that serves a message (R33). -/
def portGateway (port : Nat) (m : Msg) : CoreId := Config.gatewayCore (4 * port + bitsOf (pathHash (pathLine m)) 7 6)

/-- A route word's destination fixed by the receiving gateway (R40, R64, R76, R77). -/
def resolveRank (s : State) (at_ : CoreId) (m : Msg) : State :=
  let rank := (m.dstCore.extractLsb' 8 12).toNat
  if m.job = 0 then (if m.dstCore = 0 then putFlight s at_ (Msg.checked { m with fixed := true }) false else lamReturn s at_ m)
  else if rank = 0xFFF then (if (s.job m.job).isSome then putFlight s at_ m true else lamReturn s at_ m)
  else
    match rankEntry s m.job rank with
    | some e => putFlight s at_ (Msg.checked { m with dstCore := entryCluster e ++ m.dstCore.extractLsb' 0 8, fixed := true }) false
    | none => lamReturn s at_ m

/-- Has a job a region on this part (R40)? -/
def hasRegion (s : State) (j : JobId) : Bool := ((s.job j).map fun x => !x.region.isEmpty).getD false

/-- A part whose messages of a job arrive holds a region of it. -/
def notePart (s : State) (j : JobId) (p : PartId) : State :=
  s.updJob j fun x => if x.parts.contains p then x else { x with parts := x.parts ++ [p] }

/-- A message enters the destination part (R40, R75, R264). -/
def enterPart (s : State) (port : Nat) (m : Msg) : State :=
  let t := portGateway port m
  if !Msg.headerOk m || !Msg.netOk m then routeFail s (clusterOf t) m
  else
    let s := gatewayCount s t m
    let m := gatewayChecked m
    let s := if m.kind = 10 then s else notePart s m.job m.srcPart
    if 12 ≤ m.kind.toNat then lamReturn s t m
    else if m.kind = 11 ∧ m.vnet = 0 then
      if hasRegion s m.job then acceptRequest s t m else lamReturn s t m
    else if (m.kind.toNat ≤ 2 ∨ m.kind = 5) ∧ m.fixed = false then resolveRank s t m
    else putFlight s t m false

/-- A packet's message at its destination part: accepted once (R39). -/
def receiveOwn (s : State) (port : Nat) (h : LinkHead) (m : Msg) : State :=
  let o := inAt s m.srcPart h.srcGw
  let d := (h.pathSeq - o.base).toNat
  if 256 ≤ d then (if 2 ^ 31 ≤ d then ackEnd s m.srcPart h.srcGw h.pathSeq else s)
  else if o.accepted.contains h.pathSeq then ackEnd s m.srcPart h.srcGw h.pathSeq
  else enterPart (ackEnd (putIn s (o.accept h.pathSeq)) m.srcPart h.srcGw h.pathSeq) port m

/-- A packet for another part goes from port to port (R32, R53), protected anew with the next link's keys (R43): it may cross 12 links. -/
def forwardPacket (s : State) (port : Nat) (h : LinkHead) (m : Msg) : State :=
  let n := h.hops + 1
  if 13 ≤ n.toNat then lamReturn s (portGateway port m) m
  else
    match gatewayOf s m with
    | some g => portSend s (g / 4) h.pathSeq h.srcGw n h.vc m
    | none => lamReturn s (portGateway port m) m

/-- LAMCON_PACKET_RECEIVE (R38, R39, R43, R44, R46, R53): one already accepted is acknowledged and discarded; a packet that fails its check is not
acknowledged; nor is one with mode 11 or another mode than its channel's, a wrong length or argc, or one that runs ahead of the link's sequence. The
port keeps its link header for a management read. -/
def execLamconPacketReceive (port : BitVec 4) (p : Packet) (s : State) : Host.Outcome State Fault Refusal :=
  .next (
    let n := port.toNat
    let x := portAt s n
    let h := Packet.head p
    let keyed := h.mode != 0
    let known := !keyed || h.epoch == x.recvEpoch || x.recvNew
    let d := (h.linkSeq - x.recvSeq).toNat
    let old : Bool := 2048 ≤ d
    if x.st ≠ 2 then s
    else
      let s := updPort s n fun x => { x with captured := fit 16 p.bytes }
      if h.mode = 3 ∨ h.mode ≠ modeOf x h.vc then s
      else if keyed && old then ackLink s port h.linkSeq
      else if !known || !Packet.intact p x then updPort s n fun x => { x with tagFail := x.tagFail || keyed }
      else
        match Packet.message p x with
        | none => s
        | some m =>
          if d ≠ 0 then (if old then ackLink s port h.linkSeq else s)
          else
            let k := recvKey x h.vc h.epoch
            let s := updPort s n fun x => { x with
              recvSeq := x.recvSeq + 1, counts := if keyed then x.counts.put k (x.count k + 1) else x.counts
              recvEpoch := if keyed then h.epoch else x.recvEpoch, recvNew := x.recvNew && (!keyed || h.epoch == x.recvEpoch) }
            let s := ackLink s port h.linkSeq
            if m.dstPart = s.part then receiveOwn s n h m else forwardPacket s n h m)

/-- LINK_ACKNOWLEDGEMENT (R46): packets up to the acknowledged one leave the retry buffer, and their buffers are free (R36). -/
def execLinkAcknowledgement (port : BitVec 4) (linkSeq : BitVec 12) (s : State) : Host.Outcome State Fault Refusal :=
  .next (match (portAt s port.toNat).retry.findIdx? fun k => (Packet.head k).linkSeq == linkSeq with
    | some i => portGo (updPort s port.toNat fun x => { x with retry := x.retry.drop (i + 1), replayed := 0 }) port.toNat
    | none => s)

/-- END_TO_END_ACKNOWLEDGEMENT (R39): the packet is over and another may go. -/
def execEndToEndAcknowledgement (gw : BitVec 6) (part : PartId) (pathSeq : BitVec 32) (s : State) : Host.Outcome State Fault Refusal :=
  .next (
    let o := outAt s gw part
    if !(o.unacked.any fun u => u.1 == pathSeq) then s
    else pump (putOut s { o with unacked := o.unacked.filter fun u => u.1 != pathSeq }) gw part)

/-- The retry buffer is sent again, in order, with its old numbers (R46). -/
def replay (s : State) (port : BitVec 4) : State :=
  { s with lam := { s.lam with sent := s.lam.sent ++ (portAt s port.toNat).retry.map fun k => (port, k) } }

/-- LINK_REPLAY (R46). -/
def execLinkReplay (port : BitVec 4) (s : State) : Host.Outcome State Fault Refusal :=
  .next (
    let x := portAt s port.toNat
    if x.st ≠ 2 || x.retry.isEmpty || 8 ≤ x.replayed then s
    else replay (updPort s port.toNat fun x => { x with replays := x.replays + 1, replayed := x.replayed + 1 }) port)

/-- LINK_RETRAIN (R47): after 8 replays in vain, or when a lane loses lock. -/
def execLinkRetrain (port : BitVec 4) (lostLock : Bool) (s : State) : Host.Outcome State Fault Refusal :=
  .next (
    let x := portAt s port.toNat
    if x.st ≠ 2 || !(lostLock || decide (8 ≤ x.replayed)) then s
    else updPort s port.toNat fun x => { x with st := 3, retrains := x.retrains + 1 })

/-- Every gateway sends what waits for a part. -/
def pumpPart (s : State) (part : PartId) : State :=
  (s.lam.outs.filter fun o => o.part == part).foldl (fun (s : State) (o : GwOut) => pump s o.gw part) s
/-- The gateways of a port send what waits. -/
def pumpPort (s : State) (p : Nat) : State :=
  (s.lam.outs.filter fun o => o.gw.toNat / 4 == p).foldl (fun (s : State) (o : GwOut) => pump s o.gw o.part) s

/-- Unacknowledged packets for a part go again by its new paths, in order, and new ones wait (R35). -/
def reroute (s : State) (part : PartId) : State :=
  (s.lam.outs.filter fun o => o.part == part && !o.unacked.isEmpty).foldl (fun (s : State) (o : GwOut) =>
    o.unacked.foldl (fun (s : State) (u : BitVec 32 × BitVec 2 × Msg) => match gatewayOf s u.2.2 with
      | some g => portSend s (g / 4) u.1 (o.gw.setWidth 8) 1 u.2.1 u.2.2
      | none => s) (putOut s { o with held := true })) s

/-- What waits for a part goes to the gateways of its new paths, in order (R33, R35). -/
def requeue (s : State) (part : PartId) : State :=
  let l := (s.lam.outs.filter fun o => o.part == part).flatMap fun o => o.waiting.map (·.2)
  let clear (o : GwOut) : GwOut := if o.part = part then { o with waiting := [] } else o
  let s := { s with lam := { s.lam with outs := s.lam.outs.map clear } }
  l.foldl (fun (s : State) (m : Msg) => match gatewayOf s m with
    | some g => gwSend s g m
    | none => s) s

/-- HELD_PACKET_RELEASE (R35 step 3): every packet sent again is acknowledged. -/
def execHeldPacketRelease (gw : BitVec 6) (part : PartId) (s : State) : Host.Outcome State Fault Refusal :=
  .next (
    let o := outAt s gw part
    if !o.held || !o.unacked.isEmpty then s else pumpPart (putOut s { o with held := false }) part)

/-- A part can be reached no longer: each message for it returns (R47). -/
def abandon (s : State) (part : PartId) : State :=
  (s.lam.outs.filter fun o => o.part == part).foldl (fun (s : State) (o : GwOut) =>
    (o.unacked.map (·.2.2) ++ o.waiting.map (·.2)).foldl (fun (s : State) (m : Msg) => lamReturn s (Config.gatewayCore o.gw.toNat) m)
      (putOut s { o with unacked := [], waiting := [], held := false })) s

/-- A topology event for each job that has a region on a part (R47, R291). -/
def topologyFor (s : State) (part : PartId) (reason : BitVec 4) : State :=
  (s.fw.jobs.filter fun x => x.onPart part).foldl (fun (s : State) (x : Job) => topologyPlain s x.id reason part) s

/-- The Thyme reference of the domain (R52). -/
def referencePart (s : State) : PartId := referenceOf s.part s.rot.domain
/-- Is there a path to the Thyme reference: a port set toward it, or a link to it that is not down (R32, R52)? -/
def pathUp (s : State) : Bool :=
  let r := referencePart s
  (s.lam.sets.look r.toNat).getD 0 != 0 || (List.range 12).any fun p => (portAt s p).st != 0 && (portAt s p).partner == r
/-- Paths to the reference change (R52): a path is gained, or the last one is lost, which is a topology event of reason 3. -/
def checkPath (s : State) : State :=
  if s.lam.reference || s.lam.path == pathUp s then s
  else if s.lam.path then
    s.fw.jobs.foldl (fun (s : State) (x : Job) => topologyPlain s x.id 3 (referencePart s)) { s with lam := { s.lam with path := false } }
  else { s with lam := { s.lam with path := true } }

/-- The first-hop ports toward a part become a set (R32, R35, R47). -/
def changeSet (s : State) (part : PartId) (set : BitVec 12) : State :=
  let old := (s.lam.sets.look part.toNat).getD 0
  if set = old then s
  else
    let s := { s with lam := { s.lam with sets := s.lam.sets.put part.toNat set } }
    if set = 0 then topologyFor (abandon s part) part 1
    else
      let s := requeue (reroute s part) part
      if old = 0 then topologyFor s part 2 else s

/-- PORT_SET_CHANGE (R32, R35). -/
def execPortSetChange (part : PartId) (set : BitVec 12) (s : State) : Host.Outcome State Fault Refusal :=
  .next (if part = s.part then s else checkPath (changeSet s part set))

/-- A port goes down (R47, R45): firmware takes it from every port set. -/
def portDown (s : State) (p : Nat) (sec : Bool) : State :=
  let s := updPort s p fun x => { x with
    st := 0, lanes := 0, secEvent := x.secEvent || sec, queue := [], retry := [], replayed := 0, failed := 0, tagFail := false, keWait := false, keTries := 0 }
  let bit : BitVec 12 := 1#12 <<< p
  checkPath (s.lam.sets.foldl (fun (s : State) (e : Nat × BitVec 12) =>
    if e.2.getLsbD p then changeSet s (BitVec.ofNat 16 e.1) (e.2 &&& ~~~bit) else s) s)

/-- RETRAIN_END (R47, R53): six lanes or more bring the link back, with a replay; a failure leaves it retraining, the third in a row takes
the port down. -/
def execRetrainEnd (port : BitVec 4) (trained : Bool) (lanes : BitVec 4) (tagFailures : Bool) (s : State) : Host.Outcome State Fault Refusal :=
  .next (
    let p := port.toNat
    let x := portAt s p
    let sec := (x.tagFail || tagFailures) && [0, 1, 2, 3].any fun vc => modeOf x vc != 0
    if x.st ≠ 3 ∨ 8 < lanes.toNat then s
    else if trained && decide (6 ≤ lanes.toNat) then
      pumpPort (portGo (replay (updPort s p fun x => { x with st := 2, lanes := lanes, failed := 0, replayed := 0, tagFail := false }) port) p) p
    else if trained || decide (2 ≤ x.failed) then portDown s p sec
    else updPort s p fun x => { x with failed := x.failed + 1, retrains := x.retrains + 1, tagFail := x.tagFail || tagFailures })

end Sys2Proof.Machine
end

