-- ==== Sys2Proof/Machine/LinkKeys.lean ====
section
/-! DEFINITION. Links that come up (02 R45, R48), key establishment and epochs (R44, R45), Thyme words (R52). -/

namespace Sys2Proof.Machine

/-- KE1 or KE2 as it is read (R45): sender, round, the KEM bytes, its identity key, its signature. -/
structure KeyMsg where
  part : PartId
  round : BitVec 32
  kem : List Byte
  key : List Byte
  signature : List Byte
deriving DecidableEq, Repr

/-- Bytes of KE1 and KE2 before the signature (R45). -/
def keBytes (magic : Nat) (part : PartId) (round : BitVec 32) (kem key : List Byte) : List Byte :=
  bigBytes 4 magic ++ bigBytes 2 part.toNat ++ bigBytes 4 round.toNat ++ kem ++ key
/-- The digest that KE1 signs (R45). -/
def ke1Digest (part : PartId) (round : BitVec 32) (kem key : List Byte) : List Byte := shake256 (keBytes 0x4B453031 part round kem key) 64
/-- The digest that KE2 signs (R45): one digest over KE2's preceding bytes with KE1's digest after them, and KE1's digest is the one that KE1 signs
(log 46). -/
def ke2Digest (part : PartId) (round : BitVec 32) (kem key first : List Byte) : List Byte :=
  shake256 (keBytes 0x4B453032 part round kem key ++ first) 64
/-- Magic and KEM length of the two messages (R45). -/
def keShape (second : Bool) : Nat × Nat := if second then (0x4B453032, 1088) else (0x4B453031, 1184)
/-- Bytes of a message whole. -/
def keLen (second : Bool) : Nat := 10 + (keShape second).2 + 1952 + 3309
/-- A key message as bytes. -/
def KeyMsg.bytes (second : Bool) (m : KeyMsg) : List Byte := keBytes (keShape second).1 m.part m.round m.kem m.key ++ m.signature
/-- A key message read from bytes; none where the magic is another. -/
def keRead (second : Bool) (l : List Byte) : Option KeyMsg :=
  let k := (keShape second).2
  if l.length ≠ keLen second ∨ bigNat (l.take 4) ≠ (keShape second).1 then none
  else some {
    part := BitVec.ofNat 16 (bigNat ((l.drop 4).take 2)), round := BitVec.ofNat 32 (bigNat ((l.drop 6).take 4)), kem := (l.drop 10).take k,
    key := (l.drop (10 + k)).take 1952, signature := (l.drop (1962 + k)).take 3309 }

/-- Is key establishment on a port under the keys in force: a later epoch, in a channel 3 that is not in clear (R45)? -/
def kePlain (x : Port) : Bool := x.st == 1 || modeOf x 3 == 0
/-- A key message in the link's management channel (R45): whole flits of 64 B, the last one filled with zeros; under keys in force it carries
their tag (log 46). -/
def keSend (s : State) (p : Nat) (l : List Byte) : State :=
  let x := portAt s p
  let n := sendKey x 3 x.epoch
  let wire := padTo 64 (if kePlain x then l else protect (modeOf x 3) (x.schedule n) (nonceOf x.self (BitVec.ofNat 4 p) 3 (x.count n)) [] l)
  let s := if kePlain x then s else updPort s p fun x => { x with counts := x.counts.put n (x.count n + 1) }
  { s with lam := { s.lam with keOut := s.lam.keOut ++ [(BitVec.ofNat 4 p, wire)] } }
/-- The bytes of a key message of a length from its flits; none where the flits or their tag do not hold. -/
def keOpen (x : Port) (len : Nat) (wire : List Byte) : Option (List Byte) :=
  if kePlain x then (if wire.length = (len + 63) / 64 * 64 then some (wire.take len) else none)
  else
    let n := recvKey x 3 x.recvEpoch
    let ks := x.schedule n
    let nonce := nonceOf x.partner x.partnerPort 3 (x.count n)
    let l := wire.take len
    if wire.length = (len + 16 + 63) / 64 * 64 ∧ trailerOk (modeOf x 3) ks nonce [] l ((wire.drop len).take 16) = true then some (bare (modeOf x 3) ks nonce l)
    else none
/-- A message under keys in force was taken, and its key's count goes on (R44). -/
def keCounted (s : State) (p : Nat) : State :=
  let x := portAt s p
  let n := recvKey x 3 x.recvEpoch
  if kePlain x then s else updPort s p fun x => { x with counts := x.counts.put n (x.count n + 1) }

/-- KE1 is sent with a fresh KEM key (R45). -/
def sendKe1 (s : State) (p : Nat) : State :=
  let x := portAt s p
  let n := s.freeCnt
  let kem := freshKem n
  let d := ke1Digest x.self x.round kem identity
  let s := updPort { s with freeCnt := n + 1 } p fun x => { x with keWait := true, keSince := s.now.toNat, keDigest := d, keKem := n }
  keSend s p (KeyMsg.bytes false { part := x.self, round := x.round, kem := kem, key := identity, signature := signBy d })

/-- Key establishment begins: the lower part number sends KE1, the other waits for it (R45). -/
def startKeys (s : State) (p : Nat) : State :=
  if (portAt s p).self.toNat < (portAt s p).partner.toNat then sendKe1 s p else updPort s p fun x => { x with keWait := true, keSince := s.now.toNat }

/-- A check failed or no answer came: three more tries, then the port goes down with sec_event (R45). -/
def keyFail (s : State) (p : Nat) : State :=
  let n := (portAt s p).keTries + 1
  if 3 < n then portDown s p true else startKeys (updPort s p fun x => { x with keTries := n }) p

/-- A link key (R44). -/
def linkKeyOf (secret : List Byte) (a b : PartId) (dir : Bool) (vc epoch : Nat) (round : BitVec 32) : List Byte :=
  let lo := Nat.min a.toNat b.toNat
  let hi := Nat.max a.toNat b.toNat
  shake256 (ascii "CRIOLO-LCKEY" ++ secret ++ bigBytes 2 lo ++ bigBytes 2 hi ++ [BitVec.ofNat 8 dir.toNat, BitVec.ofNat 8 vc, BitVec.ofNat 8 epoch]
    ++ bigBytes 4 round.toNat) 32

/-- The keys of a shared secret are loaded (R44): at bring-up those of epoch 0, and the link is up; later those of the other epoch. -/
def loadKeys (s : State) (p : Nat) (secret : List Byte) (round : BitVec 32) : State :=
  let x := portAt s p
  let first := x.st == 1
  let e : BitVec 1 := if first then 0 else ~~~x.epoch
  let slots := [false, true].flatMap fun d => [0, 1, 2, 3].map fun vc => (d, vc)
  let keys := slots.foldl (fun (t : SMap (List Byte)) q => t.put (keyNo q.1 (BitVec.ofNat 2 q.2) e) (linkKeyOf secret x.self x.partner q.1 q.2 e.toNat round)) x.keys
  let counts := slots.foldl (fun (t : SMap Nat) q => t.put (keyNo q.1 (BitVec.ofNat 2 q.2) e) 0) x.counts
  let s := updPort s p fun x => { x with
    keys := keys, counts := counts, round := round + 1, keTries := 0, keWait := false, st := if first then 2 else x.st,
    epoch := if first then 0 else x.epoch, recvEpoch := if first then 0 else x.recvEpoch, recvNew := !first, loaded := !first }
  if first then pumpPort s p else s

/-- Does a key message come from the link partner, under a key of the domain table as it was at the link's bring-up (R45, R69)? -/
def keySender (x : Port) (m : KeyMsg) : Bool := m.part == x.partner && x.table.contains (m.part, shake256 m.key 64)

/-- KE1 (R45): the responder checks it, encapsulates and answers with KE2; the keys are loaded. -/
def execKe1 (port : BitVec 4) (wire : List Byte) (s : State) : Host.Outcome State Fault Refusal :=
  .next (
    let p := port.toNat
    let x := portAt s p
    if x.st = 0 || decide (x.self.toNat < x.partner.toNat) then s
    else
      match (keOpen x (keLen false) wire).bind (keRead false) with
      | none => keyFail s p
      | some m =>
        let s := keCounted s p
        let d := ke1Digest m.part m.round m.kem m.key
        if !keySender x m || !Config.mlDsaVerify m.key d m.signature || decide (m.round.toNat < x.round.toNat) then keyFail s p
        else
          let c := encapsulate m.kem s.freeCnt
          let e := ke2Digest x.self m.round c.1 identity d
          let r : KeyMsg := { part := x.self, round := m.round, kem := c.1, key := identity, signature := signBy e }
          loadKeys (keSend { s with freeCnt := s.freeCnt + 1 } p (KeyMsg.bytes true r)) p c.2 m.round)

/-- KE2 (R45): the initiator checks it and decapsulates; the keys are loaded. -/
def execKe2 (port : BitVec 4) (wire : List Byte) (s : State) : Host.Outcome State Fault Refusal :=
  .next (
    let p := port.toNat
    let x := portAt s p
    if x.st = 0 || !x.keWait || decide (x.partner.toNat ≤ x.self.toNat) then s
    else
      match (keOpen x (keLen true) wire).bind (keRead true) with
      | none => keyFail s p
      | some m =>
        let s := keCounted s p
        if !keySender x m || !Config.mlDsaVerify m.key (ke2Digest m.part m.round m.kem m.key x.keDigest) m.signature || m.round != x.round then keyFail s p
        else loadKeys s p (decapsulate x.keKem m.kem) m.round)

/-- KEY_ESTABLISHMENT_TIMEOUT (R45): no answer within 10 ms. -/
def execKeyEstablishmentTimeout (port : BitVec 4) (s : State) : Host.Outcome State Fault Refusal :=
  .next (
    let x := portAt s port.toNat
    if !x.keWait || s.now.toNat < x.keSince + 10000000 then s else keyFail s port.toNat)

/-- EPOCH_SWITCH (R44): to the other epoch once its keys are loaded; else they are established first. -/
def execEpochSwitch (port : BitVec 4) (s : State) : Host.Outcome State Fault Refusal :=
  .next (
    let x := portAt s port.toNat
    if x.st ≠ 2 then s
    else if x.loaded then updPort s port.toNat fun x => { x with epoch := ~~~x.epoch, loaded := false }
    else if x.keWait then s
    else startKeys s port.toNat)

/-- Does a port lead to the Thyme reference (R52)? -/
def leadsToReference (s : State) (p : Nat) : Bool :=
  let r := referencePart s
  (portAt s p).partner == r || ((s.lam.sets.look r.toNat).getD 0).getLsbD p

/-- LINK_BRING_UP (R45, R48, R52, R69): a link trains where the domain table names parts; the first path to the reference brings its
Thyme. -/
def execLinkBringUp (port : BitVec 4) (partner : PartId) (partnerPort : BitVec 4) (lanes : BitVec 4) (far : Bool) (refThyme : Word64) (s : State) :
    Host.Outcome State Fault Refusal :=
  .next (
    let p := port.toNat
    if (portAt s p).st ≠ 0 || decide (12 ≤ p) || s.rot.domain.isEmpty || decide (lanes.toNat < 6 ∨ 8 < lanes.toNat) || partner == s.part then s
    else
      let s := updPort s p fun x => { x with
        st := 1, partner := partner, partnerPort := partnerPort, lanes := lanes, far := far, self := s.part, table := s.rot.domain, sendSeq := 0, recvSeq := 0, queue := [], retry := [], replayed := 0, failed := 0,
        tagFail := false, keTries := 0, lastThyme := s.now.toNat }
      let s := if !s.lam.reference && !s.lam.adopted && leadsToReference s p then
          { s with clk := { s.clk with thyme := refThyme, hold := 0 }, lam := { s.lam with path := true, adopted := true } }
        else checkPath s
      startKeys s p)

/-- THYME_EXCHANGE (R52): every 4 µs on each link that is up. -/
def execThymeExchange (port : BitVec 4) (s : State) : Host.Outcome State Fault Refusal :=
  .next (
    let x := portAt s port.toNat
    if x.st ≠ 2 || s.now.toNat < x.lastThyme + 4000 then s
    else
      let s := updPort s port.toNat fun x => { x with lastThyme := s.now.toNat }
      { s with lam := { s.lam with thymeOut := s.lam.thymeOut ++ [(port, s.now)] } })

/-- THYME_WORD_RECEIVE (R52): the value is taken whole where a path has come up and none was taken before; else a part behind the reference takes its
value, and one ahead slows down, never back. -/
def execThymeWordReceive (port : BitVec 4) (value : Word64) (delay : Nat) (s : State) : Host.Outcome State Fault Refusal :=
  .next (
    let e := value.toNat + delay
    if (portAt s port.toNat).st ≠ 2 || s.lam.reference || !leadsToReference s port.toNat then s
    else if !s.lam.adopted then { s with clk := { s.clk with thyme := BitVec.ofNat 64 e, hold := 0 }, lam := { s.lam with adopted := true } }
    else if s.now.toNat < e then { s with clk := { s.clk with thyme := BitVec.ofNat 64 e, hold := 0 } }
    else { s with clk := { s.clk with hold := s.now.toNat - e } })

end Sys2Proof.Machine
end

