-- ==== Sys2Proof/Machine/Ethernet.lean ====
section
/-! DEFINITION. The Ethernet block (chapter 03): connection and address traffic (R54 to R56), RDMA (R57, R58), bootstrap SENDs (R59, R60), window
records (R61 to R63), the host as a destination and the mailboxes (R64 to R66). -/

namespace Sys2Proof.Machine

/-- A queue pair (R55). -/
def qpAt (s : State) (qp : BitVec 12) : Qp := (s.eth.qps.look qp.toNat).getD { st := .free, mtu := 0, port := 0, psn := 0, held := [], evs := [], leaving := false }
/-- A queue pair replaced. -/
def putQp (s : State) (qp : BitVec 12) (q : Qp) : State := { s with eth := { s.eth with qps := s.eth.qps.put qp.toNat q } }
/-- What the block sends. -/
def ethSend (s : State) (o : EthOut) : State := { s with eth := { s.eth with out := s.eth.out ++ [o] } }
/-- A NAK: the queue pair enters the error state (R55, R57). -/
def nak (s : State) (qp : BitVec 12) (access : Bool) : State := ethSend (putQp s qp { qpAt s qp with st := .error, held := [], evs := [] }) (.nak qp access)

/-- Is a port of the block at work (R28, R54)? -/
def portWorks (s : State) (port : BitVec 2) : Bool := s.eth.up.getLsbD port.toNat && (s.rot.phase != .recovery || port == 0)
/-- Is a queue pair free: never taken, given back, or in the error state with nothing outstanding (R56)? -/
def qpFree (s : State) (qp : BitVec 12) : Bool := (qpAt s qp).st == .free || (qpAt s qp).st == .error
/-- May a queue pair carry operations: connected, its port at work? -/
def qpReady (s : State) (qp : BitVec 12) : Bool := (qpAt s qp).st == .ready && portWorks s (qpAt s qp).port

/-- The queue pair is free (R56). -/
def freeQp (s : State) (qp : BitVec 12) : State :=
  let q := qpAt s qp
  let s := { s with eth := { s.eth with throttled := s.eth.throttled.filter (· != qp) } }
  putQp s qp { q with st := .free, held := [], evs := [], leaving := false }
/-- A queue pair that was asked to go is free once its requests have ended (R56). -/
def endQp (s : State) (qp : BitVec 12) : State :=
  let q := qpAt s qp
  if q.leaving && q.held.isEmpty then ethSend (freeQp s qp) (.cm q.port "DREP" qp 0 0) else s

/-- What a request comes to: it is over, or it goes on later, waiting for a page or for its memory events. -/
inductive Turn where
  | ended (s : State)
  | later (s : State)

/-- A request that arrives on a queue pair (R55, R58): an ECN mark is answered with a CNP; a request outside the subset, or a seventeenth READ at
once, with a NAK; behind a request that goes on it waits. What goes on does so when its occurrence comes again. -/
def request (s : State) (qp : BitVec 12) (h : ReqHead) (i : Instr) (go : State → Turn) : State :=
  let q := qpAt s qp
  if !qpReady s qp then s
  else if q.held.head? = some i then
    match go (putQp s qp { q with held := q.held.tail }) with
    | .ended t => endQp t qp
    | .later t => putQp t qp { qpAt t qp with held := q.held }
  else
    let s := if h.ecn then ethSend s (.cnp qp) else s
    if h.form ≠ .inside ∨ 16 ≤ h.behind then nak s qp false
    else if !q.held.isEmpty then putQp s qp { q with held := q.held ++ [i] }
    else match go s with
      | .ended t => t
      | .later t => putQp t qp { qpAt t qp with held := [i] }

/-- CM_REQ (R56): REP with a free queue pair that the device picks and the packet sequence number it starts with, or REJ. The path MTU is the smaller
of the request's and the port's, which is 4,096 (log 16), and one of the three of R55 (log 48). -/
def execCmReq (port : BitVec 2) (peer : Nat) (mtu : Nat) (qp : BitVec 12) (s : State) : Host.Outcome State Fault Refusal :=
  let _ := peer
  .next (
    if !portWorks s port then s
    else if (List.range 4096).all fun n => !qpFree s (BitVec.ofNat 12 n) then ethSend s (.cm port "REJ" 0 0 0)
    else
      let m := Nat.min mtu 4096
      if m ≠ 1024 ∧ m ≠ 2048 ∧ m ≠ 4096 then ethSend s (.cm port "REJ" 0 0 0)
      else if !qpFree s qp then s
      else
        let psn : BitVec 24 := (Config.freeWord s.freeCnt).setWidth 24
        ethSend (putQp { s with freeCnt := s.freeCnt + 1 } qp { st := .wait, mtu := m, port := port, psn := psn, held := [], evs := [], leaving := false })
          (.cm port "REP" qp m psn))

/-- CM_RTU (R56): the connection stands; a REJ in its place frees the queue pair. -/
def execCmRtu (a : RepAnswer) (s : State) : Host.Outcome State Fault Refusal :=
  .next (
    if (qpAt s a.qp).st ≠ .wait then s
    else if a.rejected then freeQp s a.qp
    else putQp s a.qp { qpAt s a.qp with st := .ready })

/-- CM_DREQ (R56): DREP, and the queue pair is free, once its requests have ended. -/
def execCmDreq (qp : BitVec 12) (s : State) : Host.Outcome State Fault Refusal :=
  .next (
    let q := qpAt s qp
    if q.st = .free then s
    else if !q.held.isEmpty then putQp s qp { q with leaving := true }
    else ethSend (freeQp s qp) (.cm q.port "DREP" qp 0 0))

/-- The MAC address of a port (R56). -/
def macOf (s : State) (port : BitVec 2) : BitVec 48 := s.rot.macs[port.toNat]'(by have := port.isLt; omega)
/-- The link-local address that a MAC address gives: the interface identifier is its modified EUI-64 (R56, log 16). -/
def linkLocal (mac : BitVec 48) : BitVec 128 :=
  (0xFE80000000000000 : BitVec 64) ++ (mac.extractLsb' 24 24 ^^^ (0x020000 : BitVec 24)) ++ (0xFFFE : BitVec 16) ++ mac.extractLsb' 0 24
/-- A port's own addresses; an IPv4 address is held as a number below 2^32. -/
def ownAddrs (s : State) (port : BitVec 2) : List (BitVec 128) := linkLocal (macOf s port) :: (s.eth.addrs.look port.toNat).getD []
/-- An answer to address traffic for one of a port's own addresses (R56). -/
def addrAnswer (s : State) (port : BitVec 2) (ip : BitVec 128) (kind : String) (data : List Byte) : State :=
  if s.rot.phase = .recovery || !portWorks s port || !(ownAddrs s port).contains ip then s else ethSend s (.addr port kind data)

/-- ARP_REQUEST (R56). -/
def execArpRequest (port : BitVec 2) (ip : BitVec 32) (s : State) : Host.Outcome State Fault Refusal :=
  .next (addrAnswer s port (ip.setWidth 128) "ARP" (bigBytes 6 (macOf s port).toNat))
/-- NEIGHBOUR_DISCOVERY (R56). -/
def execNeighbourDiscovery (port : BitVec 2) (ip : BitVec 128) (s : State) : Host.Outcome State Fault Refusal :=
  .next (addrAnswer s port ip "ND" (bigBytes 6 (macOf s port).toNat))
/-- ICMP_ECHO (R56). -/
def execIcmpEcho (port : BitVec 2) (ip : BitVec 128) (data : List Byte) (s : State) : Host.Outcome State Fault Refusal :=
  .next (addrAnswer s port ip "ECHO" data)
/-- DHCP_ADDRESS (R56). -/
def execDhcpAddress (port : BitVec 2) (ip : BitVec 128) (s : State) : Host.Outcome State Fault Refusal :=
  .next (
    let l := (s.eth.addrs.look port.toNat).getD []
    if s.rot.phase = .recovery || !portWorks s port || l.contains ip then s else { s with eth := { s.eth with addrs := s.eth.addrs.put port.toNat (l ++ [ip]) } })
/-- CNP_RECEIVE (R55): the device throttles what it sends on the queue pair. -/
def execCnpReceive (qp : BitVec 12) (s : State) : Host.Outcome State Fault Refusal :=
  .next (if s.eth.throttled.contains qp then s else { s with eth := { s.eth with throttled := s.eth.throttled ++ [qp] } })
/-- DISCARDED_FRAME (R54). -/
def execDiscardedFrame (port : BitVec 2) (s : State) : Host.Outcome State Fault Refusal :=
  .next { s with eth := { s.eth with discarded := s.eth.discarded.put port.toNat ((s.eth.discarded.look port.toNat).getD 0 + 1) } }

/-- Bytes of a window's ring (R61) and of the range that its rkey names (R66). -/
def ringBytes : Nat := 81920
/-- The range with the control block. -/
def windowBytes : Nat := ringBytes + 64

/-- The open window that an rkey names (R61). -/
def windowOf (s : State) (rkey : BitVec 32) : Option (Nat × Window) := s.eth.windows.find? fun (p : Nat × Window) => p.2.open_ && p.2.rkey == rkey

/-- Bytes written into a window's range: ring bytes, with the slots whose last byte was written, and m_consumed, which never exceeds the
produced sequence (R61, R66). The range starts at address 0 (log 16). -/
def Window.write (w : Window) (a : Nat) (l : List Byte) : Window :=
  let bytes := l.zipIdx.map fun p => (a + p.2, p.1)
  let ring := (bytes.filter fun p => decide (p.1 < ringBytes)).foldl (fun (r : SMap Byte) p => r.put p.1 p.2) w.ring
  let done := (bytes.filter fun p => decide (p.1 < ringBytes) && p.1 % 320 == 319).map fun p => p.1 / 320
  let old := bytesOf 8 w.consumed
  let ctl := (List.range 8).map fun i => match bytes.find? fun p => p.1 == ringBytes + i with
    | some p => p.2
    | none => old.getD i 0
  { w with ring := ring, fresh := w.fresh.filter (fun n => !done.contains n) ++ done, consumed := Nat.min (natOf ctl) w.produced }

/-- What an rkey reaches (R57, R61): a range of a job's space with its ASID, a window, or nothing. -/
inductive RkeyAt where
  | job (j : JobId) (asid : BitVec 16)
  | window (n : Nat) (w : Window)
  | none
deriving DecidableEq, Repr

/-- The range of an rkey, where an access stays inside it (R57). -/
def rkeyAt (s : State) (rkey : BitVec 32) (a n : Nat) : RkeyAt :=
  match windowOf s rkey with
  | some p => if a + n ≤ windowBytes then .window p.1 p.2 else .none
  | none =>
    match s.eth.rkeys.find? fun r => r.rkey == rkey with
    | some r =>
      match s.job r.job with
      | some x => if r.va.toNat ≤ a ∧ a + n ≤ r.va.toNat + r.len then .job x.id x.asid else .none
      | none => .none
    | none => .none

/-- Events of a request on a range of a job's space: out, or performed, with the data that came back (R212, R232). -/
def rdmaEvents (s : State) (qp : BitVec 12) (fin : State → List (Nat × Byte × Bool) → State) (evs : State → List Nat × State) : Turn :=
  let q := qpAt s qp
  if q.evs.isEmpty then
    let r := evs s
    if r.1.isEmpty then .ended (fin s [])
    else .later (putQp r.2 qp { q with evs := r.1 })
  else if q.evs.any (outstanding s) then .later s
  else
    let r := takeRets s q.evs
    .ended (fin (putQp r.2 qp { q with evs := [] }) r.1)

/-- RDMA_WRITE (R57, R58, R284): one event for each granule of the range; a page of a generation is copied first, and where no frame can be had the write
waits. A page without the write right is a remote access error like an unmapped one (log 48). -/
def execRdmaWrite (q : QpReq) (rkey : BitVec 32) (va : BitVec 48) (data : List Byte) (s : State) : Host.Outcome State Fault Refusal :=
  let qp := q.qp
  .next (request s qp q.head (.rdmaWrite q rkey va data) fun s =>
    if !(qpAt s qp).evs.isEmpty then rdmaEvents s qp (fun s _ => s) fun s => ([], s)
    else if s.rot.phase = .recovery ∨ 2 ^ 31 < data.length then .ended (nak s qp false)
    else
      match rkeyAt s rkey va.toNat data.length with
      | .none => .ended (nak s qp true)
      | .window n _ => .ended (updWindow s n fun w => w.write va.toNat data)
      | .job j asid =>
        match reachCopy (pagesOf va.toNat data.length).length s asid va.toNat data.length with
        | .fault _ => .ended (nak s qp true)
        | .wait _ => .later s
        | .keys f t =>
          rdmaEvents t qp (fun s _ => s) fun s =>
            plainEvents s (.rdma qp.toNat) j 0 3 2 (va.setWidth 64) ((List.range data.length).map fun i => (f (va.toNat + i), i)) fun g =>
              .write (g.map fun p => (p.1, data.getD p.2 0)))

/-- RDMA_READ (R57): one event for each granule; bad data are not returned. -/
def execRdmaRead (q : QpReq) (rkey : BitVec 32) (va : BitVec 48) (len : Nat) (s : State) : Host.Outcome State Fault Refusal :=
  let qp := q.qp
  .next (request s qp q.head (.rdmaRead q rkey va len) fun s =>
    let fin (s : State) (l : List (Nat × Byte × Bool)) : State :=
      if l.any (·.2.2) then nak s qp true
      else ethSend s (.readData qp ((List.range len).map fun i => (l.find? fun p => p.1 == i).elim 0 (·.2.1)))
    if !(qpAt s qp).evs.isEmpty then rdmaEvents s qp fin fun s => ([], s)
    else if s.rot.phase = .recovery ∨ 2 ^ 31 < len then .ended (nak s qp false)
    else
      match rkeyAt s rkey va.toNat len with
      | .none => .ended (nak s qp true)
      | .window _ w =>
        let ctl := bytesOf 8 w.consumed
        .ended (ethSend s (.readData qp ((List.range len).map fun i =>
          let a := va.toNat + i
          if a < ringBytes then (w.ring.look a).getD 0 else ctl.getD (a - ringBytes) 0)))
      | .job j asid =>
        match reach s asid va.toNat len false with
        | .fault _ => .ended (nak s qp true)
        | .wait _ => .later s
        | .keys f t =>
          rdmaEvents t qp fin fun s =>
            plainEvents s (.rdma qp.toNat) j 0 3 2 (va.setWidth 64) ((List.range len).map fun i => (f (va.toNat + i), i)) fun _ => .read)

/-- ATTESTATION (R30, R59): a SEND of code 1; one of a code that the table does not name is refused. -/
def execAttestation (q : QpReq) (m : CodedSend) (s : State) : Host.Outcome State Fault Refusal :=
  .next (request s q.qp q.head (.attestation q m) fun s =>
    if s.rot.phase = .recovery ∨ m.code ≠ 1 ∨ m.nonce.length ≠ 32 then .ended (nak s q.qp false)
    else .ended (ethSend s (.answer q.qp (attestReport s m.nonce))))

/-- The session answer (R60). With status 2 or 3 its index, rkey and ciphertext are zero (log 48). -/
def sessionAnswer (status : Nat) (win : BitVec 12) (rkey : BitVec 32) (ct ek : List Byte) : List Byte :=
  let b := bytesOf 4 status ++ bytesOf 2 win.toNat ++ bytesOf 2 0 ++ bytesOf 4 rkey.toNat ++ fit 1088 ct ++ identity
  b ++ signBy (shake256 (b ++ ek) 64)

/-- SESSION (R59, R60): a management window on the queue pair; the window and its rkey are the device's choice among the free ones. -/
def execSession (q : QpReq) (ek : List Byte) (mbRkey : BitVec 32) (mbAddr : Word64) (slots : BitVec 32) (win : BitVec 12) (winRkey : BitVec 32)
    (s : State) : Host.Outcome State Fault Refusal :=
  let qp := q.qp
  .next (request s qp q.head (.session q ek mbRkey mbAddr slots win winRkey) fun s => .ended (
    if s.rot.phase = .recovery ∨ ek.length ≠ 1184 then nak s qp false
    else if slots.toNat < 16 ∨ 4096 < slots.toNat then ethSend s (.answer qp (sessionAnswer 2 0 0 [] ek))
    else if (List.range 4096).all fun n => !windowFree s n then ethSend s (.answer qp (sessionAnswer 3 0 0 [] ek))
    else if !windowFree s win.toNat || rkeyUsed s winRkey then s
    else
      let c := encapsulate ek s.freeCnt
      let w := newWindow qp true 0 c.2 (windowKey c.2 qp win) winRkey mbRkey mbAddr slots.toNat
      let s := { s with freeCnt := s.freeCnt + 1, eth := { s.eth with windows := s.eth.windows.put win.toNat w } }
      ethSend s (.answer qp (sessionAnswer 0 win winRkey c.1 ek))))

/-- The slot that uploads go to: one that is not active (R28); where neither is, slot 0 (log 6). -/
def uploadSlot (s : State) : BitVec 1 := if (s.rot.image 0).1 = .active then 1 else 0

/-- IMAGE_BLOCK (R28, R59): bytes into the slot of base flash that is not active. -/
def execImageBlock (q : QpReq) (offset : BitVec 32) (data : List Byte) (s : State) : Host.Outcome State Fault Refusal :=
  let qp := q.qp
  .next (request s qp q.head (.imageBlock q offset data) fun s => .ended (
    if 4000 < data.length then nak s qp false
    else
      let n := uploadSlot s
      let x := s.rot.image n
      let b := data.zipIdx.foldl (fun (m : SMap Byte) p => m.put (offset.toNat + p.2) p.1) x.2
      ethSend { s with rot := s.rot.putImage n (x.1, b) } (.answer qp (bytesOf 4 0))))

/-- IMAGE_END (R27, R28, R59): the slot's bytes are checked. A good image starts at once in recovery, else it is pending; a bad one leaves the slot
spare and answers status 2 (log 6). -/
def execImageEnd (qp : BitVec 12) (h : ReqHead) (s : State) : Host.Outcome State Fault Refusal :=
  .next (request s qp h (.imageEnd qp h) fun s => .ended (
    let n := uploadSlot s
    let put (st : ImageSt) : State := { s with rot := s.rot.mark n st }
    if !imagePasses s (s.rot.image n).2 then ethSend (put .spare) (.answer qp (bytesOf 4 2))
    else if s.rot.phase = .recovery then ethSend (startImage (put .spare) n) (.answer qp (bytesOf 4 0))
    else ethSend (put .pending) (.answer qp (bytesOf 4 0))))

/-- The bytes of a ring slot (R61). -/
def Window.slotBytes (w : Window) (n : Nat) : List Byte := (List.range 320).map fun i => (w.ring.look (320 * n + i)).getD 0

/-- The record that a slot's bytes hold (R61), its mac checked under the window key. -/
def Window.record (w : Window) (n : Nat) : HostRec :=
  let b := w.slotBytes n
  let zero (o k : Nat) : Bool := ((b.drop o).take k).all (· == 0)
  { seq := BitVec.ofNat 64 (fieldOf b 0 8), route := BitVec.ofNat 64 (fieldOf b 8 8), arg := BitVec.ofNat 64 (fieldOf b 16 8),
    job := BitVec.ofNat 16 (fieldOf b 24 2), kind := BitVec.ofNat 8 (fieldOf b 26 1), aux := BitVec.ofNat 8 (fieldOf b 27 1),
    plen := BitVec.ofNat 16 (fieldOf b 28 2), zeroOk := zero 30 2 && zero 288 16,
    macOk := (b.drop 304).take 16 == kmac256 w.key (b.take 304) "CRIOLO-WINDOW" 16, payload := (b.drop 32).take 256 }

/-- Does R62 reject a record with status 2? -/
def recordBad (r : HostRec) : Bool :=
  let w := routeOf r.route
  decide (2 < r.kind.toNat ∨ 256 < r.plen.toNat ∨ r.plen.toNat % 16 ≠ 0) || !r.zeroOk || (r.kind == 0 && r.aux != 0) || r.route.extractLsb' 0 2 != 0
    || (r.job == 0 && w.core != 0) || w.prio == 31

/-- A window-error record, type 4 (R62, R65). -/
def windowError (s : State) (win status : Nat) (seq : BitVec 64) : State := toMailbox s win (mailboxRec 4 status 0 0 0 seq [])

/-- A record's message (R63). -/
def recordMsg (s : State) (win : BitVec 12) (w : Window) (r : HostRec) : Msg :=
  let d := routeOf r.route
  Msg.formed {
    dstPart := d.part, dstCore := d.core, srcCore := BitVec.ofNat 20 (240 + (qpAt s w.qp).port.toNat), srcPart := s.part, vnet := 0,
    kind := r.kind.setWidth 4, prio := d.prio, rcheck := 0, etag := false, job := r.job, sel := d.sel, tag := d.tag,
    pfmt := if r.plen = 0 then 0 else d.pfmt, seq := win.setWidth 16, residue := 0, aux := r.aux, arg := r.arg, zeros := 0, retained := false,
    fixed := false, args := [], payload := r.payload.take r.plen.toNat }

/-- A record's message enters the mesh at its proxy (R63): for the own part its core is found from the rank table. -/
def injectRecord (s : State) (m : Msg) : State :=
  let rank := (m.dstCore.extractLsb' 8 12).toNat
  if m.dstPart ≠ s.part ∨ m.job = 0 then putFlight s m.srcCore m false
  else if rank = 0xFFF then putFlight s m.srcCore m true
  else
    match rankEntry s m.job rank with
    | some e => putFlight s m.srcCore (Msg.checked { m with dstCore := entryCluster e ++ m.dstCore.extractLsb' 0 8 }) false
    | none => sendBack s m.srcCore m 10

/-- The fate of a record whose mac holds and whose number is the next (R62, R63). -/
def acceptRecord (s : State) (win : BitVec 12) (w : Window) (r : HostRec) : State :=
  let n := win.toNat
  let s := updWindow s n fun w => { w with last := r.seq }
  -- the consumed window sequence of the mailbox header (R65)
  let s := hostWrite s w.mbRkey (w.mbAddr + 8) (bytesOf 8 r.seq.toNat)
  if recordBad r then windowError s n 2 r.seq
  else if (if r.job = 0 then !w.mgmt else w.job != r.job) then windowError s n 4 r.seq
  else if r.job ≠ 0 ∧ (routeOf r.route).part = s.part ∧ (s.job r.job).isNone = true then windowError s n 5 r.seq
  else
    let m := recordMsg s win w r
    let s := if r.job = 0 ∧ r.kind = 0 ∧ m.dstPart = s.part then updWindow s n fun w => { w with owed := w.owed + 1 } else s
    -- the last 256 records for other parts are kept, for a return (R62)
    let s := if m.dstPart = s.part then s else updWindow s n fun w => { w with abroad := (w.abroad ++ [(r.seq, m)]).drop (w.abroad.length + 1 - 256) }
    injectRecord s m

/-- WINDOW_RECORD (R62): the block looks at the slot of the next number, once it was written. A stopped window (R63) and a closing one wait. -/
def execWindowRecord (win : BitVec 12) (s : State) : Host.Outcome State Fault Refusal :=
  .next (match windowAt s win.toNat with
    | none => s
    | some w =>
      let slot := (w.last.toNat + 1) % 256
      if !w.open_ || w.closing || w.stopped || !w.fresh.contains slot then s
      else
        let r := w.record slot
        let s := updWindow s win.toNat fun w => { w with fresh := w.fresh.filter (· != slot) }
        if !r.macOk then windowError s win.toNat 4 r.seq
        else if r.seq ≠ w.last + 1 then s
        else acceptRecord s win w r)

/-- Is a mailbox full (R66)? -/
def Window.full (w : Window) : Bool := w.produced - w.consumed == w.slots

/-- A window whose replies are written closes (R67). -/
def closeWindow (s : State) (win : Nat) : State :=
  let s := updWindow s win fun w => { w with open_ := false, closing := false }
  { s with fw := { s.fw with jobs := s.fw.jobs.map fun x => { x with windows := x.windows.filter fun n => n.toNat != win } } }

/-- MAILBOX_RECORD_WRITE (R65 to R67): the named address is the header's, with the ring behind it (log 48); bytes 0 to 311 and then the phase word, the header's produced sequence last; sequence number n lies in
slot n mod the slot count (log 16). A full mailbox waits. -/
def execMailboxRecordWrite (win : BitVec 12) (s : State) : Host.Outcome State Fault Refusal :=
  .next (match windowAt s win.toNat with
    | none => s
    | some w =>
      if !w.open_ then s
      else
        match w.pendingRecs with
        | [] => if w.closing ∧ w.owed = 0 then closeWindow s win.toNat else s
        | rec :: rest =>
          if w.full || !qpReady s w.qp then s
          else
            let n := w.produced + 1
            let a := w.mbAddr + BitVec.ofNat 64 (64 + 320 * (n % w.slots))
            let s := updWindow s win.toNat fun w => { w with produced := n, pendingRecs := rest }
            hostWrite (hostWrite (hostWrite s w.mbRkey a (bytesOf 8 n ++ rec)) w.mbRkey (a + 312) (bytesOf 8 n)) w.mbRkey w.mbAddr (bytesOf 8 n))

/-- The UE event for a tagged message to the host (R270): to its sender. -/
def hostUe (s : State) (m : Msg) : State :=
  let a : FaultArg := { source := 5, slot := 0, tile := 0, row := 0, acc := 0, sub := 0x08, count := 0 }
  let addr : Word64 := m.srcCore ++ m.srcPart ++ (0 : BitVec 28)
  if m.srcPart = s.part then sendFault s m.srcCore m.job .ue a addr
  else
    let e := faultEvent s m.srcCore m.job (((s.job m.job).map (·.faultSel)).getD 0) .ue a addr
    gatewayEmit s m.srcCore (Msg.checked { e with dstPart := m.srcPart, fixed := true })

/-- HOST_MESSAGE (R64, R270): to mailbox [35:28] of its job; another kind or an unknown mailbox sends it back. -/
def execHostMessage (id : Nat) (s : State) : Host.Outcome State Fault Refusal :=
  .next (match flightOf s id with
    | none => s
    | some f =>
      if !f.host then s
      else
        let s := dropFlight s id
        let m := if Msg.residueOk f.msg then f.msg else Msg.tagged f.msg
        if !Msg.headerOk f.msg || !Msg.netOk f.msg then routeFail s (clusterAt f.x f.y) f.msg
        else
          match (s.job m.job).bind fun x => x.windows[(m.dstCore.extractLsb' 0 8).toNat]? with
          | none => lamReturn s m.srcCore m
          | some win =>
            if m.kind ≠ 0 then lamReturn s m.srcCore m
            else if m.etag then hostUe s m
            else toMailbox s win.toNat (mailboxRec 2 0 m.job m.sel m.tag m.arg m.payload))

end Sys2Proof.Machine
end

