-- ==== Sys2Proof/Machine/Flags.lean ====
section
/-! DEFINITION. The flags of this machine are the mask registers: what a comparison writes into one (12 R346, 13
R359). -/

namespace Sys2Proof.Machine

/-- The signed reading of a width-n value. -/
def sgn (n x : Nat) : Int := signedOf n x
/-- The reference shape of CMP and FCMP: the first source that is not 1×1, or Tb (R327). -/
def cmpRef (b c : Tile) : Tile := if b.scalar && !c.scalar then c else b

/-- Writing a mask register by comparison (R346): a tagged operand leaves it and raises the UE event. -/
def compareInto (x : AluIn) (a : MReg) (k : MReg) (ref : Tile) (b c : Src) (test : Nat → Nat → Bool) : AluRes :=
  let cyc := aluCycles ref.validBytes
  if !maskFits k ref then .error .shape
  else if b.t.tag || c.t.tag then .ok (AluOut.ueOnly cyc)
  else
    let old := x.mask a
    let bit (e : Nat) : Bool :=
      if !(decide (e < ref.count) && ref.validE e) then false
      else if x.bit k e && b.present e && c.present e then test (b.at_ e) (c.at_ e)
      else old.getLsbD e
    .ok (AluOut.maskOnly a (BitVec.ofNat 64 (packBits 1 ((List.range 64).map fun e => if bit e then 1 else 0))) cyc)

/-- CMP (R346): EQ, NE, LT, LE, LTU, LEU by the condition code of R302. -/
def cmpTest (n : Nat) (f : BitVec 3) (b c : Nat) : Bool :=
  if f = 0 then b == c else if f = 1 then b != c
  else if f = 2 then decide (sgn n b < sgn n c) else if f = 3 then decide (sgn n b ≤ sgn n c)
  else if f = 4 then decide (b < c) else decide (b ≤ c)

/-- FCMP (R359): EQ, LT, LE, UN. -/
def fcmpTest (p : FloatSpec) (f : BitVec 2) (b c : Nat) : Bool :=
  let u := valFloat p b
  let v := valFloat p c
  if f = 0 then eqVal u v else if f = 1 then ltVal u v
  else if f = 2 then eqVal u v || ltVal u v else isNan u || isNan v

end Sys2Proof.Machine
end

