-- ==== Sys2Proof/Machine/AluFloat.lean ====
section
/-! DEFINITION. Float, fused, compare, approximate and conversion instructions as functions of the slot's tiles
(13 R356 to R367). -/

namespace Sys2Proof.Machine

/-- The parameters of an arithmetic float, or SHAPE (R353). -/
def arithSpec (f : Fmt) : Except Cause FloatSpec :=
  if isArith f then
    match floatSpec f with
    | some p => .ok p
    | none => .error .shape
  else .error .shape

/-- A binary instruction whose result is one exact value rounded once (R356). -/
def aluF2 (op : RMode → FVal → FVal → FVal) (a b c : TReg) (k : MReg) (r : BitVec 2) (x : AluIn) : AluRes := do
  let ta := x.tile a
  let p ← arithSpec ta.fmt
  let sb ← sameSrc ta (x.tile b)
  let sc ← sameSrc ta (x.tile c)
  let md := rmodeOf r
  elementwise x a k [sb, sc] false
    (fun _ v _ => roundFloat p md (op md (valFloat p (v.getD 0 0)) (valFloat p (v.getD 1 0)))) 1

/-- FDIV (R357): four times the cycles (R354). -/
def aluFdiv (a b c : TReg) (k : MReg) (r : BitVec 2) (x : AluIn) : AluRes := do
  let ta := x.tile a
  let p ← arithSpec ta.fmt
  let sb ← sameSrc ta (x.tile b)
  let sc ← sameSrc ta (x.tile c)
  elementwise x a k [sb, sc] false
    (fun _ v _ => roundFloat p (rmodeOf r) (divVal (valFloat p (v.getD 0 0)) (valFloat p (v.getD 1 0)))) 4

/-- A unary instruction on values, rounded to the same format under a mode. -/
def aluF1 (op : FVal → FVal) (md : RMode) (mult : Nat) (a b : TReg) (k : MReg) (x : AluIn) : AluRes := do
  let ta := x.tile a
  let p ← arithSpec ta.fmt
  let sb ← sameSrc ta (x.tile b)
  elementwise x a k [sb] false (fun _ v _ => roundFloat p md (op (valFloat p (v.getD 0 0)))) mult

/-- FABS, FNEG and FCPYS act on the pattern: the low bits of b under a sign (R192, R357). -/
def aluSign (sign : Bool → Bool → Bool) (a b c : TReg) (k : MReg) (x : AluIn) : AluRes := do
  let ta := x.tile a
  let p ← arithSpec ta.fmt
  let sb ← sameSrc ta (x.tile b)
  let sc ← sameSrc ta (x.tile c)
  elementwise x a k [sb, sc] false
    (fun _ v _ => p.pack (sign (p.neg (v.getD 0 0)) (p.neg (v.getD 1 0))) (p.mag (v.getD 0 0))) 1

/-- A value rounded to an integral value, the sign of a zero kept (R357). -/
def rndVal (md : RMode) (v : FVal) : FVal :=
  match v with
  | .fin s m e => if 0 ≤ e then v else .fin s (roundInt md s m e) 0
  | v => v

/-- A fused instruction: ± (b × c) ± a, one rounding (R356, R357). -/
def aluFused (negProd negOld : Bool) (a b c : TReg) (k : MReg) (r : BitVec 2) (x : AluIn) : AluRes := do
  let ta := x.tile a
  let p ← arithSpec ta.fmt
  let sb ← sameSrc ta (x.tile b)
  let sc ← sameSrc ta (x.tile c)
  let md := rmodeOf r
  elementwise x a k [sb, sc] true
    (fun _ v old =>
      let pr := mulVal (valFloat p (v.getD 0 0)) (valFloat p (v.getD 1 0))
      let o := valFloat p old
      roundFloat p md (addVal md (if negProd then negVal pr else pr) (if negOld then negVal o else o))) 1

/-- FSCL (R357). -/
def aluFscl (a b c : TReg) (k : MReg) (r : BitVec 2) (x : AluIn) : AluRes := do
  let ta := x.tile a
  let p ← arithSpec ta.fmt
  let sb ← sameSrc ta (x.tile b)
  let sc ← scaleSrc ta (x.tile c)
  -- an unsigned 64-bit scale above 2^63 overflows like any large one
  let uns := !isSigned (x.tile c).fmt
  elementwise x a k [sb, sc] false
    (fun _ v _ =>
      let n : Int := if uns then ((v.getD 1 0 : Nat) : Int) else signedOf 64 (v.getD 1 0)
      roundFloat p (rmodeOf r) (scaleVal (valFloat p (v.getD 0 0)) n)) 1

/-- The class bit of a pattern (R358). -/
def classBits (p : FloatSpec) (y : Nat) : Nat :=
  let a := p.mag y
  let s := p.neg y
  if p.maxMag + 1 < a then (if (a % 2 ^ p.fb) < 2 ^ (p.fb - 1) then 2 ^ 8 else 2 ^ 9)
  else if a = p.maxMag + 1 then (if s then 1 else 2 ^ 7)
  else if a = 0 then (if s then 2 ^ 3 else 2 ^ 4)
  else if a < 2 ^ p.fb then (if s then 2 ^ 2 else 2 ^ 5)
  else (if s then 2 else 2 ^ 6)

/-- FCLASS (R358). -/
def aluFclass (a b : TReg) (k : MReg) (x : AluIn) : AluRes := do
  let t := x.tile b
  let p ← arithSpec t.fmt
  let s := shapeOfV .uint16 t.rows t.cols t.vrows t.vcols
  shaping x a k s (fun e => classBits p (t.raw e)) t.tag (aluCycles s.validBytes)

/-- FCMP (R359). -/
def aluFcmp (a : MReg) (b c : TReg) (k : MReg) (f : BitVec 2) (x : AluIn) : AluRes := do
  let ref := cmpRef (x.tile b) (x.tile c)
  let p ← arithSpec ref.fmt
  let sb ← sameSrc ref (x.tile b)
  let sc ← sameSrc ref (x.tile c)
  compareInto x a k ref sb sc (fcmpTest p f)

/-- An approximate function: 11 significant bits, then the destination (R360). -/
def aluApprox (f : FVal → FVal) (a b : TReg) (k : MReg) (x : AluIn) : AluRes :=
  aluF1 (fun v => roundSig 11 (f v)) .rne 1 a b k x

/-- The shape of a conversion: Tb's in another format (R362). -/
def convShape (t : Tile) (d : Fmt) : Tile := shapeOfV d t.rows t.cols t.vrows t.vcols

/-- A conversion of every element by f (R362). -/
def aluConv (a b : TReg) (k : MReg) (x : AluIn) (f : Nat → Nat) : AluRes :=
  let t := x.tile b
  let s := convShape t (x.tile a).fmt
  shaping x a k s (fun e => f (t.raw e)) t.tag (aluCycles s.validBytes)

/-- CVT (R362, R363). -/
def aluCvt (a b : TReg) (k : MReg) (r : BitVec 2) (x : AluIn) : AluRes := do
  let sf := (x.tile b).fmt
  let d := (x.tile a).fmt
  need .shape (!(sf == .code8) && !(d == .code8))
  need .illegal (r == 0 || !cvtExact sf d)
  aluConv a b k x (convElem x.code8 sf d (rmodeOf r))

/-- A CVTS source or target (R362): codes 0 to 12 and 14. -/
def cvtsFmt (f : Fmt) : Bool := decide (fmtCode f ≤ 12) || f == .x19

/-- The LFSR after n steps. -/
def lfsrSteps : Nat → BitVec 32 → BitVec 32
  | 0, s => s
  | n + 1, s => lfsrSteps n (lfsrStep s)

/-- CVTS (R197, R364): one LFSR step for each unmasked valid element, in ascending order. -/
def aluCvts (a b : TReg) (k : MReg) (x : AluIn) : AluRes := do
  let t := x.tile b
  let d := (x.tile a).fmt
  need .shape (cvtsFmt t.fmt && cvtsFmt d)
  let s := convShape t d
  let drawn := s.cells.filter (x.bit k)
  let f (e : Nat) : Nat :=
    stochElem x.code8 d (lfsrSteps ((drawn.filter fun e' => decide (e' ≤ e)).length) x.lfsr) (valOf x.code8 t.fmt (t.raw e))
  let o ← shaping x a k s f t.tag (aluCycles s.validBytes)
  .ok { o with lfsr := some (lfsrFix (lfsrSteps drawn.length x.lfsr)) }

/-- CVTQ (R365). -/
def aluCvtq (a b : TReg) (k : MReg) (r : BitVec 2) (x : AluIn) : AluRes := do
  let t := x.tile b
  need .shape ((x.tile a).fmt == .code8)
  need .illegal (r == 0 || !(t.fmt == .code8))
  aluConv a b k x (convElem x.code8 t.fmt .code8 (rmodeOf r))

/-- CVTD (R365). -/
def aluCvtd (a b : TReg) (k : MReg) (x : AluIn) : AluRes := do
  let d := (x.tile a).fmt
  need .shape ((x.tile b).fmt == .code8 && !(d == .code8))
  aluConv a b k x (convElem x.code8 .code8 d .rne)

/-- An MX element format (R204). -/
def isMx (f : Fmt) : Bool := f == .e4m3 || f == .e5m2 || f == .int8

/-- The values of a tile's unmasked valid elements in block n (R202). -/
def blockVals (x : AluIn) (k : MReg) (t : Tile) (n : Nat) : List FVal :=
  ((t.cells.filter fun e => decide (e / 32 = n)).filter (x.bit k)).map fun e => valOf none t.fmt (t.raw e)

/-- MXSC (R366); the scale of a block is element b of Tc, read as 1.0 where ragged or masked (R203). -/
def aluMxsc (a b c : TReg) (k : MReg) (r : BitVec 2) (x : AluIn) : AluRes := do
  let t := x.tile b
  let u := x.tile c
  let d := (x.tile a).fmt
  let quant := isArith t.fmt && isMx d
  need .shape (quant || (isMx t.fmt && isArith d && c != 0))
  need .illegal (c != 0 || r == 0)
  need .shape (c == 0 || (u.fmt == .e8m0 && decide ((t.count + 31) / 32 ≤ u.count)))
  let scale (e : Nat) : Nat :=
    if c = 0 then mxScale d (blockVals x k t (e / 32))
    else if u.validE (e / 32) && x.bit k (e / 32) then u.raw (e / 32) else 0x7F
  let s := convShape t d
  let f (e : Nat) : Nat :=
    if quant then mxQuant d (rmodeOf r) (scale e) (valOf none t.fmt (t.raw e))
    else mxDequant t.fmt d (rmodeOf r) (scale e) (t.raw e)
  shaping x a k s f (t.tag || (c != 0 && u.tag)) (aluCycles s.validBytes)

/-- MXQ (R367): the quantised tile in Ta and its scale in Tc. -/
def aluMxq (a b c : TReg) (k : MReg) (x : AluIn) : AluRes := do
  let t := x.tile b
  let d := (x.tile a).fmt
  need .shape (isArith t.fmt && isMx d && (a != c || a == 0))
  let sc := mxScale d (blockVals x k t 0)
  let s := convShape t d
  let o ← shaping x a k s (fun e => mxQuant d .rne sc (valOf none t.fmt (t.raw e))) t.tag (aluCycles s.validBytes)
  .ok { o with tiles := o.tiles ++ [(c, (shapeOf .e8m0 1 1).build (fun _ => sc) t.tag)] }

end Sys2Proof.Machine
end

