-- ==== Sys2Proof/Machine/FloatGroup.lean ====
section
/-! DEFINITION. The float, fused, FCMP, approximate and conversion groups (13 R356 to R367). -/

namespace Sys2Proof.Machine

/-- FADD (R356). -/
def execFadd (a : BitVec 4) (b : BitVec 4) (c : BitVec 4) (k : BitVec 2) (r : BitVec 2) (s : State) : Host.Outcome State Fault Refusal :=
  .next (issueAlu s a [b, c] [a] (aluF2 (addVal) a b c k r))

/-- FSUB (R356). -/
def execFsub (a : BitVec 4) (b : BitVec 4) (c : BitVec 4) (k : BitVec 2) (r : BitVec 2) (s : State) : Host.Outcome State Fault Refusal :=
  .next (issueAlu s a [b, c] [a] (aluF2 (fun md u v => addVal md u (negVal v)) a b c k r))

/-- FMUL (R356). -/
def execFmul (a : BitVec 4) (b : BitVec 4) (c : BitVec 4) (k : BitVec 2) (r : BitVec 2) (s : State) : Host.Outcome State Fault Refusal :=
  .next (issueAlu s a [b, c] [a] (aluF2 (fun _ u v => mulVal u v) a b c k r))

/-- FMIN (R356, R193). -/
def execFmin (a : BitVec 4) (b : BitVec 4) (c : BitVec 4) (k : BitVec 2) (s : State) : Host.Outcome State Fault Refusal :=
  .next (issueAlu s a [b, c] [a] (aluF2 (fun _ u v => minNum u v) a b c k 0))

/-- FMAX (R356, R193). -/
def execFmax (a : BitVec 4) (b : BitVec 4) (c : BitVec 4) (k : BitVec 2) (s : State) : Host.Outcome State Fault Refusal :=
  .next (issueAlu s a [b, c] [a] (aluF2 (fun _ u v => maxNum u v) a b c k 0))

/-- FABS (R357). -/
def execFabs (a : BitVec 4) (b : BitVec 4) (k : BitVec 2) (s : State) : Host.Outcome State Fault Refusal :=
  .next (issueAlu s a [b] [a] (aluSign (fun _ _ => false) a b b k))

/-- FNEG (R357). -/
def execFneg (a : BitVec 4) (b : BitVec 4) (k : BitVec 2) (s : State) : Host.Outcome State Fault Refusal :=
  .next (issueAlu s a [b] [a] (aluSign (fun u _ => !u) a b b k))

/-- FCPYS (R357). -/
def execFcpys (a : BitVec 4) (b : BitVec 4) (c : BitVec 4) (k : BitVec 2) (s : State) : Host.Outcome State Fault Refusal :=
  .next (issueAlu s a [b, c] [a] (aluSign (fun _ v => v) a b c k))

/-- FDIV (R357). -/
def execFdiv (a : BitVec 4) (b : BitVec 4) (c : BitVec 4) (k : BitVec 2) (r : BitVec 2) (s : State) : Host.Outcome State Fault Refusal :=
  .next (issueAlu s a [b, c] [a] (aluFdiv a b c k r))

/-- FSQRT (R357): four times the cycles (R354). -/
def execFsqrt (a : BitVec 4) (b : BitVec 4) (k : BitVec 2) (r : BitVec 2) (s : State) : Host.Outcome State Fault Refusal :=
  .next (issueAlu s a [b] [a] (aluF1 sqrtVal (rmodeOf r) 4 a b k))

/-- FRND (R357). -/
def execFrnd (a : BitVec 4) (b : BitVec 4) (k : BitVec 2) (r : BitVec 2) (s : State) : Host.Outcome State Fault Refusal :=
  .next (issueAlu s a [b] [a] (aluF1 (rndVal (rmodeOf r)) (rmodeOf r) 1 a b k))

/-- FSCL (R357). -/
def execFscl (a : BitVec 4) (b : BitVec 4) (c : BitVec 4) (k : BitVec 2) (r : BitVec 2) (s : State) : Host.Outcome State Fault Refusal :=
  .next (issueAlu s a [b, c] [a] (aluFscl a b c k r))

/-- FCLASS (R358). -/
def execFclass (a : BitVec 4) (b : BitVec 4) (k : BitVec 2) (s : State) : Host.Outcome State Fault Refusal :=
  .next (issueAlu s a [b] [a] (aluFclass a b k))

/-- FMA (R356, R357). -/
def execFma (a : BitVec 4) (b : BitVec 4) (c : BitVec 4) (k : BitVec 2) (r : BitVec 2) (s : State) : Host.Outcome State Fault Refusal :=
  .next (issueAlu s a [b, c, a] [a] (aluFused false false a b c k r))

/-- FMS (R356, R357). -/
def execFms (a : BitVec 4) (b : BitVec 4) (c : BitVec 4) (k : BitVec 2) (r : BitVec 2) (s : State) : Host.Outcome State Fault Refusal :=
  .next (issueAlu s a [b, c, a] [a] (aluFused false true a b c k r))

/-- FNMA (R356, R357). -/
def execFnma (a : BitVec 4) (b : BitVec 4) (c : BitVec 4) (k : BitVec 2) (r : BitVec 2) (s : State) : Host.Outcome State Fault Refusal :=
  .next (issueAlu s a [b, c, a] [a] (aluFused true false a b c k r))

/-- FCMP (R359). M0 is no destination (R120). -/
def execFcmp (a : BitVec 2) (b : BitVec 4) (c : BitVec 4) (k : BitVec 2) (f : BitVec 2) (s : State) : Host.Outcome State Fault Refusal :=
  if a = 0 then .next (trapHere s .illegal 0) else .next (issueAlu s (a.setWidth 4) [b, c] [] (aluFcmp a b c k f))

/-- FRCP (R360). -/
def execFrcp (a : BitVec 4) (b : BitVec 4) (k : BitVec 2) (s : State) : Host.Outcome State Fault Refusal :=
  .next (issueAlu s a [b] [a] (aluApprox rcpVal a b k))

/-- FRSQ (R360). -/
def execFrsq (a : BitVec 4) (b : BitVec 4) (k : BitVec 2) (s : State) : Host.Outcome State Fault Refusal :=
  .next (issueAlu s a [b] [a] (aluApprox rsqVal a b k))

/-- FEXP2 (R360). -/
def execFexp2 (a : BitVec 4) (b : BitVec 4) (k : BitVec 2) (s : State) : Host.Outcome State Fault Refusal :=
  .next (issueAlu s a [b] [a] (aluApprox exp2Val a b k))

/-- FLOG2 (R360). -/
def execFlog2 (a : BitVec 4) (b : BitVec 4) (k : BitVec 2) (s : State) : Host.Outcome State Fault Refusal :=
  .next (issueAlu s a [b] [a] (aluApprox log2Val a b k))

/-- CVT (R362, R363). -/
def execCvt (a : BitVec 4) (b : BitVec 4) (k : BitVec 2) (r : BitVec 2) (s : State) : Host.Outcome State Fault Refusal :=
  .next (issueAlu s a [b] [a] (aluCvt a b k r))

/-- CVTS (R364). -/
def execCvts (a : BitVec 4) (b : BitVec 4) (k : BitVec 2) (s : State) : Host.Outcome State Fault Refusal :=
  .next (issueAlu s a [b] [a] (aluCvts a b k))

/-- CVTQ (R365). -/
def execCvtq (a : BitVec 4) (b : BitVec 4) (k : BitVec 2) (r : BitVec 2) (s : State) : Host.Outcome State Fault Refusal :=
  .next (issueAlu s a [b] [a] (aluCvtq a b k r))

/-- CVTD (R365). -/
def execCvtd (a : BitVec 4) (b : BitVec 4) (k : BitVec 2) (s : State) : Host.Outcome State Fault Refusal :=
  .next (issueAlu s a [b] [a] (aluCvtd a b k))

/-- MXSC (R366). -/
def execMxsc (a : BitVec 4) (b : BitVec 4) (c : BitVec 4) (k : BitVec 2) (r : BitVec 2) (s : State) : Host.Outcome State Fault Refusal :=
  .next (issueAlu s a [b, c] [a] (aluMxsc a b c k r))

/-- MXQ (R367): Tc takes the scale. -/
def execMxq (a : BitVec 4) (b : BitVec 4) (c : BitVec 4) (k : BitVec 2) (s : State) : Host.Outcome State Fault Refusal :=
  .next (issueAlu s a [b] [a, c] (aluMxq a b c k))

end Sys2Proof.Machine
end

