-- ==== Sys2Proof/Machine/Gateway.lean ====
section
/-! DEFINITION. Built-in memory operations at the gateways (02 R34, R41, R51, R53, 05 R136). -/

namespace Sys2Proof.Machine

/-- Is a request the first of its line at its gateway (R34)? -/
def firstOfLine (s : State) (n : Nat) (m : Msg) : Bool :=
  !((s.lam.requests.take n).any fun q => q.msg.job == m.job && q.msg.dstCore == m.dstCore && pathLine q.msg == pathLine m)

/-- A request is off its gateway's list. -/
def dropRequest (s : State) (n : Nat) : State := { s with lam := { s.lam with requests := s.lam.requests.eraseIdx n } }
/-- The reply to a request (R41): its tag and sequence number, a status, data; the source is the gateway's place (log 25). -/
def builtinAnswer (s : State) (n : Nat) (m : Msg) (status : BitVec 8) (tag : Bool) (data : List Byte) : State :=
  let r : Msg := Msg.formed { m with
    dstPart := m.srcPart, dstCore := m.srcCore, srcPart := s.part, srcCore := m.dstCore, vnet := 1, kind := 11, aux := status, etag := tag,
    fixed := true, args := [], payload := data }
  gatewayEmit (dropRequest s n) m.dstCore r

/-- The range of a request: a status, keys, or a page that has to be copied first (R41, R139 to R142). -/
inductive RemoteAt where
  | status (c : Cause)
  | keys (f : Nat → Nat) (s : State)
  | wait (asid : BitVec 16) (vpn : BitVec 32)

/-- n bytes of the target job at a request's address (R41). -/
def remoteAt (s : State) (m : Msg) (n align : Nat) (write : Bool) : RemoteAt :=
  let a := m.arg.toNat
  let asid := ((s.job m.job).map (·.asid)).getD 0
  if 2 ^ 44 < a + n then .status .bounds
  else if a % align ≠ 0 then .status .align
  else
    match reach s asid a n write with
    | .keys f t => .keys f t
    | .fault c => .status c
    | .wait v => .wait asid v

/-- The gateway waits for a page's copy, in the miss queue of its chiplet's service cluster (R57, R284). -/
def gatewayMiss (s : State) (m : Msg) (asid : BitVec 16) (v : BitVec 32) : State :=
  noteMiss s (chipletOf (clusterOf m.dstCore) ++ (0 : BitVec 8)) { asid := asid, vpn := v, write := true, fetch := false, who := .edge, served := false }

/-- One turn of a gateway (R34, R41): the request named, if it is of a kind and first of its line. go begins it: it answers, waits, or puts the
memory events of its granules (R212); once they are performed, fin answers with the data that came back. A job that has gone returns a request that has
not begun (R53). -/
def remoteTurn (s : State) (n : Nat) (kind : Msg → Bool) (go : State → Request → State) (fin : State → Msg → List (Nat × Byte × Bool) → State) : State :=
  match s.lam.requests[n]? with
  | none => s
  | some q =>
    if !kind q.msg || !firstOfLine s n q.msg then s
    else if q.begun then
      (if q.evs.any (outstanding s) then s
      else
        let r := takeRets s q.evs
        fin r.2 q.msg r.1)
    else if !hasRegion s q.msg.job then lamReturn (dropRequest s n) q.msg.dstCore { q.msg with dstCore := 0 }
    else go s q

/-- A request's events are out. -/
def beginRequest (s : State) (q : Request) (evs : List Nat) : State :=
  { s with lam := { s.lam with requests := s.lam.requests.map fun x => if x.id = q.id then { x with begun := true, evs := evs } else x } }

/-- Bytes that a request asks for or brings: 16 to 256 (R41); none for another length. -/
def remoteLen (m : Msg) : Option Nat := if m.aux.toNat < 16 then some (16 * (m.aux.toNat + 1)) else none

/-- n bytes in the order of their places; a place that nothing came for is zero. -/
def bytesIn (l : List (Nat × Byte × Bool)) (n : Nat) : List Byte := (List.range n).map fun i => (l.find? fun p => p.1 == i).elim 0 (·.2.1)

/-- REMOTE_LOAD (R41, R42): the data, with the error tag where they are bad (R53). Selectors other than 1, 2 and 3 are answered ILLEGAL. -/
def execRemoteLoad (n : Nat) (s : State) : Host.Outcome State Fault Refusal :=
  .next (remoteTurn s n (fun m => m.sel != 2 && m.sel != 3)
    (fun s q =>
      let m := q.msg
      match remoteLen m with
      | none => builtinAnswer s n m 1 false []
      | some len =>
        if m.sel ≠ 1 then builtinAnswer s n m 1 false []
        else
          match remoteAt s m len 16 false with
          | .status c => builtinAnswer s n m (causeCode c) false []
          | .wait asid v => gatewayMiss s m asid v
          | .keys f t =>
            let r := plainEvents t (.gate q.id) m.job 0 3 2 m.arg ((List.range len).map fun i => (f (m.arg.toNat + i), i)) fun _ => .read
            beginRequest r.2 q r.1)
    fun s m l => builtinAnswer s n m 0 (l.any (·.2.2)) (bytesIn l ((remoteLen m).getD 0)))

/-- REMOTE_STORE (R41): tagged data are not written, which the reply's tag tells (R270, log 54). A store of this part under a mask writes the bytes of
its row's map (log 25). -/
def execRemoteStore (n : Nat) (s : State) : Host.Outcome State Fault Refusal :=
  .next (remoteTurn s n (fun m => m.sel == 2)
    (fun s q =>
      let m := q.msg
      match remoteLen m with
      | none => builtinAnswer s n m 1 false []
      | some len =>
        if m.payload.length ≠ len then builtinAnswer s n m 1 false []
        else
          match remoteAt s m len 16 true with
          | .status c => builtinAnswer s n m (causeCode c) false []
          | .wait asid v => gatewayMiss s m asid v
          | .keys f t =>
            let mine : Option RemReq := if m.srcPart = s.part then requestOf s m.srcCore m else none
            let sent (i : Nat) : Bool := match mine with
              | some r => r.map.any fun p => p.1 == i
              | none => true
            let l := ((List.range len).filter sent).map fun i => (f (m.arg.toNat + i), i)
            if m.etag then builtinAnswer t n m 0 true []
            else
              let r := plainEvents t (.gate q.id) m.job 0 3 2 m.arg l fun g => .write (g.map fun p => (p.1, m.payload.getD p.2 0))
              beginRequest r.2 q r.1)
    fun s m _ => builtinAnswer s n m 0 false [])

/-- REMOTE_ATOMIC (R41, R381, R382): one element of the payload format, an operation of the atomic unit of its controller; its old value returns. A
tagged operand or a bad element discards the operation and tags the value (R172, R270). -/
def execRemoteAtomic (n : Nat) (s : State) : Host.Outcome State Fault Refusal :=
  .next (remoteTurn s n (fun m => m.sel == 3)
    (fun s q =>
      let m := q.msg
      let fn : BitVec 5 := m.aux.setWidth 5
      let fmt := fmtOf m.pfmt.toNat
      let size := match fmt with
        | some .fp32 => if fn = 0x0B then 4 else 0
        | some .int32 => if fn = 0x0B then 0 else 4
        | some .uint32 => if fn = 0x0B then 0 else 4
        | some .int64 => if fn = 0x0B then 0 else 8
        | some .uint64 => if fn = 0x0B then 0 else 8
        | _ => 0
      if 0x0B < m.aux.toNat ∨ size = 0 ∨ m.args.length ≠ (if fn = 9 then 2 else 1) then builtinAnswer s n m 1 false []
      else
        match remoteAt s m size size true with
        | .status c => builtinAnswer s n m (causeCode c) false []
        | .wait asid v => gatewayMiss s m asid v
        | .keys f t =>
          let k := f m.arg.toNat
          let w := 2 ^ (8 * size)
          let op : AtomOp := { fn := fn, size := 8 * size, signed := fmt == some .int32 || fmt == some .int64, v := (m.args.getLastD 0).toNat % w,
                               a := (m.args.headD 0).toNat % w, wants := true, ord := false, tag := m.etag }
          let r := plainEvents t (.gate q.id) m.job 0 3 2 m.arg ((List.range size).map fun i => (k + i, i)) fun _ => .atom (k % 16) op
          beginRequest r.2 q r.1)
    fun s m l => builtinAnswer s n m 0 (l.any (·.2.2)) (bytesIn l 16))

end Sys2Proof.Machine
end

