-- ==== Sys2Proof/Machine/AluInt.lean ====
section
/-! DEFINITION. Integer, logic, shift, immediate, compare and mask instructions as functions of the slot's tiles
(12 R342 to R347). Element values are naturals below 2^n, n the width of the reference format. -/

namespace Sys2Proof.Machine

/-- Saturation of a signed value to width n (R342). -/
def satS (n : Nat) (x : Int) : Nat :=
  wrapTo n (if x < -(2 ^ (n - 1) : Int) then -(2 ^ (n - 1) : Int) else if (2 ^ (n - 1) : Int) - 1 < x then (2 ^ (n - 1) : Int) - 1 else x)

/-- ADD (R342). -/
def opAdd (n b c : Nat) : Nat := (b + c) % 2 ^ n
/-- SUB (R342). -/
def opSub (n b c : Nat) : Nat := wrapTo n ((b : Int) - c)
/-- ADDS (R342). -/
def opAdds (n b c : Nat) : Nat := satS n (sgn n b + sgn n c)
/-- ADDSU (R342). -/
def opAddsu (n b c : Nat) : Nat := Nat.min (b + c) (2 ^ n - 1)
/-- SUBS (R342). -/
def opSubs (n b c : Nat) : Nat := satS n (sgn n b - sgn n c)
/-- SUBSU (R342). -/
def opSubsu (_n b c : Nat) : Nat := b - c
/-- MUL (R342). -/
def opMul (n b c : Nat) : Nat := (b * c) % 2 ^ n
/-- MULH (R342). -/
def opMulh (n b c : Nat) : Nat := wrapTo n ((sgn n b * sgn n c) / (2 ^ n : Int))
/-- MULHU (R342). -/
def opMulhu (n b c : Nat) : Nat := (b * c) / 2 ^ n
/-- MIN (R342). -/
def opMin (n b c : Nat) : Nat := if sgn n c < sgn n b then c else b
/-- MAX (R342). -/
def opMax (n b c : Nat) : Nat := if sgn n b < sgn n c then c else b
/-- MINU (R342). -/
def opMinu (_n b c : Nat) : Nat := Nat.min b c
/-- MAXU (R342). -/
def opMaxu (_n b c : Nat) : Nat := Nat.max b c
/-- ABS (R342). -/
def opAbs (n b : Nat) : Nat := (sgn n b).natAbs % 2 ^ n
/-- NEG (R342). -/
def opNeg (n b : Nat) : Nat := wrapTo n (-(b : Int))
/-- AVGU (R342). -/
def opAvgu (_n b c : Nat) : Nat := (b + c + 1) / 2
/-- AND (R343). -/
def opAnd (_n b c : Nat) : Nat := b &&& c
/-- OR (R343). -/
def opOr (_n b c : Nat) : Nat := b ||| c
/-- XOR (R343). -/
def opXor (_n b c : Nat) : Nat := b ^^^ c
/-- ANDN (R343). -/
def opAndn (n b c : Nat) : Nat := b &&& (2 ^ n - 1 - c % 2 ^ n)
/-- NOT (R343). -/
def opNot (n b : Nat) : Nat := 2 ^ n - 1 - b % 2 ^ n
/-- SHL (R343). -/
def opShl (n b s : Nat) : Nat := if n ≤ s then 0 else (b * 2 ^ s) % 2 ^ n
/-- SHR (R343). -/
def opShr (n b s : Nat) : Nat := if n ≤ s then 0 else b / 2 ^ s
/-- SAR (R343). -/
def opSar (n b s : Nat) : Nat := wrapTo n (sgn n b / (2 ^ Nat.min s n : Int))
/-- ROL (R343). -/
def opRol (n b s : Nat) : Nat := let r := s % n; (b * 2 ^ r) % 2 ^ n + b / 2 ^ (n - r)
/-- The number of 1 bits among the low n bits. -/
def popCount : Nat → Nat → Nat
  | 0, _ => 0
  | n + 1, x => x % 2 + popCount n (x / 2)
/-- POPC (R343). -/
def opPopc (n b : Nat) : Nat := popCount n b
/-- CLZ (R343). -/
def opClz (n b : Nat) : Nat := if b = 0 then n else n - 1 - Nat.log2 b
/-- Trailing zeros among the low n bits. -/
def trailing : Nat → Nat → Nat
  | 0, _ => 0
  | n + 1, x => if x % 2 = 1 then 0 else 1 + trailing n (x / 2)
/-- CTZ (R343). -/
def opCtz (n b : Nat) : Nat := trailing n b

/-- A binary instruction of the integer and logic groups (R342, R343). -/
def aluInt2 (op : Nat → Nat → Nat → Nat) (a b c : TReg) (k : MReg) (x : AluIn) : AluRes := do
  let ta := x.tile a
  need .shape (isInt ta.fmt)
  let sb ← intSrc ta (x.tile b)
  let sc ← intSrc ta (x.tile c)
  elementwise x a k [sb, sc] false (fun _ v _ => op (fmtBits ta.fmt) (v.getD 0 0) (v.getD 1 0)) 1

/-- A unary instruction of those groups. -/
def aluInt1 (op : Nat → Nat → Nat) (a b : TReg) (k : MReg) (x : AluIn) : AluRes := do
  let ta := x.tile a
  need .shape (isInt ta.fmt)
  let sb ← intSrc ta (x.tile b)
  elementwise x a k [sb] false (fun _ v _ => op (fmtBits ta.fmt) (v.getD 0 0)) 1

/-- A shift by a tile: the amount is the whole extended value (R343). -/
def aluShift (op : Nat → Nat → Nat → Nat) (a b c : TReg) (k : MReg) (x : AluIn) : AluRes := do
  let ta := x.tile a
  need .shape (isInt ta.fmt)
  let sb ← intSrc ta (x.tile b)
  let sc ← shiftSrc ta (x.tile c)
  elementwise x a k [sb, sc] false (fun _ v _ => op (fmtBits ta.fmt) (v.getD 0 0) (v.getD 1 0)) 1

/-- MAD (R344). -/
def aluMad (a b c : TReg) (k : MReg) (x : AluIn) : AluRes := do
  let ta := x.tile a
  need .shape (isInt ta.fmt)
  let sb ← intSrc ta (x.tile b)
  let sc ← intSrc ta (x.tile c)
  elementwise x a k [sb, sc] true
    (fun _ v old => ((v.getD 0 0) * (v.getD 1 0) + old) % 2 ^ fmtBits ta.fmt) 1

/-- An immediate form with a tile source and an immediate extended to 64 bits (R345). -/
def aluImm (op : Nat → Nat → Nat → Nat) (a b : TReg) (k : MReg) (imm : Nat) (x : AluIn) : AluRes := do
  let ta := x.tile a
  need .shape (isInt ta.fmt)
  let sb ← intSrc ta (x.tile b)
  elementwise x a k [sb, immSrc (imm % 2 ^ fmtBits ta.fmt)] false
    (fun _ v _ => op (fmtBits ta.fmt) (v.getD 0 0) (v.getD 1 0)) 1

/-- The immediate sign-extended to 64 bits (R345). -/
def immS (i : BitVec 16) : Nat := wrapTo 64 (signedOf 16 i.toNat)

/-- MOVI (R345). -/
def aluMovi (a : TReg) (k : MReg) (i : BitVec 16) (x : AluIn) : AluRes := do
  let ta := x.tile a
  need .shape (isInt ta.fmt)
  elementwise x a k [immSrc (immS i % 2 ^ fmtBits ta.fmt)] false (fun _ v _ => v.getD 0 0) 1

/-- MOVK (R345): bits 16k+15:16k of every valid element. -/
def aluMovk (a : TReg) (h : BitVec 2) (i : BitVec 16) (x : AluIn) : AluRes := do
  let ta := x.tile a
  need .shape (isInt ta.fmt && decide (16 * (h.toNat + 1) ≤ fmtBits ta.fmt))
  let p := 16 * h.toNat
  elementwise x a 0 [] true (fun _ _ old => old - ((old >>> p) % 2 ^ 16) * 2 ^ p + i.toNat * 2 ^ p) 1

/-- SHI (R345): OP 0 to 3 are SHL, SHR, SAR and ROL. -/
def aluShi (a b : TReg) (k : MReg) (o : BitVec 2) (s : BitVec 6) (x : AluIn) : AluRes := do
  let ta := x.tile a
  need .shape (isInt ta.fmt)
  let sb ← intSrc ta (x.tile b)
  let op := if o = 0 then opShl else if o = 1 then opShr else if o = 2 then opSar else opRol
  elementwise x a k [sb] false (fun _ v _ => op (fmtBits ta.fmt) (v.getD 0 0) s.toNat) 1

/-- CMP (R346). -/
def aluCmp (a : MReg) (b c : TReg) (k : MReg) (f : BitVec 3) (x : AluIn) : AluRes := do
  let ref := cmpRef (x.tile b) (x.tile c)
  need .shape (isInt ref.fmt)
  let sb ← intSrc ref (x.tile b)
  let sc ← intSrc ref (x.tile c)
  compareInto x a k ref sb sc (cmpTest (fmtBits ref.fmt) f)

/-- MAND, MOR, MXOR (R347). -/
def aluMask2 (op : BitVec 64 → BitVec 64 → BitVec 64) (a b c : MReg) (x : AluIn) : AluRes :=
  .ok (AluOut.maskOnly a (op (x.mask b) (x.mask c)) 0)
/-- MNOT (R347). -/
def aluMnot (a b : MReg) (x : AluIn) : AluRes := .ok (AluOut.maskOnly a (~~~(x.mask b)) 0)
/-- MPOP (R347). -/
def aluMpop (a : TReg) (b : MReg) (x : AluIn) : AluRes :=
  shaping x a 0 (shapeOf .int64 1 1) (fun _ => popCount 64 (x.mask b).toNat) false 0
/-- MFST (R347). -/
def aluMfst (a : TReg) (b : MReg) (x : AluIn) : AluRes :=
  shaping x a 0 (shapeOf .int64 1 1) (fun _ => trailing 64 (x.mask b).toNat) false 0
/-- MST (R347). -/
def aluMst (a : TReg) (b : MReg) (x : AluIn) : AluRes :=
  shaping x a 0 (shapeOf .uint64 1 1) (fun _ => (x.mask b).toNat) false 0

/-- MLD (R347). -/
def aluMld (a : MReg) (b : TReg) (x : AluIn) : AluRes :=
  let t := x.tile b
  if t.fmt = .mask1 ∧ t.count ≤ 64 then
    if t.tag then .ok (AluOut.ueOnly 0)
    else .ok (AluOut.maskOnly a (BitVec.ofNat 64 (packBits 1 ((List.range 64).map fun e =>
      if decide (e < t.count) && t.validE e then t.raw e else 0))) 0)
  else
    match t.control with
    | none => .error .shape
    | some v => if t.tag then .ok (AluOut.ueOnly 0) else .ok (AluOut.maskOnly a (BitVec.ofInt 64 v) 0)

/-- MSET (R347). -/
def aluMset (a : MReg) (b : TReg) (x : AluIn) : AluRes :=
  match (x.tile b).control with
  | none => .error .shape
  | some q =>
    if (x.tile b).tag then .ok (AluOut.ueOnly 0)
    else .ok (AluOut.maskOnly a (if q ≤ 0 then 0 else if 64 ≤ q then BitVec.allOnes 64 else BitVec.ofNat 64 (2 ^ q.toNat - 1)) 0)

/-- A shape-group instruction's new shape over Ta's storage (R117, R331); Ta = T0 has no effect (R118). -/
def reshape (x : AluIn) (a : TReg) (s : Option Tile) (tag : Bool) : AluRes :=
  match s with
  | none => .error .shape
  | some s =>
    if s.legal then
      let ta := x.tile a
      .ok (AluOut.one a { Tile.clearRagged { s with bytes := ta.bytes } with tag := ta.tag || tag } 0)
    else .error .shape

/-- SHAPEI (R331). -/
def aluShapei (a : TReg) (f : BitVec 5) (r : BitVec 3) (c : BitVec 6) (x : AluIn) : AluRes :=
  if a = 0 then .ok AluOut.none_
  else reshape x a ((fmtOf f.toNat).map fun g => shapeOf g (r.toNat + 1) (c.toNat + 1)) false
/-- RAGGEDI (R331). -/
def aluRaggedi (a : TReg) (r : BitVec 3) (c : BitVec 6) (x : AluIn) : AluRes :=
  if a = 0 then .ok AluOut.none_
  else reshape x a (some { x.tile a with vrows := r.toNat + 1, vcols := c.toNat + 1 }) false
/-- SHAPE (R331). -/
def aluShape (a b : TReg) (x : AluIn) : AluRes :=
  if a = 0 then .ok AluOut.none_
  else
    match (x.tile b).control with
    | none => .error .shape
    | some v => reshape x a (shapeFromBits (wrapTo 64 v)) (x.tile b).tag
/-- RAGGED (R331). -/
def aluRagged (a b : TReg) (x : AluIn) : AluRes :=
  if a = 0 then .ok AluOut.none_
  else
    match (x.tile b).control with
    | none => .error .shape
    | some v =>
      let w := wrapTo 64 v
      reshape x a (some { x.tile a with vrows := bitsOf w 8 6 + 1, vcols := bitsOf w 5 0 + 1 }) (x.tile b).tag
/-- GSHAPE (R332). -/
def aluGshape (a b : TReg) (x : AluIn) : AluRes :=
  shaping x a 0 (shapeOf .int64 1 1) (fun _ => (x.tile b).shapeWord) (x.tile b).tag 0

end Sys2Proof.Machine
end

