-- ==== Sys2Proof/Machine/Integer.lean ====
section
/-! DEFINITION. The integer, logic, shift, MAD, CMP and immediate groups (12 R342 to R346). -/

namespace Sys2Proof.Machine

/-- ADD (R342). -/
def execAdd (a : BitVec 4) (b : BitVec 4) (c : BitVec 4) (k : BitVec 2) (s : State) : Host.Outcome State Fault Refusal :=
  .next (issueAlu s a [b, c] [a] (aluInt2 opAdd a b c k))

/-- SUB (R342). -/
def execSub (a : BitVec 4) (b : BitVec 4) (c : BitVec 4) (k : BitVec 2) (s : State) : Host.Outcome State Fault Refusal :=
  .next (issueAlu s a [b, c] [a] (aluInt2 opSub a b c k))

/-- ADDS (R342). -/
def execAdds (a : BitVec 4) (b : BitVec 4) (c : BitVec 4) (k : BitVec 2) (s : State) : Host.Outcome State Fault Refusal :=
  .next (issueAlu s a [b, c] [a] (aluInt2 opAdds a b c k))

/-- ADDSU (R342). -/
def execAddsu (a : BitVec 4) (b : BitVec 4) (c : BitVec 4) (k : BitVec 2) (s : State) : Host.Outcome State Fault Refusal :=
  .next (issueAlu s a [b, c] [a] (aluInt2 opAddsu a b c k))

/-- SUBS (R342). -/
def execSubs (a : BitVec 4) (b : BitVec 4) (c : BitVec 4) (k : BitVec 2) (s : State) : Host.Outcome State Fault Refusal :=
  .next (issueAlu s a [b, c] [a] (aluInt2 opSubs a b c k))

/-- SUBSU (R342). -/
def execSubsu (a : BitVec 4) (b : BitVec 4) (c : BitVec 4) (k : BitVec 2) (s : State) : Host.Outcome State Fault Refusal :=
  .next (issueAlu s a [b, c] [a] (aluInt2 opSubsu a b c k))

/-- MUL (R342). -/
def execMul (a : BitVec 4) (b : BitVec 4) (c : BitVec 4) (k : BitVec 2) (s : State) : Host.Outcome State Fault Refusal :=
  .next (issueAlu s a [b, c] [a] (aluInt2 opMul a b c k))

/-- MULH (R342). -/
def execMulh (a : BitVec 4) (b : BitVec 4) (c : BitVec 4) (k : BitVec 2) (s : State) : Host.Outcome State Fault Refusal :=
  .next (issueAlu s a [b, c] [a] (aluInt2 opMulh a b c k))

/-- MULHU (R342). -/
def execMulhu (a : BitVec 4) (b : BitVec 4) (c : BitVec 4) (k : BitVec 2) (s : State) : Host.Outcome State Fault Refusal :=
  .next (issueAlu s a [b, c] [a] (aluInt2 opMulhu a b c k))

/-- MIN (R342). -/
def execMin (a : BitVec 4) (b : BitVec 4) (c : BitVec 4) (k : BitVec 2) (s : State) : Host.Outcome State Fault Refusal :=
  .next (issueAlu s a [b, c] [a] (aluInt2 opMin a b c k))

/-- MAX (R342). -/
def execMax (a : BitVec 4) (b : BitVec 4) (c : BitVec 4) (k : BitVec 2) (s : State) : Host.Outcome State Fault Refusal :=
  .next (issueAlu s a [b, c] [a] (aluInt2 opMax a b c k))

/-- MINU (R342). -/
def execMinu (a : BitVec 4) (b : BitVec 4) (c : BitVec 4) (k : BitVec 2) (s : State) : Host.Outcome State Fault Refusal :=
  .next (issueAlu s a [b, c] [a] (aluInt2 opMinu a b c k))

/-- MAXU (R342). -/
def execMaxu (a : BitVec 4) (b : BitVec 4) (c : BitVec 4) (k : BitVec 2) (s : State) : Host.Outcome State Fault Refusal :=
  .next (issueAlu s a [b, c] [a] (aluInt2 opMaxu a b c k))

/-- ABS (R342). -/
def execAbs (a : BitVec 4) (b : BitVec 4) (k : BitVec 2) (s : State) : Host.Outcome State Fault Refusal :=
  .next (issueAlu s a [b] [a] (aluInt1 opAbs a b k))

/-- NEG (R342). -/
def execNeg (a : BitVec 4) (b : BitVec 4) (k : BitVec 2) (s : State) : Host.Outcome State Fault Refusal :=
  .next (issueAlu s a [b] [a] (aluInt1 opNeg a b k))

/-- AVGU (R342). -/
def execAvgu (a : BitVec 4) (b : BitVec 4) (c : BitVec 4) (k : BitVec 2) (s : State) : Host.Outcome State Fault Refusal :=
  .next (issueAlu s a [b, c] [a] (aluInt2 opAvgu a b c k))

/-- AND (R343). -/
def execAnd (a : BitVec 4) (b : BitVec 4) (c : BitVec 4) (k : BitVec 2) (s : State) : Host.Outcome State Fault Refusal :=
  .next (issueAlu s a [b, c] [a] (aluInt2 opAnd a b c k))

/-- OR (R343). -/
def execOr (a : BitVec 4) (b : BitVec 4) (c : BitVec 4) (k : BitVec 2) (s : State) : Host.Outcome State Fault Refusal :=
  .next (issueAlu s a [b, c] [a] (aluInt2 opOr a b c k))

/-- XOR (R343). -/
def execXor (a : BitVec 4) (b : BitVec 4) (c : BitVec 4) (k : BitVec 2) (s : State) : Host.Outcome State Fault Refusal :=
  .next (issueAlu s a [b, c] [a] (aluInt2 opXor a b c k))

/-- ANDN (R343). -/
def execAndn (a : BitVec 4) (b : BitVec 4) (c : BitVec 4) (k : BitVec 2) (s : State) : Host.Outcome State Fault Refusal :=
  .next (issueAlu s a [b, c] [a] (aluInt2 opAndn a b c k))

/-- NOT (R343). -/
def execNot (a : BitVec 4) (b : BitVec 4) (k : BitVec 2) (s : State) : Host.Outcome State Fault Refusal :=
  .next (issueAlu s a [b] [a] (aluInt1 opNot a b k))

/-- SHL (R343). -/
def execShl (a : BitVec 4) (b : BitVec 4) (c : BitVec 4) (k : BitVec 2) (s : State) : Host.Outcome State Fault Refusal :=
  .next (issueAlu s a [b, c] [a] (aluShift opShl a b c k))

/-- SHR (R343). -/
def execShr (a : BitVec 4) (b : BitVec 4) (c : BitVec 4) (k : BitVec 2) (s : State) : Host.Outcome State Fault Refusal :=
  .next (issueAlu s a [b, c] [a] (aluShift opShr a b c k))

/-- SAR (R343). -/
def execSar (a : BitVec 4) (b : BitVec 4) (c : BitVec 4) (k : BitVec 2) (s : State) : Host.Outcome State Fault Refusal :=
  .next (issueAlu s a [b, c] [a] (aluShift opSar a b c k))

/-- ROL (R343). -/
def execRol (a : BitVec 4) (b : BitVec 4) (c : BitVec 4) (k : BitVec 2) (s : State) : Host.Outcome State Fault Refusal :=
  .next (issueAlu s a [b, c] [a] (aluShift opRol a b c k))

/-- POPC (R343). -/
def execPopc (a : BitVec 4) (b : BitVec 4) (k : BitVec 2) (s : State) : Host.Outcome State Fault Refusal :=
  .next (issueAlu s a [b] [a] (aluInt1 opPopc a b k))

/-- CLZ (R343). -/
def execClz (a : BitVec 4) (b : BitVec 4) (k : BitVec 2) (s : State) : Host.Outcome State Fault Refusal :=
  .next (issueAlu s a [b] [a] (aluInt1 opClz a b k))

/-- CTZ (R343). -/
def execCtz (a : BitVec 4) (b : BitVec 4) (k : BitVec 2) (s : State) : Host.Outcome State Fault Refusal :=
  .next (issueAlu s a [b] [a] (aluInt1 opCtz a b k))

/-- MAD (R344). -/
def execMad (a : BitVec 4) (b : BitVec 4) (c : BitVec 4) (k : BitVec 2) (s : State) : Host.Outcome State Fault Refusal :=
  .next (issueAlu s a [b, c, a] [a] (aluMad a b c k))

/-- CMP (R346). M0 is no destination (R120). -/
def execCmp (a : BitVec 2) (b : BitVec 4) (c : BitVec 4) (k : BitVec 2) (f : BitVec 3) (s : State) : Host.Outcome State Fault Refusal :=
  if a = 0 then .next (trapHere s .illegal 0) else .next (issueAlu s (a.setWidth 4) [b, c] [] (aluCmp a b c k f))

/-- MOVI (R345). -/
def execMovi (a : BitVec 4) (k : BitVec 2) (i : BitVec 16) (s : State) : Host.Outcome State Fault Refusal :=
  .next (issueAlu s a [] [a] (aluMovi a k i))

/-- MOVK (R345). -/
def execMovk (a : BitVec 4) (h : BitVec 2) (i : BitVec 16) (s : State) : Host.Outcome State Fault Refusal :=
  .next (issueAlu s a [a] [a] (aluMovk a h i))

/-- ADDI (R345). -/
def execAddi (a : BitVec 4) (b : BitVec 4) (k : BitVec 2) (i : BitVec 16) (s : State) : Host.Outcome State Fault Refusal :=
  .next (issueAlu s a [b] [a] (aluImm opAdd a b k (immS i)))

/-- MULI (R345). -/
def execMuli (a : BitVec 4) (b : BitVec 4) (k : BitVec 2) (i : BitVec 16) (s : State) : Host.Outcome State Fault Refusal :=
  .next (issueAlu s a [b] [a] (aluImm opMul a b k (immS i)))

/-- ANDI (R345). -/
def execAndi (a : BitVec 4) (b : BitVec 4) (k : BitVec 2) (i : BitVec 16) (s : State) : Host.Outcome State Fault Refusal :=
  .next (issueAlu s a [b] [a] (aluImm opAnd a b k (i.toNat)))

/-- ORI (R345). -/
def execOri (a : BitVec 4) (b : BitVec 4) (k : BitVec 2) (i : BitVec 16) (s : State) : Host.Outcome State Fault Refusal :=
  .next (issueAlu s a [b] [a] (aluImm opOr a b k (i.toNat)))

/-- XORI (R345). -/
def execXori (a : BitVec 4) (b : BitVec 4) (k : BitVec 2) (i : BitVec 16) (s : State) : Host.Outcome State Fault Refusal :=
  .next (issueAlu s a [b] [a] (aluImm opXor a b k (i.toNat)))

/-- SHI (R345). -/
def execShi (a : BitVec 4) (b : BitVec 4) (k : BitVec 2) (o : BitVec 2) (s' : BitVec 6) (s : State) : Host.Outcome State Fault Refusal :=
  .next (issueAlu s a [b] [a] (aluShi a b k o s'))

end Sys2Proof.Machine
end

