-- ==== Sys2Proof/Machine/AluMove.lean ====
section
/-! DEFINITION. The movement group as functions of the slot's tiles (12 R333 to R341). -/

namespace Sys2Proof.Machine

/-- MASK1 operands are refused by most of the chapter (R329). -/
def notMask1 (t : Tile) : Bool := !(t.fmt == .mask1)

/-- The control value, or SHAPE (R329). -/
def ctl (t : Tile) : Except Cause Int :=
  match t.control with
  | some v => .ok v
  | none => .error .shape

/-- Element e of a tile where valid, else zero (R328). -/
def Tile.elemOr0 (t : Tile) (e : Nat) : Nat := if e < t.count then (if t.validE e then t.raw e else 0) else 0
/-- Element (i, j) where valid, else zero. -/
def Tile.atOr0 (t : Tile) (i j : Nat) : Nat := if t.valid i j then t.raw (i * t.cols + j) else 0

/-- MOV (R334). -/
def aluMov (a b : TReg) (k : MReg) (x : AluIn) : AluRes :=
  let tb := x.tile b
  if k = 0 then .ok (AluOut.one a (tb.withBytes tb.bytes) (aluCycles tb.validBytes))
  else do
    let sb ← sameSrc (x.tile a) tb
    elementwise x a k [sb] false (fun _ v _ => v.getD 0 0) 1

/-- ZERO (R334). -/
def aluZero (a : TReg) (k : MReg) (x : AluIn) : AluRes :=
  let ta := x.tile a
  if k = 0 then .ok (AluOut.one a ((ta.withBytes 0).build (fun _ => 0) false) (aluCycles ta.validBytes))
  else elementwise x a k [] false (fun _ _ _ => 0) 1

/-- TRN (R335). -/
def aluTrn (a b : TReg) (k : MReg) (x : AluIn) : AluRes :=
  let t := x.tile b
  if 8 < t.cols then .error .shape
  else
    let s := shapeOfV t.fmt t.cols t.rows t.vcols t.vrows
    shaping x a k s (fun e => t.atOr0 (e % s.cols) (e / s.cols)) t.tag (aluCycles s.validBytes)

/-- BROW (R336). -/
def aluBrow (a b c : TReg) (k : MReg) (x : AluIn) : AluRes := do
  let t := x.tile b
  let v ← ctl (x.tile c)
  need .shape (notMask1 t)
  let r := wrapTo 64 v
  let ta := x.tile a
  let s := shapeOfV t.fmt ta.rows t.cols ta.vrows t.vcols
  shaping x a k s (fun e => t.atOr0 r (e % s.cols)) (t.tag || (x.tile c).tag) (aluCycles s.validBytes)

/-- BCOL (R336). -/
def aluBcol (a b c : TReg) (k : MReg) (x : AluIn) : AluRes := do
  let t := x.tile b
  let v ← ctl (x.tile c)
  need .shape (notMask1 t)
  let r := wrapTo 64 v
  let ta := x.tile a
  let s := shapeOfV t.fmt t.rows ta.cols t.vrows ta.vcols
  shaping x a k s (fun e => t.atOr0 (e / s.cols) r) (t.tag || (x.tile c).tag) (aluCycles s.validBytes)

/-- XTR (R337). -/
def aluXtr (a b c : TReg) (k : MReg) (x : AluIn) : AluRes := do
  let t := x.tile b
  let v ← ctl (x.tile c)
  need .shape (notMask1 t)
  let s := shapeOf t.fmt 1 1
  shaping x a k s (fun _ => if v < 0 then 0 else t.elemOr0 v.toNat) (t.tag || (x.tile c).tag) (aluCycles s.validBytes)

/-- INS (R337): Ta is read as the base of the result (log 21). -/
def aluIns (a b c : TReg) (k : MReg) (x : AluIn) : AluRes := do
  let ta := x.tile a
  let t := x.tile b
  let v ← ctl (x.tile c)
  need .shape (notMask1 ta && notMask1 t && t.scalar)
  let sb ← sameSrc ta t
  need .shape (maskFits k ta)
  let hit (e : Nat) : Bool := decide (v = (e : Int)) && x.bit k e
  let whole := ta.vrows * ta.vcols = 1 ∧ ta.cells.any hit
  .ok (AluOut.one a (ta.build (fun e => if hit e then sb.rd 0 else ta.raw e)
    (t.tag || (x.tile c).tag || (ta.tag && !decide whole))) (aluCycles ta.validBytes))

/-- SLC (R338). -/
def aluSlc (a b c : TReg) (k : MReg) (x : AluIn) : AluRes := do
  let t := x.tile b
  let v ← ctl (x.tile c)
  let d := wrapTo 64 v
  let rows := bitsOf d 18 16
  let cols := bitsOf d 29 24
  let r0 := bitsOf d 2 0
  let c0 := bitsOf d 13 8
  need .shape (decide (bitsOf d 63 30 = 0 ∧ bitsOf d 23 19 = 0 ∧ bitsOf d 15 14 = 0 ∧ bitsOf d 7 3 = 0
    ∧ r0 + rows ≤ t.rows - 1 ∧ c0 + cols ≤ t.cols - 1))
  let s := shapeOf t.fmt (rows + 1) (cols + 1)
  shaping x a k s (fun e => t.atOr0 (r0 + e / s.cols) (c0 + e % s.cols)) (t.tag || (x.tile c).tag) (aluCycles s.validBytes)

/-- Place of element e among the valid elements in row-major order (R339). -/
def Tile.rank (t : Tile) (e : Nat) : Nat := (e / t.cols) * t.vcols + e % t.cols
/-- The valid elements in row-major order (R339). -/
def Tile.validList (t : Tile) : List Nat := t.cells.map t.raw

/-- SHE (R339). -/
def aluShe (a b c : TReg) (k : MReg) (x : AluIn) : AluRes :=
  let t := x.tile b
  let u := x.tile c
  if t.fmt ≠ u.fmt ∨ t.fmt = .mask1 then .error .shape
  else
    let v := t.validList
    let w := u.validList
    if v.length < w.length then .error .shape
    else shaping x a k t (fun e => (v ++ w).getD (t.rank e + w.length) 0) (t.tag || u.tag) (aluCycles t.validBytes)

/-- ROTE (R339). -/
def aluRote (a b c : TReg) (k : MReg) (x : AluIn) : AluRes := do
  let t := x.tile b
  let s ← ctl (x.tile c)
  need .shape (notMask1 t)
  let v := t.validList
  shaping x a k t (fun e => v.getD (((t.rank e : Int) + s) % (v.length : Int)).toNat 0) (t.tag || (x.tile c).tag)
    (aluCycles t.validBytes)

/-- The shape of a lookup: Tc's rows, columns and valid region in Tb's format (R340). -/
def lookupShape (t i : Tile) : Tile := shapeOfV t.fmt i.rows i.cols i.vrows i.vcols

/-- PERM (R340). -/
def aluPerm (a b c : TReg) (k : MReg) (x : AluIn) : AluRes := do
  let t := x.tile b
  let i := x.tile c
  need .shape (isInt i.fmt && notMask1 t)
  let s := lookupShape t i
  shaping x a k s (fun e => let v := intOf i.fmt (i.raw e); if v < 0 then 0 else t.elemOr0 v.toNat) (t.tag || i.tag)
    (aluCycles s.validBytes)

/-- LUT16 (R340). -/
def aluLut16 (a b c : TReg) (k : MReg) (x : AluIn) : AluRes := do
  let t := x.tile b
  let i := x.tile c
  need .shape (isInt i.fmt && notMask1 t && decide (16 ≤ t.count))
  let s := lookupShape t i
  shaping x a k s (fun e => t.elemOr0 (i.raw e % 16)) (t.tag || i.tag) (aluCycles s.validBytes)

/-- PERM8 (R340): the storage of Tb to Tb+7 as one table. -/
def aluPerm8 (a b c : TReg) (k : MReg) (x : AluIn) : AluRes := do
  let t := x.tile b
  let i := x.tile c
  need .shape (isInt i.fmt && notMask1 t)
  let group := (List.range 8).map fun q => x.tile (b + BitVec.ofNat 4 q)
  let per := 64 / fmtSize t.fmt
  let s := lookupShape t i
  let entry (e : Nat) : Nat :=
    let v := intOf i.fmt (i.raw e)
    if v < 0 ∨ (512 / fmtSize t.fmt : Nat) ≤ v then 0
    else (({ t with bytes := (group.getD (v.toNat / per) t).bytes } : Tile).raw (v.toNat % per))
  shaping x a k s entry (group.any (·.tag) || i.tag) (aluCycles s.validBytes)

/-- SEL (R341): the mask selects Tb or Tc; only the chosen operand can be absent. -/
def aluSel (a b c : TReg) (k : MReg) (x : AluIn) : AluRes := do
  let ta := x.tile a
  let sb ← sameSrc ta (x.tile b)
  let sc ← sameSrc ta (x.tile c)
  need .shape (maskFits k ta)
  let f (e : Nat) : Nat :=
    let s := if x.bit k e then sb else sc
    if s.present e then s.at_ e else ta.raw e
  .ok (AluOut.one a (ta.build f (sb.t.tag || sc.t.tag)) (aluCycles ta.validBytes))

end Sys2Proof.Machine
end

