-- ==== Sys2Proof/Machine/Movement.lean ====
section
/-! DEFINITION. The movement, shape and mask groups (12 R331 to R341, R347). -/

namespace Sys2Proof.Machine

/-- MOV (R334). -/
def execMov (a : BitVec 4) (b : BitVec 4) (k : BitVec 2) (s : State) : Host.Outcome State Fault Refusal :=
  .next (issueAlu s a [b] [a] (aluMov a b k))

/-- ZERO (R334). -/
def execZero (a : BitVec 4) (k : BitVec 2) (s : State) : Host.Outcome State Fault Refusal :=
  .next (issueAlu s a [] [a] (aluZero a k))

/-- TRN (R335). -/
def execTrn (a : BitVec 4) (b : BitVec 4) (k : BitVec 2) (s : State) : Host.Outcome State Fault Refusal :=
  .next (issueAlu s a [b] [a] (aluTrn a b k))

/-- BROW (R336). -/
def execBrow (a : BitVec 4) (b : BitVec 4) (c : BitVec 4) (k : BitVec 2) (s : State) : Host.Outcome State Fault Refusal :=
  .next (issueAlu s a [b, c] [a] (aluBrow a b c k))

/-- BCOL (R336). -/
def execBcol (a : BitVec 4) (b : BitVec 4) (c : BitVec 4) (k : BitVec 2) (s : State) : Host.Outcome State Fault Refusal :=
  .next (issueAlu s a [b, c] [a] (aluBcol a b c k))

/-- XTR (R337). -/
def execXtr (a : BitVec 4) (b : BitVec 4) (c : BitVec 4) (k : BitVec 2) (s : State) : Host.Outcome State Fault Refusal :=
  .next (issueAlu s a [b, c] [a] (aluXtr a b c k))

/-- INS (R337). -/
def execIns (a : BitVec 4) (b : BitVec 4) (c : BitVec 4) (k : BitVec 2) (s : State) : Host.Outcome State Fault Refusal :=
  .next (issueAlu s a [b, c] [a] (aluIns a b c k))

/-- SLC (R338). -/
def execSlc (a : BitVec 4) (b : BitVec 4) (c : BitVec 4) (k : BitVec 2) (s : State) : Host.Outcome State Fault Refusal :=
  .next (issueAlu s a [b, c] [a] (aluSlc a b c k))

/-- SHE (R339). -/
def execShe (a : BitVec 4) (b : BitVec 4) (c : BitVec 4) (k : BitVec 2) (s : State) : Host.Outcome State Fault Refusal :=
  .next (issueAlu s a [b, c] [a] (aluShe a b c k))

/-- ROTE (R339). -/
def execRote (a : BitVec 4) (b : BitVec 4) (c : BitVec 4) (k : BitVec 2) (s : State) : Host.Outcome State Fault Refusal :=
  .next (issueAlu s a [b, c] [a] (aluRote a b c k))

/-- PERM (R340). -/
def execPerm (a : BitVec 4) (b : BitVec 4) (c : BitVec 4) (k : BitVec 2) (s : State) : Host.Outcome State Fault Refusal :=
  .next (issueAlu s a [b, c] [a] (aluPerm a b c k))

/-- PERM8 (R340): Tb to Tb+7 are its table. -/
def execPerm8 (a : BitVec 4) (b : BitVec 4) (c : BitVec 4) (k : BitVec 2) (s : State) : Host.Outcome State Fault Refusal :=
  .next (issueAlu s a [b, b + 1, b + 2, b + 3, b + 4, b + 5, b + 6, b + 7, c] [a] (aluPerm8 a b c k))

/-- LUT16 (R340). -/
def execLut16 (a : BitVec 4) (b : BitVec 4) (c : BitVec 4) (k : BitVec 2) (s : State) : Host.Outcome State Fault Refusal :=
  .next (issueAlu s a [b, c] [a] (aluLut16 a b c k))

/-- SEL (R341). -/
def execSel (a : BitVec 4) (b : BitVec 4) (c : BitVec 4) (k : BitVec 2) (s : State) : Host.Outcome State Fault Refusal :=
  .next (issueAlu s a [b, c] [a] (aluSel a b c k))

/-- SHAPE (R331). -/
def execShape (a : BitVec 4) (b : BitVec 4) (s : State) : Host.Outcome State Fault Refusal :=
  .next (issueShape s a [b] (aluShape a b))

/-- RAGGED (R331). -/
def execRagged (a : BitVec 4) (b : BitVec 4) (s : State) : Host.Outcome State Fault Refusal :=
  .next (issueShape s a [b] (aluRagged a b))

/-- GSHAPE (R332). -/
def execGshape (a : BitVec 4) (b : BitVec 4) (s : State) : Host.Outcome State Fault Refusal :=
  .next (issueAlu s a [b] [a] (aluGshape a b))

/-- SHAPEI (R331). -/
def execShapei (a : BitVec 4) (f : BitVec 5) (r : BitVec 3) (c : BitVec 6) (s : State) : Host.Outcome State Fault Refusal :=
  .next (issueShape s a [] (aluShapei a f r c))

/-- RAGGEDI (R331). -/
def execRaggedi (a : BitVec 4) (r : BitVec 3) (c : BitVec 6) (s : State) : Host.Outcome State Fault Refusal :=
  .next (issueShape s a [] (aluRaggedi a r c))

/-- MAND (R347). M0 is no destination (R120). -/
def execMand (a : BitVec 2) (b : BitVec 2) (c : BitVec 2) (s : State) : Host.Outcome State Fault Refusal :=
  if a = 0 then .next (trapHere s .illegal 0) else .next (issueAlu s (a.setWidth 4) [] [] (aluMask2 (fun u v => u &&& v) a b c))

/-- MOR (R347). M0 is no destination (R120). -/
def execMor (a : BitVec 2) (b : BitVec 2) (c : BitVec 2) (s : State) : Host.Outcome State Fault Refusal :=
  if a = 0 then .next (trapHere s .illegal 0) else .next (issueAlu s (a.setWidth 4) [] [] (aluMask2 (fun u v => u ||| v) a b c))

/-- MXOR (R347). M0 is no destination (R120). -/
def execMxor (a : BitVec 2) (b : BitVec 2) (c : BitVec 2) (s : State) : Host.Outcome State Fault Refusal :=
  if a = 0 then .next (trapHere s .illegal 0) else .next (issueAlu s (a.setWidth 4) [] [] (aluMask2 (fun u v => u ^^^ v) a b c))

/-- MNOT (R347). M0 is no destination (R120). -/
def execMnot (a : BitVec 2) (b : BitVec 2) (s : State) : Host.Outcome State Fault Refusal :=
  if a = 0 then .next (trapHere s .illegal 0) else .next (issueAlu s (a.setWidth 4) [] [] (aluMnot a b))

/-- MPOP (R347). -/
def execMpop (a : BitVec 4) (b : BitVec 2) (s : State) : Host.Outcome State Fault Refusal :=
  .next (issueAlu s a [] [a] (aluMpop a b))

/-- MFST (R347). -/
def execMfst (a : BitVec 4) (b : BitVec 2) (s : State) : Host.Outcome State Fault Refusal :=
  .next (issueAlu s a [] [a] (aluMfst a b))

/-- MST (R347). -/
def execMst (a : BitVec 4) (b : BitVec 2) (s : State) : Host.Outcome State Fault Refusal :=
  .next (issueAlu s a [] [a] (aluMst a b))

/-- MLD (R347). M0 is no destination (R120). -/
def execMld (a : BitVec 2) (b : BitVec 4) (s : State) : Host.Outcome State Fault Refusal :=
  if a = 0 then .next (trapHere s .illegal 0) else .next (issueAlu s (a.setWidth 4) [b] [] (aluMld a b))

/-- MSET (R347). M0 is no destination (R120). -/
def execMset (a : BitVec 2) (b : BitVec 4) (s : State) : Host.Outcome State Fault Refusal :=
  if a = 0 then .next (trapHere s .illegal 0) else .next (issueAlu s (a.setWidth 4) [b] [] (aluMset a b))

end Sys2Proof.Machine
end

