-- ==== Sys2Proof/Machine/PairEvents.lean ====
section
/-! DEFINITION. The compare buffer of a shadow pair at work (10 R276, R278 to R281). -/

namespace Sys2Proof.Machine

/-- Where a side of a pair has come to rest (R280): instruction count, and 0 CKPT, 1 DONE, 2 inserted CKPT, or 3 plus the cause of a
trap. -/
def restOf (x : Slot) (at_ : Option (Nat × Nat)) : Option (Nat × Nat) :=
  match at_ with
  | some p => some p
  | none => match x.st with
    | .trapped | .frozen _ true => some (x.icount, 3 + x.cause.toNat)
    | _ => none

/-- Does one side rest where the other does not (R280)? -/
def restsApart (l t : Slot) (atL atT : Option (Nat × Nat)) : Bool :=
  let passed (p : Option (Nat × Nat)) (n : Nat) : Bool := match p with
    | some (m, _) => decide (m < n)
    | none => false
  passed atL t.icount || passed atT l.icount || (match atL, atT with
    | some a, some b => a.1 == b.1 && a.2 != b.2
    | _, _ => false)

/-- The leader's own work that still has to return before its slot can be set back: loads, atomics with a result, remote rows. -/
def returnsDue (s : State) (o : Owner) : Bool :=
  (s.memq.any fun e => e.owner == o && (match e.kind with
    | .read => true
    | .write _ => false
    | .atom _ op => op.wants)) || (s.rets.any fun r => r.owner == o) || s.rems.any fun r => r.owner == o && r.reply.isNone

/-- One more mismatch in the pair word, saturating (R276). -/
def countMismatch (s : State) (p : Pair) : State :=
  let up (w : Word64) : Word64 := if w.extractLsb' 0 16 = 0xFFFF then w else w + 1
  let s := s.updCtx p.core (s.slot p.core p.slot).ctx fun k => { k with pair := up k.pair }
  s.updDir p.core p.job fun d => { d with pair := up d.pair }

/-- A slot that was set back while its context is frozen stays frozen; a single step of it is over. -/
def keepFrozen (s : State) (c : CoreId) (i : BitVec 2) : State :=
  if ((s.ctxAt c (s.slot c i).ctx).map (·.frozen)).getD false then
    s.updSlot c i fun x => { x with st := .frozen none false, stepping := none }
  else s

/-- A mismatch (R280): the first sends both slots back to the checkpoint, the second stops the pair. -/
def mismatch (s : State) (p : Pair) : State :=
  let o : Owner := .slot p.core p.slot p.uid
  if returnsDue s o then s
  else
    let retrying := p.state != 0
    let s := countMismatch { s with rems := s.rems.filter fun r => r.owner != o } p
    if !retrying then
      let s := keepFrozen (rewindPair s p 1) p.core p.slot
      match p.tslot with
      | some t => keepFrozen s p.tcore t
      | none => s
    else
      let s := updPair s p fun q => { q with buf := [], sigs := [], vals := [], atL := none, atT := none }
      let s := setPairState s p 2
      let s := match p.tslot with
        | some t => s.updSlot p.tcore t fun x => { x with st := .trapped, cause := causeCode .pairMismatch, allowance := Config.trapAllowance }
        | none => s
      let s := s.updSlot p.core p.slot fun x => { x with pend := [] }
      takeTrap s p.core p.slot .pairMismatch (p.ckptPc.setWidth 64) p.snapL.pc 0

/-- What an operation's row gave when it was released (R280). -/
def oldReturn (p : Pair) (o : Owner) (n : Nat) (e : MemEv) : Ret :=
  let mine := p.oldVals.filter fun v => v.1 == n && v.2.1 == e.dst
  let byte (pos : Nat) : Byte := (mine.findSome? fun v => (v.2.2.1.find? fun b => b.1 == pos).map (·.2)).getD 0
  { id := e.id, owner := o, dst := e.dst, bytes := e.map.map fun m => (m.2, byte m.2),
    tag := mine.any fun v => v.2.2.2 && e.map.any fun m => v.2.2.1.any fun b => b.1 == m.2, shape := none }

/-- A re-formed effect that was released before the mismatch is not performed again; what it returned then comes back (R280). -/
def suppress (s : State) (p : Pair) (e : Eff) (n : Nat) : State :=
  let o : Owner := .slot p.core p.slot p.uid
  match e with
  | .events l =>
    let back := (l.filter fun x => match x.kind with
      | .atom _ op => op.wants
      | _ => false).map (oldReturn p o n)
    { s with rets := s.rets ++ back }
  | .remote _ req =>
    let old := match p.replies.find? fun r => r.1 == n && r.2.1 == req.addr with
      | some (_, _, st, t, d) => (st, t, d)
      | none => (0, false, [])
    { s with rems := s.rems ++ [{ req with reply := some old }] }
  | .matrix m _ => match m.op with
    | .config _ => s.updSlot p.core p.slot fun x => match x.st with
      | .stalled (.accCfg none) => { x with st := .stalled (.accCfg (some false)) }
      | _ => x
    | _ => s
  | _ => s

/-- The oldest effect of the compare buffer is released, and performed once (R278, R281). -/
def release (s : State) (p : Pair) (sig : BitVec 32) (e : Eff) (n : Nat) : State :=
  let s := updPair s p fun q => { q with buf := q.buf.drop 1, sigs := q.sigs.drop 1, logSigs := q.logSigs ++ [sig], lastSig := sig }
  performEff s p.core p.slot n e

/-- SIGNATURE_COMPARE (R278, R280): the n-th signature of each side. A match releases the leader's entry; in a re-run an effect with
the signature that it had when released is only dropped. UE events carry no signature and follow their effects. -/
def execSignatureCompare (core : CoreId) (slot : BitVec 2) (s : State) : Host.Outcome State Fault Refusal :=
  .next (match s.pairs.find? fun p => p.core == core && p.slot == slot with
    | none => s
    | some p =>
      match p.tslot with
      | none => s
      | some t =>
        let l := s.slot core slot
        let x := s.slot p.tcore t
        let stopped := p.state == 2
        let atL := restOf l p.atL
        let atT := restOf x p.atT
        if stopped then s
        else
          match p.buf, p.sigs with
          | (_, .ue a r w, n) :: rest, _ =>
            let s := updPair s p fun q => { q with buf := rest }
            if p.replaySigs.isEmpty then performEff s core slot n (.ue a r w) else s
          | (sig, e, n) :: rest, u :: us =>
            if sig ≠ u then mismatch s p
            else
              match p.replaySigs with
              | [] => release s p sig e n
              | old :: olds =>
                if old ≠ sig then mismatch s p
                else suppress (updPair s p fun q => { q with buf := rest, sigs := us, replaySigs := olds, count := q.count - 1 }) p e n
          | (_, _, n) :: _, [] => if n < x.icount || restsApart l x atL atT then mismatch s p else s
          | [], _ :: _ => mismatch s p
          | [], [] => if restsApart l x atL atT then mismatch s p else s)

end Sys2Proof.Machine
end

