-- ==== Sys2Proof/Machine/AluReduce.lean ====
section
/-! DEFINITION. Reductions, dot products and scans as functions of the slot's tiles (13 R368 to R374, 07 R207). -/

namespace Sys2Proof.Machine

/-- A leaf where it is valid. -/
def leafAt {α : Type} (t : Tile) (f : Nat → α) (e : Nat) : Option α := if t.validE e then some (f (t.raw e)) else none

/-- An FP32 node: the sum rounded to nearest (R207). -/
def nodeF (a b : Nat) : Nat := roundFloat fp32Spec .rne (addVal .rne (valFloat fp32Spec a) (valFloat fp32Spec b))
/-- An element of an arithmetic float taken exactly to FP32 (R207). -/
def toF32 (f : Fmt) (y : Nat) : Nat := convElem none f .fp32 .rne y
/-- An FP32 sum converted to a format, a NaN canonical (R192, R369). -/
def fromF32 (f : Fmt) (md : RMode) (y : Nat) : Nat := encodeVal none f md (valFloat fp32Spec y)
/-- The 64-bit sum node of the integer reductions (R207). -/
def nodeI (a b : Nat) : Nat := (a + b) % 2 ^ 64
/-- An integer leaf extended to 64 bits (R207). -/
def ext64 (f : Fmt) (y : Nat) : Nat := wrapTo 64 (intOf f y)

/-- RSUM (R369). -/
def aluRsum (a b : TReg) (k : MReg) (x : AluIn) : AluRes := do
  let t := x.tile b
  need .shape (isInt t.fmt)
  let (s, rows) := reduceForm x a k t (if isSigned t.fmt then .int64 else .uint64) (leafAt t (ext64 t.fmt))
  reduced a s (rows.map fun l => (treeReduce nodeI l).getD 0) t.tag t.validBytes

/-- FRSUM (R369). -/
def aluFrsum (a b : TReg) (k : MReg) (r : BitVec 2) (x : AluIn) : AluRes := do
  let t := x.tile b
  need .shape (isArith t.fmt)
  let (s, rows) := reduceForm x a k t t.fmt (leafAt t (toF32 t.fmt))
  reduced a s (rows.map fun l => fromF32 t.fmt (rmodeOf r) ((treeReduce nodeF l).getD 0)) t.tag t.validBytes

/-- The larger of two elements, keeping the first of equal values (R207, R370). -/
def pickMax (f : Fmt) (u v : Nat) : Bool :=
  match floatSpec f with
  | none => decide (intOf f u < intOf f v)
  | some p =>
    let x := valFloat p u
    let y := valFloat p v
    -- v wins when it is a number beside a NaN, or above u with -0 below +0
    if isNan y then false else if isNan x then true
    else ltVal x y || (eqVal x y && signVal x && !signVal y)
/-- Does the second win under the smaller? -/
def pickMin (f : Fmt) (u v : Nat) : Bool :=
  match floatSpec f with
  | none => decide (intOf f v < intOf f u)
  | some p =>
    let x := valFloat p u
    let y := valFloat p v
    if isNan y then false else if isNan x then true
    else ltVal y x || (eqVal x y && signVal y && !signVal x)

/-- A NaN result is canonical; X19 results clear the container's high bits (R188, R192). -/
def canon (f : Fmt) (y : Nat) : Nat :=
  match floatSpec f with
  | none => y
  | some p => if isNan (valFloat p y) then p.nan else p.pack (p.neg y) (p.mag y)

/-- The empty result of RMAX (R369). -/
def emptyMax (f : Fmt) : Nat :=
  match floatSpec f with
  | none => intPat f (intMin f)
  | some p => p.pack true (p.maxMag + 1)
/-- The empty result of RMIN (R369). -/
def emptyMin (f : Fmt) : Nat :=
  match floatSpec f with
  | none => intPat f (intMax f)
  | some p => p.pack false (p.maxMag + 1)

/-- Formats of RMAX, RMIN, RAMX and DOT (R369). -/
def redFmt (f : Fmt) : Bool := isInt f || isArith f

/-- Two NaN leaves give the canonical NaN (R193): a node never hands on a NaN pattern of its own. -/
def nodePick (pick : Fmt → Nat → Nat → Bool) (f : Fmt) (u v : Nat) : Nat := canon f (if pick f u v then v else u)

/-- RMAX and RMIN (R369). -/
def aluRext (pick : Fmt → Nat → Nat → Bool) (empty : Fmt → Nat) (a b : TReg) (k : MReg) (x : AluIn) : AluRes := do
  let t := x.tile b
  need .shape (redFmt t.fmt)
  let (s, rows) := reduceForm x a k t t.fmt (leafAt t id)
  reduced a s (rows.map fun l => canon t.fmt ((treeReduce (nodePick pick t.fmt) l).getD (empty t.fmt))) t.tag t.validBytes

/-- RAMX (R370): leaves carry their index. -/
def aluRamx (a b c : TReg) (k : MReg) (x : AluIn) : AluRes := do
  let t := x.tile b
  need .shape (redFmt t.fmt && (a != c || a == 0))
  let whole := (x.tile a).scalar
  let leaf (e : Nat) : Option (Nat × Nat) :=
    if t.validE e then some (t.raw e, if whole then e else e % t.cols) else none
  let (s, rows) := reduceForm x a k t t.fmt leaf
  let node (u v : Nat × Nat) : Nat × Nat :=
    let w := if pickMax t.fmt u.1 v.1 then v else u
    (canon t.fmt w.1, w.2)
  let res := rows.map (treeReduce node)
  let vals := res.map fun o => canon t.fmt ((o.map Prod.fst).getD (emptyMax t.fmt))
  let idxs := res.map fun o => (o.map Prod.snd).getD (2 ^ 64 - 1)
  let o ← reduced a s vals t.tag t.validBytes
  let s' := { s with fmt := .int64 }
  if !s'.legal then .error .shape
  else .ok { o with tiles := o.tiles ++ [(c, s'.build (fun e => idxs.getD e 0) t.tag)] }

/-- DOT (R371). -/
def aluDot (a b c : TReg) (k : MReg) (r : BitVec 2) (x : AluIn) : AluRes := do
  let t := x.tile b
  let u := x.tile c
  need .shape (redFmt t.fmt && t.sameShape u)
  need .illegal (r == 0 || !(isInt t.fmt || t.fmt == .fp32))
  let both (e : Nat) : Bool := t.validE e && u.validE e
  let bytes := t.validBytes + u.validBytes
  if isInt t.fmt then
    let leaf (e : Nat) : Option Nat :=
      if both e then some (wrapTo 64 (intOf t.fmt (t.raw e) * intOf t.fmt (u.raw e))) else none
    let (s, rows) := reduceForm x a k t (if isSigned t.fmt then .int64 else .uint64) leaf
    reduced a s (rows.map fun l => (treeReduce nodeI l).getD 0) (t.tag || u.tag) bytes
  else
    let leaf (e : Nat) : Option Nat :=
      if both e then
        some (roundFloat fp32Spec .rne (mulVal (valOf none t.fmt (t.raw e)) (valOf none t.fmt (u.raw e))))
      else none
    let (s, rows) := reduceForm x a k t t.fmt leaf
    reduced a s (rows.map fun l => fromF32 t.fmt (rmodeOf r) ((treeReduce nodeF l).getD 0)) (t.tag || u.tag) bytes

/-- The running value after column j of a row's leaves (R372). -/
def runTo (node : Nat → Nat → Nat) : List (Option Nat) → Option Nat → Option Nat
  | [], run => run
  | none :: l, run => runTo node l run
  | some y :: l, none => runTo node l (some y)
  | some y :: l, some z => runTo node l (some (node z y))

/-- SCAN and FSCAN (R372). -/
def aluScanBy (node : Nat → Nat → Nat) (leaf : Nat → Nat) (out : Nat → Nat) (a : TReg) (t : Tile) (k : MReg) (x : AluIn) :
    AluRes :=
  let f (e : Nat) : Nat :=
    match runTo node ((rowLeaves x k t (e / t.cols) (leafAt t leaf)).take (e % t.cols + 1)) none with
    | none => 0
    | some y => out y
  let s := shapeOfV t.fmt t.rows t.cols t.vrows t.vcols
  if !s.legal then .error .shape else .ok (AluOut.one a (s.build f t.tag) (aluCycles t.validBytes))

/-- SCAN (R372). -/
def aluScan (a b : TReg) (k : MReg) (x : AluIn) : AluRes := do
  let t := x.tile b
  need .shape (isInt t.fmt)
  aluScanBy nodeI (ext64 t.fmt) (fun y => y % 2 ^ fmtBits t.fmt) a t k x
/-- FSCAN (R372). -/
def aluFscan (a b : TReg) (k : MReg) (r : BitVec 2) (x : AluIn) : AluRes := do
  let t := x.tile b
  need .shape (isArith t.fmt)
  aluScanBy nodeF (toF32 t.fmt) (fromF32 t.fmt (rmodeOf r)) a t k x

/-- CSUM and FCSUM (R373): one tree for each column. -/
def aluCsumBy (node : Nat → Nat → Nat) (leaf : Nat → Nat) (out : Nat → Nat) (a : TReg) (t : Tile) (k : MReg) (x : AluIn) :
    AluRes :=
  let col (j : Nat) : List (Option Nat) :=
    (List.range t.vrows).map fun i => let e := i * t.cols + j; if x.bit k e then leafAt t leaf e else none
  let s := shapeOfV t.fmt 1 t.cols 1 t.vcols
  reduced a s ((List.range t.vcols).map fun j => out ((treeReduce node (col j)).getD 0)) t.tag t.validBytes

/-- CSUM (R373). -/
def aluCsum (a b : TReg) (k : MReg) (x : AluIn) : AluRes := do
  let t := x.tile b
  need .shape (isInt t.fmt)
  aluCsumBy nodeI (ext64 t.fmt) (fun y => y % 2 ^ fmtBits t.fmt) a t k x
/-- FCSUM (R373). -/
def aluFcsum (a b : TReg) (k : MReg) (r : BitVec 2) (x : AluIn) : AluRes := do
  let t := x.tile b
  need .shape (isArith t.fmt)
  aluCsumBy nodeF (toF32 t.fmt) (fromF32 t.fmt (rmodeOf r)) a t k x

end Sys2Proof.Machine
end

