-- ==== Sys2Proof/Machine/Reduction.lean ====
section
/-! DEFINITION. The reduction group (13 R368 to R374). -/

namespace Sys2Proof.Machine

/-- RSUM (R369). -/
def execRsum (a : BitVec 4) (b : BitVec 4) (k : BitVec 2) (s : State) : Host.Outcome State Fault Refusal :=
  .next (issueAlu s a [b] [a] (aluRsum a b k))

/-- FRSUM (R369). -/
def execFrsum (a : BitVec 4) (b : BitVec 4) (k : BitVec 2) (r : BitVec 2) (s : State) : Host.Outcome State Fault Refusal :=
  .next (issueAlu s a [b] [a] (aluFrsum a b k r))

/-- RMAX (R369). -/
def execRmax (a : BitVec 4) (b : BitVec 4) (k : BitVec 2) (s : State) : Host.Outcome State Fault Refusal :=
  .next (issueAlu s a [b] [a] (aluRext pickMax emptyMax a b k))

/-- RMIN (R369). -/
def execRmin (a : BitVec 4) (b : BitVec 4) (k : BitVec 2) (s : State) : Host.Outcome State Fault Refusal :=
  .next (issueAlu s a [b] [a] (aluRext pickMin emptyMin a b k))

/-- RAMX (R370): Tc takes the index. -/
def execRamx (a : BitVec 4) (b : BitVec 4) (c : BitVec 4) (k : BitVec 2) (s : State) : Host.Outcome State Fault Refusal :=
  .next (issueAlu s a [b] [a, c] (aluRamx a b c k))

/-- DOT (R371). -/
def execDot (a : BitVec 4) (b : BitVec 4) (c : BitVec 4) (k : BitVec 2) (r : BitVec 2) (s : State) : Host.Outcome State Fault Refusal :=
  .next (issueAlu s a [b, c] [a] (aluDot a b c k r))

/-- SCAN (R372). -/
def execScan (a : BitVec 4) (b : BitVec 4) (k : BitVec 2) (s : State) : Host.Outcome State Fault Refusal :=
  .next (issueAlu s a [b] [a] (aluScan a b k))

/-- FSCAN (R372). -/
def execFscan (a : BitVec 4) (b : BitVec 4) (k : BitVec 2) (r : BitVec 2) (s : State) : Host.Outcome State Fault Refusal :=
  .next (issueAlu s a [b] [a] (aluFscan a b k r))

/-- CSUM (R373). -/
def execCsum (a : BitVec 4) (b : BitVec 4) (k : BitVec 2) (s : State) : Host.Outcome State Fault Refusal :=
  .next (issueAlu s a [b] [a] (aluCsum a b k))

/-- FCSUM (R373). -/
def execFcsum (a : BitVec 4) (b : BitVec 4) (k : BitVec 2) (r : BitVec 2) (s : State) : Host.Outcome State Fault Refusal :=
  .next (issueAlu s a [b] [a] (aluFcsum a b k r))

end Sys2Proof.Machine
end

