-- ==== Sys2Proof/Machine/Dispatch.lean ====
section
/-! DEFINITION. What each instruction does: one arm for each row of the opcode table. -/

namespace Sys2Proof.Machine

/-- The meaning of an instruction or an event in a state. -/
def exec (i : Instr) (s : State) : Host.Outcome State Fault Refusal :=
  match i with
  | .nop => Sys2Proof.Machine.execNop s
  | .done => Sys2Proof.Machine.execDone s
  | .ret => Sys2Proof.Machine.execRet s
  | .brk => Sys2Proof.Machine.execBrk s
  | .trap xa => Sys2Proof.Machine.execTrap xa s
  | .rft xa xb => Sys2Proof.Machine.execRft xa xb s
  | .csrr xa xb => Sys2Proof.Machine.execCsrr xa xb s
  | .csrw xa xb => Sys2Proof.Machine.execCsrw xa xb s
  | .tnow xa => Sys2Proof.Machine.execTnow xa s
  | .cinv xa xb => Sys2Proof.Machine.execCinv xa xb s
  | .tlbi xa xb xc xd => Sys2Proof.Machine.execTlbi xa xb xc xd s
  | .slotrd xa xb xc xd => Sys2Proof.Machine.execSlotrd xa xb xc xd s
  | .slotwr xa xb xc xd => Sys2Proof.Machine.execSlotwr xa xb xc xd s
  | .ctxld xa xb => Sys2Proof.Machine.execCtxld xa xb s
  | .ctxsv xa xb => Sys2Proof.Machine.execCtxsv xa xb s
  | .ctxev xa => Sys2Proof.Machine.execCtxev xa s
  | .frost xa => Sys2Proof.Machine.execFrost xa s
  | .resume xa xb => Sys2Proof.Machine.execResume xa xb s
  | .harv xa => Sys2Proof.Machine.execHarv xa s
  | .ckpt => Sys2Proof.Machine.execCkpt s
  | .pairsig xa => Sys2Proof.Machine.execPairsig xa s
  | .seed xa => Sys2Proof.Machine.execSeed xa s
  | .step xa xb xc => Sys2Proof.Machine.execStep xa xb xc s
  | .shapei xa xb xc xd => Sys2Proof.Machine.execShapei xa xb xc xd s
  | .raggedi xa xb xc => Sys2Proof.Machine.execRaggedi xa xb xc s
  | .add xa xb xc xd => Sys2Proof.Machine.execAdd xa xb xc xd s
  | .sub xa xb xc xd => Sys2Proof.Machine.execSub xa xb xc xd s
  | .adds xa xb xc xd => Sys2Proof.Machine.execAdds xa xb xc xd s
  | .addsu xa xb xc xd => Sys2Proof.Machine.execAddsu xa xb xc xd s
  | .subs xa xb xc xd => Sys2Proof.Machine.execSubs xa xb xc xd s
  | .subsu xa xb xc xd => Sys2Proof.Machine.execSubsu xa xb xc xd s
  | .mul xa xb xc xd => Sys2Proof.Machine.execMul xa xb xc xd s
  | .mulh xa xb xc xd => Sys2Proof.Machine.execMulh xa xb xc xd s
  | .mulhu xa xb xc xd => Sys2Proof.Machine.execMulhu xa xb xc xd s
  | .min xa xb xc xd => Sys2Proof.Machine.execMin xa xb xc xd s
  | .max xa xb xc xd => Sys2Proof.Machine.execMax xa xb xc xd s
  | .minu xa xb xc xd => Sys2Proof.Machine.execMinu xa xb xc xd s
  | .maxu xa xb xc xd => Sys2Proof.Machine.execMaxu xa xb xc xd s
  | .abs xa xb xc => Sys2Proof.Machine.execAbs xa xb xc s
  | .neg xa xb xc => Sys2Proof.Machine.execNeg xa xb xc s
  | .avgu xa xb xc xd => Sys2Proof.Machine.execAvgu xa xb xc xd s
  | .and xa xb xc xd => Sys2Proof.Machine.execAnd xa xb xc xd s
  | .or xa xb xc xd => Sys2Proof.Machine.execOr xa xb xc xd s
  | .xor xa xb xc xd => Sys2Proof.Machine.execXor xa xb xc xd s
  | .andn xa xb xc xd => Sys2Proof.Machine.execAndn xa xb xc xd s
  | .not xa xb xc => Sys2Proof.Machine.execNot xa xb xc s
  | .shl xa xb xc xd => Sys2Proof.Machine.execShl xa xb xc xd s
  | .shr xa xb xc xd => Sys2Proof.Machine.execShr xa xb xc xd s
  | .sar xa xb xc xd => Sys2Proof.Machine.execSar xa xb xc xd s
  | .rol xa xb xc xd => Sys2Proof.Machine.execRol xa xb xc xd s
  | .popc xa xb xc => Sys2Proof.Machine.execPopc xa xb xc s
  | .clz xa xb xc => Sys2Proof.Machine.execClz xa xb xc s
  | .ctz xa xb xc => Sys2Proof.Machine.execCtz xa xb xc s
  | .mad xa xb xc xd => Sys2Proof.Machine.execMad xa xb xc xd s
  | .cmp xa xb xc xd xe => Sys2Proof.Machine.execCmp xa xb xc xd xe s
  | .mov xa xb xc => Sys2Proof.Machine.execMov xa xb xc s
  | .zero xa xb => Sys2Proof.Machine.execZero xa xb s
  | .trn xa xb xc => Sys2Proof.Machine.execTrn xa xb xc s
  | .brow xa xb xc xd => Sys2Proof.Machine.execBrow xa xb xc xd s
  | .bcol xa xb xc xd => Sys2Proof.Machine.execBcol xa xb xc xd s
  | .xtr xa xb xc xd => Sys2Proof.Machine.execXtr xa xb xc xd s
  | .ins xa xb xc xd => Sys2Proof.Machine.execIns xa xb xc xd s
  | .slc xa xb xc xd => Sys2Proof.Machine.execSlc xa xb xc xd s
  | .she xa xb xc xd => Sys2Proof.Machine.execShe xa xb xc xd s
  | .rote xa xb xc xd => Sys2Proof.Machine.execRote xa xb xc xd s
  | .perm xa xb xc xd => Sys2Proof.Machine.execPerm xa xb xc xd s
  | .perm8 xa xb xc xd => Sys2Proof.Machine.execPerm8 xa xb xc xd s
  | .lut16 xa xb xc xd => Sys2Proof.Machine.execLut16 xa xb xc xd s
  | .sel xa xb xc xd => Sys2Proof.Machine.execSel xa xb xc xd s
  | .shape xa xb => Sys2Proof.Machine.execShape xa xb s
  | .ragged xa xb => Sys2Proof.Machine.execRagged xa xb s
  | .gshape xa xb => Sys2Proof.Machine.execGshape xa xb s
  | .mand xa xb xc => Sys2Proof.Machine.execMand xa xb xc s
  | .mor xa xb xc => Sys2Proof.Machine.execMor xa xb xc s
  | .mxor xa xb xc => Sys2Proof.Machine.execMxor xa xb xc s
  | .mnot xa xb => Sys2Proof.Machine.execMnot xa xb s
  | .mpop xa xb => Sys2Proof.Machine.execMpop xa xb s
  | .mfst xa xb => Sys2Proof.Machine.execMfst xa xb s
  | .mld xa xb => Sys2Proof.Machine.execMld xa xb s
  | .mst xa xb => Sys2Proof.Machine.execMst xa xb s
  | .mset xa xb => Sys2Proof.Machine.execMset xa xb s
  | .fadd xa xb xc xd xe => Sys2Proof.Machine.execFadd xa xb xc xd xe s
  | .fsub xa xb xc xd xe => Sys2Proof.Machine.execFsub xa xb xc xd xe s
  | .fmul xa xb xc xd xe => Sys2Proof.Machine.execFmul xa xb xc xd xe s
  | .fmin xa xb xc xd => Sys2Proof.Machine.execFmin xa xb xc xd s
  | .fmax xa xb xc xd => Sys2Proof.Machine.execFmax xa xb xc xd s
  | .fabs xa xb xc => Sys2Proof.Machine.execFabs xa xb xc s
  | .fneg xa xb xc => Sys2Proof.Machine.execFneg xa xb xc s
  | .fcpys xa xb xc xd => Sys2Proof.Machine.execFcpys xa xb xc xd s
  | .fdiv xa xb xc xd xe => Sys2Proof.Machine.execFdiv xa xb xc xd xe s
  | .fsqrt xa xb xc xd => Sys2Proof.Machine.execFsqrt xa xb xc xd s
  | .frnd xa xb xc xd => Sys2Proof.Machine.execFrnd xa xb xc xd s
  | .fscl xa xb xc xd xe => Sys2Proof.Machine.execFscl xa xb xc xd xe s
  | .fclass xa xb xc => Sys2Proof.Machine.execFclass xa xb xc s
  | .fma xa xb xc xd xe => Sys2Proof.Machine.execFma xa xb xc xd xe s
  | .fms xa xb xc xd xe => Sys2Proof.Machine.execFms xa xb xc xd xe s
  | .fnma xa xb xc xd xe => Sys2Proof.Machine.execFnma xa xb xc xd xe s
  | .fcmp xa xb xc xd xe => Sys2Proof.Machine.execFcmp xa xb xc xd xe s
  | .frcp xa xb xc => Sys2Proof.Machine.execFrcp xa xb xc s
  | .frsq xa xb xc => Sys2Proof.Machine.execFrsq xa xb xc s
  | .fexp2 xa xb xc => Sys2Proof.Machine.execFexp2 xa xb xc s
  | .flog2 xa xb xc => Sys2Proof.Machine.execFlog2 xa xb xc s
  | .cvt xa xb xc xd => Sys2Proof.Machine.execCvt xa xb xc xd s
  | .cvts xa xb xc => Sys2Proof.Machine.execCvts xa xb xc s
  | .cvtq xa xb xc xd => Sys2Proof.Machine.execCvtq xa xb xc xd s
  | .cvtd xa xb xc => Sys2Proof.Machine.execCvtd xa xb xc s
  | .mxsc xa xb xc xd xe => Sys2Proof.Machine.execMxsc xa xb xc xd xe s
  | .mxq xa xb xc xd => Sys2Proof.Machine.execMxq xa xb xc xd s
  | .rsum xa xb xc => Sys2Proof.Machine.execRsum xa xb xc s
  | .frsum xa xb xc xd => Sys2Proof.Machine.execFrsum xa xb xc xd s
  | .rmax xa xb xc => Sys2Proof.Machine.execRmax xa xb xc s
  | .rmin xa xb xc => Sys2Proof.Machine.execRmin xa xb xc s
  | .ramx xa xb xc xd => Sys2Proof.Machine.execRamx xa xb xc xd s
  | .dot xa xb xc xd xe => Sys2Proof.Machine.execDot xa xb xc xd xe s
  | .scan xa xb xc => Sys2Proof.Machine.execScan xa xb xc s
  | .fscan xa xb xc xd => Sys2Proof.Machine.execFscan xa xb xc xd s
  | .csum xa xb xc => Sys2Proof.Machine.execCsum xa xb xc s
  | .fcsum xa xb xc xd => Sys2Proof.Machine.execFcsum xa xb xc xd s
  | .movi xa xb xc => Sys2Proof.Machine.execMovi xa xb xc s
  | .movk xa xb xc => Sys2Proof.Machine.execMovk xa xb xc s
  | .addi xa xb xc xd => Sys2Proof.Machine.execAddi xa xb xc xd s
  | .muli xa xb xc xd => Sys2Proof.Machine.execMuli xa xb xc xd s
  | .andi xa xb xc xd => Sys2Proof.Machine.execAndi xa xb xc xd s
  | .ori xa xb xc xd => Sys2Proof.Machine.execOri xa xb xc xd s
  | .xori xa xb xc xd => Sys2Proof.Machine.execXori xa xb xc xd s
  | .shi xa xb xc xd xe => Sys2Proof.Machine.execShi xa xb xc xd xe s
  | .ld xa xb xc xd xe xf => Sys2Proof.Machine.execLd xa xb xc xd xe xf s
  | .st xa xb xc xd xe xf => Sys2Proof.Machine.execSt xa xb xc xd xe xf s
  | .ldb xa xb xc xd xe xf => Sys2Proof.Machine.execLdb xa xb xc xd xe xf s
  | .fence xa xb xc => Sys2Proof.Machine.execFence xa xb xc s
  | .aadd xa xb xc xd xe xf xg => Sys2Proof.Machine.execAadd xa xb xc xd xe xf xg s
  | .amin xa xb xc xd xe xf xg => Sys2Proof.Machine.execAmin xa xb xc xd xe xf xg s
  | .amax xa xb xc xd xe xf xg => Sys2Proof.Machine.execAmax xa xb xc xd xe xf xg s
  | .aminu xa xb xc xd xe xf xg => Sys2Proof.Machine.execAminu xa xb xc xd xe xf xg s
  | .amaxu xa xb xc xd xe xf xg => Sys2Proof.Machine.execAmaxu xa xb xc xd xe xf xg s
  | .aand xa xb xc xd xe xf xg => Sys2Proof.Machine.execAand xa xb xc xd xe xf xg s
  | .aor xa xb xc xd xe xf xg => Sys2Proof.Machine.execAor xa xb xc xd xe xf xg s
  | .axor xa xb xc xd xe xf xg => Sys2Proof.Machine.execAxor xa xb xc xd xe xf xg s
  | .aswp xa xb xc xd xe xf xg => Sys2Proof.Machine.execAswp xa xb xc xd xe xf xg s
  | .acas xa xb xc xd xe xf xg => Sys2Proof.Machine.execAcas xa xb xc xd xe xf xg s
  | .aincb xa xb xc xd xe xf xg => Sys2Proof.Machine.execAincb xa xb xc xd xe xf xg s
  | .afadd xa xb xc xd xe xf xg => Sys2Proof.Machine.execAfadd xa xb xc xd xe xf xg s
  | .fmttab xa xb xc => Sys2Proof.Machine.execFmttab xa xb xc s
  | .copy xa xb xc => Sys2Proof.Machine.execCopy xa xb xc s
  | .strm xa xb => Sys2Proof.Machine.execStrm xa xb s
  | .strmx xa xb => Sys2Proof.Machine.execStrmx xa xb s
  | .strms xa xb => Sys2Proof.Machine.execStrms xa xb s
  | .strma xa xb => Sys2Proof.Machine.execStrma xa xb s
  | .sclose xa => Sys2Proof.Machine.execSclose xa s
  | .sstat xa xb => Sys2Proof.Machine.execSstat xa xb s
  | .send xa xb xc xd xe xf => Sys2Proof.Machine.execSend xa xb xc xd xe xf s
  | .sendr xa xb xc xd xe xf => Sys2Proof.Machine.execSendr xa xb xc xd xe xf s
  | .sendat xa xb xc xd xe xf => Sys2Proof.Machine.execSendat xa xb xc xd xe xf s
  | .reply xa xb xc xd xe => Sys2Proof.Machine.execReply xa xb xc xd xe s
  | .fwd xa xb xc xd => Sys2Proof.Machine.execFwd xa xb xc xd s
  | .hdr xa => Sys2Proof.Machine.execHdr xa s
  | .cinc xa xb xc xd xe => Sys2Proof.Machine.execCinc xa xb xc xd xe s
  | .cset xa xb => Sys2Proof.Machine.execCset xa xb s
  | .cget xa xb => Sys2Proof.Machine.execCget xa xb s
  | .carm xa xb => Sys2Proof.Machine.execCarm xa xb s
  | .fset xa xb xc xd => Sys2Proof.Machine.execFset xa xb xc xd s
  | .fclr xa => Sys2Proof.Machine.execFclr xa s
  | .twen xa xb xc => Sys2Proof.Machine.execTwen xa xb xc s
  | .tmr xa xb => Sys2Proof.Machine.execTmr xa xb s
  | .post xa xb xc xd xe xf xg => Sys2Proof.Machine.execPost xa xb xc xd xe xf xg s
  | .posth xa xb xc xd xe xf => Sys2Proof.Machine.execPosth xa xb xc xd xe xf s
  | .accrd xa xb xc xd => Sys2Proof.Machine.execAccrd xa xb xc xd s
  | .accz xa => Sys2Proof.Machine.execAccz xa s
  | .acccfg xa xb => Sys2Proof.Machine.execAcccfg xa xb s
  | .opaq xa xb => Sys2Proof.Machine.execOpaq xa xb s
  | .br xa => Sys2Proof.Machine.execBr xa s
  | .brCond xa xb xc => Sys2Proof.Machine.execBrCond xa xb xc s
  | .call xa => Sys2Proof.Machine.execCall xa s
  | .loop xa xb => Sys2Proof.Machine.execLoop xa xb s
  | .heldPacketRelease xa xb => Sys2Proof.Machine.execHeldPacketRelease xa xb s
  | .remoteLoad xa => Sys2Proof.Machine.execRemoteLoad xa s
  | .remoteStore xa => Sys2Proof.Machine.execRemoteStore xa s
  | .remoteAtomic xa => Sys2Proof.Machine.execRemoteAtomic xa s
  | .builtinReply xa => Sys2Proof.Machine.execBuiltinReply xa s
  | .mailboxRecordWrite xa => Sys2Proof.Machine.execMailboxRecordWrite xa s
  | .hostMessage xa => Sys2Proof.Machine.execHostMessage xa s
  | .initialMessageInject xa xb => Sys2Proof.Machine.execInitialMessageInject xa xb s
  | .routerForward xa xb => Sys2Proof.Machine.execRouterForward xa xb s
  | .handlerMessageArrival xa => Sys2Proof.Machine.execHandlerMessageArrival xa s
  | .residencyRequest xa xb xc => Sys2Proof.Machine.execResidencyRequest xa xb xc s
  | .counterAdd xa => Sys2Proof.Machine.execCounterAdd xa s
  | .flagSet xa => Sys2Proof.Machine.execFlagSet xa s
  | .nack xa => Sys2Proof.Machine.execNack xa s
  | .spaceNotice xa => Sys2Proof.Machine.execSpaceNotice xa s
  | .completion xa => Sys2Proof.Machine.execCompletion xa s
  | .topologyEvent xa => Sys2Proof.Machine.execTopologyEvent xa s
  | .faultEvent xa => Sys2Proof.Machine.execFaultEvent xa s
  | .retainAcknowledgement xa => Sys2Proof.Machine.execRetainAcknowledgement xa s
  | .undeliverable xa => Sys2Proof.Machine.execUndeliverable xa s
  | .retainTimeout xa xb xc => Sys2Proof.Machine.execRetainTimeout xa xb xc s
  | .nackHoldTimeout xa xb xc xd => Sys2Proof.Machine.execNackHoldTimeout xa xb xc xd s
  | .arrivalRingDrain xa xb => Sys2Proof.Machine.execArrivalRingDrain xa xb s
  | .unclaimedTagTimeout xa xb => Sys2Proof.Machine.execUnclaimedTagTimeout xa xb s
  | .dispatch xa => Sys2Proof.Machine.execDispatch xa s
  | .handlerLaunch xa xb => Sys2Proof.Machine.execHandlerLaunch xa xb s
  | .budgetExhausted xa xb => Sys2Proof.Machine.execBudgetExhausted xa xb s
  | .trapAllowanceExpiry xa xb => Sys2Proof.Machine.execTrapAllowanceExpiry xa xb s
  | .loadDataReturn xa => Sys2Proof.Machine.execLoadDataReturn xa s
  | .memoryEventPerform xa => Sys2Proof.Machine.execMemoryEventPerform xa s
  | .pageWalk xa xb xc => Sys2Proof.Machine.execPageWalk xa xb xc s
  | .copyOnWrite xa xb xc => Sys2Proof.Machine.execCopyOnWrite xa xb xc s
  | .codeCacheFill xa xb xc => Sys2Proof.Machine.execCodeCacheFill xa xb xc s
  | .tlbiComplete xa xb => Sys2Proof.Machine.execTlbiComplete xa xb s
  | .evictionDrained xa xb => Sys2Proof.Machine.execEvictionDrained xa xb s
  | .evictionComplete xa xb => Sys2Proof.Machine.execEvictionComplete xa xb s
  | .restoreComplete xa xb => Sys2Proof.Machine.execRestoreComplete xa xb s
  | .clockGate xa => Sys2Proof.Machine.execClockGate xa s
  | .clockGateEnd xa => Sys2Proof.Machine.execClockGateEnd xa s
  | .frostWaveArrival xa xb => Sys2Proof.Machine.execFrostWaveArrival xa xb s
  | .resumeInstant xa => Sys2Proof.Machine.execResumeInstant xa s
  | .fennelRowRequest xa xb => Sys2Proof.Machine.execFennelRowRequest xa xb s
  | .streamRowReturn xa xb => Sys2Proof.Machine.execStreamRowReturn xa xb s
  | .writeStreamCompletion xa xb => Sys2Proof.Machine.execWriteStreamCompletion xa xb s
  | .drainAllowanceExpiry xa xb xc => Sys2Proof.Machine.execDrainAllowanceExpiry xa xb xc s
  | .parkImageWritten xa xb xc => Sys2Proof.Machine.execParkImageWritten xa xb xc s
  | .parkImageRead xa xb xc => Sys2Proof.Machine.execParkImageRead xa xb xc s
  | .fennelServiceGrant xa => Sys2Proof.Machine.execFennelServiceGrant xa s
  | .sorrelApply xa xb => Sys2Proof.Machine.execSorrelApply xa xb s
  | .hbmAtomicApply xa => Sys2Proof.Machine.execHbmAtomicApply xa s
  | .postAccept xa xb => Sys2Proof.Machine.execPostAccept xa xb s
  | .islandEntryFire xa xb => Sys2Proof.Machine.execIslandEntryFire xa xb s
  | .acccfgAnswer xa xb => Sys2Proof.Machine.execAcccfgAnswer xa xb s
  | .copySector xa xb => Sys2Proof.Machine.execCopySector xa xb s
  | .trailerLaunch xa xb => Sys2Proof.Machine.execTrailerLaunch xa xb s
  | .signatureCompare xa xb => Sys2Proof.Machine.execSignatureCompare xa xb s
  | .sendatInject xa => Sys2Proof.Machine.execSendatInject xa s
  | .lamconPacketSend xa => Sys2Proof.Machine.execLamconPacketSend xa s
  | .illegalEncoding xa => Sys2Proof.Machine.execIllegalEncoding xa s
  | .keyEstablishmentTimeout xa => Sys2Proof.Machine.execKeyEstablishmentTimeout xa s
  | .thymeExchange xa => Sys2Proof.Machine.execThymeExchange xa s
  | .rdmaWrite xa xb xc xd => Sys2Proof.Machine.execRdmaWrite xa xb xc xd s
  | .rdmaRead xa xb xc xd => Sys2Proof.Machine.execRdmaRead xa xb xc xd s
  | .attestation xa xb => Sys2Proof.Machine.execAttestation xa xb s
  | .session xa xb xc xd xe xf xg => Sys2Proof.Machine.execSession xa xb xc xd xe xf xg s
  | .imageBlock xa xb xc => Sys2Proof.Machine.execImageBlock xa xb xc s
  | .imageEnd xa xb => Sys2Proof.Machine.execImageEnd xa xb s
  | .frostControlMessage xa => Sys2Proof.Machine.execFrostControlMessage xa s
  | .map xa xb xc xd => Sys2Proof.Machine.execMap xa xb xc xd s
  | .windowRecord xa => Sys2Proof.Machine.execWindowRecord xa s
  | .creditRefill => Sys2Proof.Machine.execCreditRefill s
  | .powerFailWarning => Sys2Proof.Machine.execPowerFailWarning s
  | .powerUp => Sys2Proof.Machine.execPowerUp s
  | .transportSelfTestEnd xa => Sys2Proof.Machine.execTransportSelfTestEnd xa s
  | .jobRebuild xa => Sys2Proof.Machine.execJobRebuild xa s
  | .supplyDroop xa xb => Sys2Proof.Machine.execSupplyDroop xa xb s
  | .warningClear xa => Sys2Proof.Machine.execWarningClear xa s
  | .wearLifeUpdate xa xb xc => Sys2Proof.Machine.execWearLifeUpdate xa xb xc s
  | .inServiceBist xa xb => Sys2Proof.Machine.execInServiceBist xa xb s
  | .clusterRetirement xa xb => Sys2Proof.Machine.execClusterRetirement xa xb s
  | .frostControlDebug xa xb xc => Sys2Proof.Machine.execFrostControlDebug xa xb xc s
  | .frostControlQuiesce xa xb xc xd => Sys2Proof.Machine.execFrostControlQuiesce xa xb xc xd s
  | .registerWrite xa xb => Sys2Proof.Machine.execRegisterWrite xa xb s
  | .lamconPacketReceive xa xb => Sys2Proof.Machine.execLamconPacketReceive xa xb s
  | .linkAcknowledgement xa xb => Sys2Proof.Machine.execLinkAcknowledgement xa xb s
  | .endToEndAcknowledgement xa xb xc => Sys2Proof.Machine.execEndToEndAcknowledgement xa xb xc s
  | .linkReplay xa => Sys2Proof.Machine.execLinkReplay xa s
  | .linkRetrain xa xb => Sys2Proof.Machine.execLinkRetrain xa xb s
  | .retrainEnd xa xb xc xd => Sys2Proof.Machine.execRetrainEnd xa xb xc xd s
  | .portSetChange xa xb => Sys2Proof.Machine.execPortSetChange xa xb s
  | .linkBringUp xa xb xc xd xe xf => Sys2Proof.Machine.execLinkBringUp xa xb xc xd xe xf s
  | .ke1 xa xb => Sys2Proof.Machine.execKe1 xa xb s
  | .ke2 xa xb => Sys2Proof.Machine.execKe2 xa xb s
  | .epochSwitch xa => Sys2Proof.Machine.execEpochSwitch xa s
  | .thymeWordReceive xa xb xc => Sys2Proof.Machine.execThymeWordReceive xa xb xc s
  | .frostWordReceive xa xb => Sys2Proof.Machine.execFrostWordReceive xa xb s
  | .resumeWordReceive xa xb xc xd => Sys2Proof.Machine.execResumeWordReceive xa xb xc xd s
  | .cmReq xa xb xc xd => Sys2Proof.Machine.execCmReq xa xb xc xd s
  | .cmRtu xa => Sys2Proof.Machine.execCmRtu xa s
  | .cmDreq xa => Sys2Proof.Machine.execCmDreq xa s
  | .arpRequest xa xb => Sys2Proof.Machine.execArpRequest xa xb s
  | .neighbourDiscovery xa xb => Sys2Proof.Machine.execNeighbourDiscovery xa xb s
  | .icmpEcho xa xb xc => Sys2Proof.Machine.execIcmpEcho xa xb xc s
  | .dhcpAddress xa xb => Sys2Proof.Machine.execDhcpAddress xa xb s
  | .cnpReceive xa => Sys2Proof.Machine.execCnpReceive xa s
  | .openWindow xa xb xc => Sys2Proof.Machine.execOpenWindow xa xb xc s
  | .closeWindow xa => Sys2Proof.Machine.execCloseWindow xa s
  | .createJob xa => Sys2Proof.Machine.execCreateJob xa s
  | .allocRegion xa xb => Sys2Proof.Machine.execAllocRegion xa xb s
  | .load xa xb => Sys2Proof.Machine.execLoad xa xb s
  | .start xa => Sys2Proof.Machine.execStart xa s
  | .endJob xa => Sys2Proof.Machine.execEndJob xa s
  | .harvest xa => Sys2Proof.Machine.execHarvest xa s
  | .commit xa => Sys2Proof.Machine.execCommit xa s
  | .retire xa xb => Sys2Proof.Machine.execRetire xa xb s
  | .frostCommand xa => Sys2Proof.Machine.execFrostCommand xa s
  | .frostRead xa => Sys2Proof.Machine.execFrostRead xa s
  | .stepCommand xa => Sys2Proof.Machine.execStepCommand xa s
  | .resumeCommand xa => Sys2Proof.Machine.execResumeCommand xa s
  | .scanRead xa => Sys2Proof.Machine.execScanRead xa s
  | .health xa => Sys2Proof.Machine.execHealth xa s
  | .attest xa => Sys2Proof.Machine.execAttest xa s
  | .transport xa => Sys2Proof.Machine.execTransport xa s
  | .imageCommit xa => Sys2Proof.Machine.execImageCommit xa s
  | .domain xa => Sys2Proof.Machine.execDomain xa s
  | .time xa => Sys2Proof.Machine.execTime xa s
  | .timerDeadline xa xb xc => Sys2Proof.Machine.execTimerDeadline xa xb xc s
  | .harvestDump xa xb xc => Sys2Proof.Machine.execHarvestDump xa xb xc s
  | .supplyRecovery xa => Sys2Proof.Machine.execSupplyRecovery xa s
  | .powerLoss xa => Sys2Proof.Machine.execPowerLoss xa s
  | .discardedFrame xa => Sys2Proof.Machine.execDiscardedFrame xa s
  | .perBankRefresh xa xb xc xd => Sys2Proof.Machine.execPerBankRefresh xa xb xc xd s
  | .refreshManagement xa xb xc => Sys2Proof.Machine.execRefreshManagement xa xb xc s

end Sys2Proof.Machine
end

