-- ==== Sys2Proof/Decode.lean ====
section
/-! DEFINITION. The decoder of 32-bit words (R293 to R312), total, refusing by name, and the encoder written from the
same tables. Every refusal has the fate ILLEGAL (R296, R297 steps 1 to 4). -/

namespace Sys2Proof

/-- Why a word stands for no instruction: the first failing step of R297. -/
inductive DecodeError where
  | major | fn | mustBeZeroZ | field
deriving DecidableEq, Repr

/-- The fields of a T-format word (R294); the M and Q formats share its places A, B, C and K (or N). -/
structure WordFields where
  mo : BitVec 6
  a : BitVec 4
  b : BitVec 4
  c : BitVec 4
  k : BitVec 2
  fn : BitVec 8
  rm : BitVec 2
  z : BitVec 2
deriving DecidableEq, Repr

/-- The T-format reading of a word (R294). -/
def fieldsT (w : BitVec 32) : WordFields :=
  { mo := w.extractLsb' 26 6, a := w.extractLsb' 22 4, b := w.extractLsb' 18 4, c := w.extractLsb' 14 4,
    k := w.extractLsb' 12 2, fn := w.extractLsb' 4 8, rm := w.extractLsb' 2 2, z := w.extractLsb' 0 2 }

/-- A word from T-format fields. -/
def wordT (mo : BitVec 6) (a b c : BitVec 4) (k : BitVec 2) (fn : BitVec 8) (rm z : BitVec 2) : BitVec 32 :=
  mo ++ a ++ b ++ c ++ k ++ fn ++ rm ++ z

namespace WordFields

/-- A field check, then the instruction (R297 steps 3 and 4). -/
def ok (f : WordFields) (fieldsOk : Bool) (i : Instr) : Except DecodeError Instr :=
  if f.z != 0 then .error .mustBeZeroZ else if fieldsOk then .ok i else .error .field

/-- The FN field of an M-format word, bits 7:2 (R294). -/
def fnM (f : WordFields) : BitVec 6 := (f.fn ++ f.rm).extractLsb' 0 6
/-- OC and SC of an M-format word (R210). -/
def oc (f : WordFields) : BitVec 2 := f.fn.extractLsb' 6 2
/-- SC of an M-format word. -/
def sc (f : WordFields) : BitVec 2 := f.fn.extractLsb' 4 2
/-- The immediate of an X-format word, bits 11:0 (R294). -/
def immX (f : WordFields) : BitVec 12 := f.fn ++ f.rm ++ f.z
/-- The FN field of an X-format word, bits 17:12 (R294). -/
def fnX (f : WordFields) : BitVec 6 := f.c ++ f.k
/-- The 16-bit immediate of an I-format word (R294). -/
def immI (f : WordFields) : BitVec 16 := (f.c ++ f.k ++ f.fn ++ f.rm ++ f.z).extractLsb' 0 16
/-- The K field of an I-format word, bits 17:16. -/
def kI (f : WordFields) : BitVec 2 := f.c.extractLsb' 2 2
/-- The branch offset, bits 19:0 (R294). -/
def offB (f : WordFields) : BitVec 20 := (f.b ++ f.c ++ f.k ++ f.fn ++ f.rm ++ f.z).extractLsb' 0 20
/-- The K field of a B-format word, bits 21:20. -/
def kB (f : WordFields) : BitVec 2 := f.b.extractLsb' 2 2
/-- FN[3:0] of a Q-format word and FN[7:4], the class mask (R310). -/
def fnQ (f : WordFields) : BitVec 4 := f.fn.extractLsb' 0 4
/-- FN[7:4] of a Q-format word. -/
def maskQ (f : WordFields) : BitVec 4 := f.fn.extractLsb' 4 4
/-- The low two bits of A, B and C where they name a mask (R302, R304). -/
def lo (x : BitVec 4) : BitVec 2 := x.extractLsb' 0 2
/-- The high two bits of such a field are zero. -/
def hi0 (x : BitVec 4) : Bool := x.extractLsb' 2 2 == 0

/-- Three tiles and a mask, RM zero. -/
def abck (f : WordFields) (i : TReg → TReg → TReg → MReg → Instr) : Except DecodeError Instr :=
  f.ok (f.rm == 0) (i f.a f.b f.c f.k)
/-- Two tiles and a mask, C and RM zero. -/
def abk (f : WordFields) (i : TReg → TReg → MReg → Instr) : Except DecodeError Instr :=
  f.ok (f.rm == 0 && f.c == 0) (i f.a f.b f.k)
/-- Three tiles, mask and rounding mode. -/
def abckr (f : WordFields) (i : TReg → TReg → TReg → MReg → BitVec 2 → Instr) : Except DecodeError Instr :=
  f.ok true (i f.a f.b f.c f.k f.rm)
/-- Two tiles, mask and rounding mode, C zero. -/
def abkr (f : WordFields) (i : TReg → TReg → MReg → BitVec 2 → Instr) : Except DecodeError Instr :=
  f.ok (f.c == 0) (i f.a f.b f.k f.rm)

/-- System group (R298). -/
def system (f : WordFields) : Except DecodeError Instr :=
  let im := f.immX
  let a0 := f.a == 0
  let b0 := f.b == 0
  let chk (p : Bool) (i : Instr) : Except DecodeError Instr :=
    if p && WellFormed i then .ok i else .error .field
  match f.fnX with
  | 0x00 => chk (a0 && b0 && im == 0) .nop
  | 0x01 => chk (a0 && b0 && im == 0) .done
  | 0x02 => chk (a0 && b0 && im == 0) .ret
  | 0x03 => chk (a0 && b0 && im == 0) .brk
  | 0x04 => chk (a0 && b0) (.trap im)
  | 0x05 => chk (a0 && b0 && im.extractLsb' 4 8 == 0) (.rft (im.extractLsb' 2 2) (im.extractLsb' 0 2))
  | 0x06 => chk b0 (.csrr f.a im)
  | 0x07 => chk a0 (.csrw f.b im)
  | 0x08 => chk (b0 && im == 0) (.tnow f.a)
  | 0x09 => chk a0 (.cinv f.b im)
  | 0x0A => chk (im.extractLsb' 3 9 == 0) (.tlbi f.a f.b (im.extractLsb' 2 1) (im.extractLsb' 0 2))
  | 0x0B => chk b0 (.slotrd f.a (im.extractLsb' 10 2) (im.extractLsb' 8 2) (im.extractLsb' 0 8))
  | 0x0C => chk a0 (.slotwr f.b (im.extractLsb' 10 2) (im.extractLsb' 8 2) (im.extractLsb' 0 8))
  | 0x0D => chk (a0 && im.extractLsb' 2 10 == 0) (.ctxld f.b (im.extractLsb' 0 2))
  | 0x0E => chk (a0 && im.extractLsb' 2 10 == 0) (.ctxsv f.b (im.extractLsb' 0 2))
  | 0x0F => chk (a0 && b0 && im.extractLsb' 2 10 == 0) (.ctxev (im.extractLsb' 0 2))
  | 0x10 => chk (a0 && b0 && im.extractLsb' 8 4 == 0) (.frost (im.extractLsb' 0 8))
  | 0x11 => chk (im == 0) (.resume f.a f.b)
  | 0x12 => chk (b0 && im == 0) (.harv f.a)
  | 0x13 => chk (a0 && b0 && im == 0) .ckpt
  | 0x14 => chk (b0 && im == 0) (.pairsig f.a)
  | 0x15 => chk (a0 && im == 0) (.seed f.b)
  | 0x16 => chk (a0 && im.extractLsb' 3 9 == 0) (.step f.b (im.extractLsb' 2 1) (im.extractLsb' 0 2))
  | _ => .error .fn

/-- Shape group (R299). The S format: FMT[21:17] ROWS[16:14] COLS[13:8] FN[7:4] Z[3:0]. -/
def shapeGroup (f : WordFields) : Except DecodeError Instr :=
  let fmt : BitVec 5 := f.b ++ f.c.extractLsb' 3 1
  let rows : BitVec 3 := f.c.extractLsb' 0 3
  let cols : BitVec 6 := f.k ++ f.fn.extractLsb' 4 4
  let fin (p : Bool) (i : Instr) : Except DecodeError Instr :=
    if f.rm != 0 || f.z != 0 then .error .mustBeZeroZ else if p && WellFormed i then .ok i else .error .field
  match f.fn.extractLsb' 0 4 with
  | 0x0 => fin true (.shapei f.a fmt rows cols)
  | 0x1 => fin (fmt == 0) (.raggedi f.a rows cols)
  | _ => .error .fn

/-- Integer group (R301). -/
def integer (f : WordFields) : Except DecodeError Instr :=
  match f.fn with
  | 0x00 => f.abck .add | 0x01 => f.abck .sub | 0x02 => f.abck .adds | 0x03 => f.abck .addsu
  | 0x04 => f.abck .subs | 0x05 => f.abck .subsu | 0x06 => f.abck .mul | 0x07 => f.abck .mulh
  | 0x08 => f.abck .mulhu | 0x09 => f.abck .min | 0x0A => f.abck .max | 0x0B => f.abck .minu
  | 0x0C => f.abck .maxu | 0x0D => f.abk .abs | 0x0E => f.abk .neg | 0x0F => f.abck .avgu
  | _ => .error .fn

/-- Logic and shift group (R301). -/
def logic (f : WordFields) : Except DecodeError Instr :=
  match f.fn with
  | 0x00 => f.abck .and | 0x01 => f.abck .or | 0x02 => f.abck .xor | 0x03 => f.abck .andn
  | 0x04 => f.abk .not | 0x05 => f.abck .shl | 0x06 => f.abck .shr | 0x07 => f.abck .sar
  | 0x08 => f.abck .rol | 0x09 => f.abk .popc | 0x0A => f.abk .clz | 0x0B => f.abk .ctz
  | _ => .error .fn

/-- CMP and FCMP (R302): A[23:22] names the destination mask. -/
def compare (f : WordFields) (n : Nat) (i : MReg → TReg → TReg → MReg → Instr) : Except DecodeError Instr :=
  if f.fn.toNat < n then f.ok (hi0 f.a && f.rm == 0 && lo f.a != 0) (i (lo f.a) f.b f.c f.k) else .error .fn

/-- Movement group (R303). -/
def movement (f : WordFields) : Except DecodeError Instr :=
  match f.fn with
  | 0x00 => f.abk .mov
  | 0x01 => f.ok (f.b == 0 && f.c == 0 && f.rm == 0) (.zero f.a f.k)
  | 0x02 => f.abk .trn
  | 0x03 => f.abck .brow | 0x04 => f.abck .bcol | 0x05 => f.abck .xtr | 0x06 => f.abck .ins
  | 0x07 => f.abck .slc | 0x08 => f.abck .she | 0x09 => f.abck .rote | 0x0A => f.abck .perm
  | 0x0B => f.ok (f.rm == 0 && decide (f.b.toNat ≤ 8)) (.perm8 f.a f.b f.c f.k)
  | 0x0C => f.abck .lut16 | 0x0D => f.abck .sel
  | 0x0E => f.ok (f.rm == 0 && f.c == 0 && f.k == 0) (.shape f.a f.b)
  | 0x0F => f.ok (f.rm == 0 && f.c == 0 && f.k == 0) (.ragged f.a f.b)
  | 0x10 => f.ok (f.rm == 0 && f.c == 0 && f.k == 0) (.gshape f.a f.b)
  | _ => .error .fn

/-- Mask group (R304). -/
def maskGroup (f : WordFields) : Except DecodeError Instr :=
  let z := f.k == 0 && f.rm == 0
  match f.fn with
  | 0x00 => f.ok (z && hi0 f.a && hi0 f.b && hi0 f.c && lo f.a != 0) (.mand (lo f.a) (lo f.b) (lo f.c))
  | 0x01 => f.ok (z && hi0 f.a && hi0 f.b && hi0 f.c && lo f.a != 0) (.mor (lo f.a) (lo f.b) (lo f.c))
  | 0x02 => f.ok (z && hi0 f.a && hi0 f.b && hi0 f.c && lo f.a != 0) (.mxor (lo f.a) (lo f.b) (lo f.c))
  | 0x03 => f.ok (z && hi0 f.a && hi0 f.b && f.c == 0 && lo f.a != 0) (.mnot (lo f.a) (lo f.b))
  | 0x04 => f.ok (z && hi0 f.b && f.c == 0) (.mpop f.a (lo f.b))
  | 0x05 => f.ok (z && hi0 f.b && f.c == 0) (.mfst f.a (lo f.b))
  | 0x06 => f.ok (z && hi0 f.a && f.c == 0 && lo f.a != 0) (.mld (lo f.a) f.b)
  | 0x07 => f.ok (z && hi0 f.b && f.c == 0) (.mst f.a (lo f.b))
  | 0x08 => f.ok (z && hi0 f.a && f.c == 0 && lo f.a != 0) (.mset (lo f.a) f.b)
  | _ => .error .fn

/-- Float group (R305). -/
def float (f : WordFields) : Except DecodeError Instr :=
  match f.fn with
  | 0x00 => f.abckr .fadd | 0x01 => f.abckr .fsub | 0x02 => f.abckr .fmul | 0x03 => f.abck .fmin
  | 0x04 => f.abck .fmax | 0x05 => f.abk .fabs | 0x06 => f.abk .fneg | 0x07 => f.abck .fcpys
  | 0x08 => f.abckr .fdiv | 0x09 => f.abkr .fsqrt | 0x0A => f.abkr .frnd | 0x0B => f.abckr .fscl
  | 0x0C => f.abk .fclass
  | _ => .error .fn

/-- Fused group (R305). -/
def fused (f : WordFields) : Except DecodeError Instr :=
  match f.fn with
  | 0x00 => f.abckr .fma | 0x01 => f.abckr .fms | 0x02 => f.abckr .fnma
  | _ => .error .fn

/-- Approximate group (R305). -/
def approx (f : WordFields) : Except DecodeError Instr :=
  match f.fn with
  | 0x00 => f.abk .frcp | 0x01 => f.abk .frsq | 0x02 => f.abk .fexp2 | 0x03 => f.abk .flog2
  | _ => .error .fn

/-- Conversion group (R305). -/
def conversion (f : WordFields) : Except DecodeError Instr :=
  match f.fn with
  | 0x00 => f.abkr .cvt | 0x01 => f.abk .cvts | 0x02 => f.abkr .cvtq | 0x03 => f.abk .cvtd
  | 0x04 => f.abckr .mxsc | 0x05 => f.abck .mxq
  | _ => .error .fn

/-- Reduction group (R305). -/
def reduction (f : WordFields) : Except DecodeError Instr :=
  match f.fn with
  | 0x00 => f.abk .rsum | 0x01 => f.abkr .frsum | 0x02 => f.abk .rmax | 0x03 => f.abk .rmin
  | 0x04 => f.abck .ramx | 0x05 => f.abckr .dot | 0x06 => f.abk .scan | 0x07 => f.abkr .fscan
  | 0x08 => f.abk .csum | 0x09 => f.abkr .fcsum
  | _ => .error .fn

/-- Loads and stores, FN zero (R306). -/
def memory (f : WordFields) (i : TReg → TReg → TReg → MReg → BitVec 2 → BitVec 2 → Instr) : Except DecodeError Instr :=
  if f.fnM == 0 then f.ok true (i f.a f.b f.c f.k f.oc f.sc) else .error .fn

/-- FENCE (R308). -/
def fence (f : WordFields) : Except DecodeError Instr :=
  let m : BitVec 4 := f.fnM.extractLsb' 2 4
  let t : BitVec 2 := f.fnM.extractLsb' 0 2
  f.ok (f.a == 0 && f.b == 0 && f.c == 0 && f.k == 0 && f.oc == 0 && f.sc != 0 && m != 0 && t != 3)
    (.fence f.sc m t)

/-- ATOM (R307): FN[4:0] the operation, FN[5] .ORD. -/
def atom (f : WordFields) : Except DecodeError Instr :=
  let o : BitVec 1 := f.fnM.extractLsb' 5 1
  let go (i : TReg → TReg → TReg → MReg → BitVec 2 → BitVec 2 → BitVec 1 → Instr) : Except DecodeError Instr :=
    f.ok true (i f.a f.b f.c f.k f.oc f.sc o)
  match f.fnM.extractLsb' 0 5 with
  | 0x00 => go .aadd | 0x01 => go .amin | 0x02 => go .amax | 0x03 => go .aminu | 0x04 => go .amaxu
  | 0x05 => go .aand | 0x06 => go .aor | 0x07 => go .axor | 0x08 => go .aswp | 0x09 => go .acas
  | 0x0A => go .aincb | 0x0B => go .afadd
  | _ => .error .fn

/-- FMTTAB and COPY (R306). -/
def fmttab (f : WordFields) : Except DecodeError Instr :=
  if f.fnM == 0 then f.ok (f.a == 0 && f.c == 0 && f.k == 0) (.fmttab f.b f.oc f.sc) else .error .fn
/-- COPY (R306). -/
def copy (f : WordFields) : Except DecodeError Instr :=
  if f.fnM == 0 then f.ok (f.k == 0 && f.oc == 0 && f.sc == 0) (.copy f.a f.b f.c) else .error .fn

/-- Stream group (R309): C, N, VAR and FN[7:4] zero. -/
def stream (f : WordFields) : Except DecodeError Instr :=
  let z := f.c == 0 && f.k == 0 && f.rm == 0
  match f.fn with
  | 0x00 => f.ok z (.strm f.a f.b) | 0x01 => f.ok z (.strmx f.a f.b) | 0x02 => f.ok z (.strms f.a f.b)
  | 0x03 => f.ok z (.strma f.a f.b) | 0x04 => f.ok (z && f.b == 0) (.sclose f.a)
  | 0x05 => f.ok z (.sstat f.a f.b)
  | _ => .error .fn

/-- Message group (R310). -/
def message (f : WordFields) : Except DecodeError Instr :=
  let m := f.maskQ
  let rel := releaseOk m f.rm
  match f.fnQ with
  | 0x0 => f.ok (payloadOk f.c f.k && rel) (.send f.a f.b f.c f.k m f.rm)
  | 0x1 => f.ok (payloadOk f.c f.k && rel) (.sendr f.a f.b f.c f.k m f.rm)
  | 0x2 => f.ok (payloadOk f.c f.k && rel) (.sendat f.a f.b f.c f.k m f.rm)
  | 0x3 => f.ok (f.a == 0 && (payloadOk f.c f.k && rel)) (.reply f.b f.c f.k m f.rm)
  | 0x4 => f.ok (f.c == 0 && f.k == 0 && rel) (.fwd f.a f.b m f.rm)
  | 0x5 => f.ok (f.a == 0 && f.c == 0 && f.k == 0 && m == 0 && f.rm == 0) (.hdr f.b)
  | _ => .error .fn

/-- Counter group (R310). -/
def counter (f : WordFields) : Except DecodeError Instr :=
  let m := f.maskQ
  let z := m == 0 && f.rm == 0
  match f.fnQ with
  | 0x0 => f.ok (f.k == 0 && releaseOk m f.rm) (.cinc f.a f.b f.c m f.rm)
  | 0x1 => f.ok (z && f.a == 0 && f.k == 0) (.cset f.b f.c)
  | 0x2 => f.ok (z && f.b == 0 && f.k == 0) (.cget f.a f.c)
  | 0x3 => f.ok (z && f.a == 0 && f.k == 0) (.carm f.b f.c)
  | 0x4 => f.ok (f.b == 0 && f.k == 0 && releaseOk m f.rm) (.fset f.a f.c m f.rm)
  | 0x5 => f.ok (z && f.a == 0 && f.b == 0 && f.k == 0) (.fclr f.c)
  | 0x6 => f.ok (z && f.a == 0 && f.k.extractLsb' 1 1 == 0) (.twen f.b f.c (f.k.extractLsb' 0 1))
  | 0x7 => f.ok (z && f.a == 0 && f.k == 0 && hi0 f.c) (.tmr f.b (lo f.c))
  | _ => .error .fn

/-- Matrix group (R311). -/
def matrix (f : WordFields) : Except DecodeError Instr :=
  let m := f.maskQ
  let acc : BitVec 3 := f.c.extractLsb' 0 3
  let c0 := f.c.extractLsb' 3 1 == 0
  let tr : BitVec 1 := f.rm.extractLsb' 1 1
  let zf : BitVec 1 := f.rm.extractLsb' 0 1
  match f.fnQ with
  | 0x0 => f.ok (c0 && WellFormed (.post f.a f.b acc f.k m tr zf)) (.post f.a f.b acc f.k m tr zf)
  | 0x1 => f.ok (c0 && f.b == 0 && WellFormed (.posth f.a acc f.k m tr zf)) (.posth f.a acc f.k m tr zf)
  | 0x2 => f.ok (c0 && m == 0 && f.rm == 0 && WellFormed (.accrd f.a f.b acc f.k)) (.accrd f.a f.b acc f.k)
  | 0x3 => f.ok (c0 && m == 0 && f.rm == 0 && f.a == 0 && f.b == 0 && f.k == 0) (.accz acc)
  | 0x4 => f.ok (c0 && m == 0 && f.a == 0 && f.b == 0 && f.k == 0 && f.rm != 3) (.acccfg acc f.rm)
  | 0x5 => f.ok (c0 && m == 0 && f.rm == 0 && f.b == 0 && f.k == 0) (.opaq f.a acc)
  | _ => .error .fn

/-- Immediate majors 0x10 to 0x17 (R300); they have no Z field. -/
def immediate (f : WordFields) (n : BitVec 3) : Except DecodeError Instr :=
  let im := f.immI
  match n with
  | 0 => if f.b == 0 then .ok (.movi f.a f.kI im) else .error .field
  | 1 => if f.b == 0 then .ok (.movk f.a f.kI im) else .error .field
  | 2 => .ok (.addi f.a f.b f.kI im)
  | 3 => .ok (.muli f.a f.b f.kI im)
  | 4 => .ok (.andi f.a f.b f.kI im)
  | 5 => .ok (.ori f.a f.b f.kI im)
  | 6 => .ok (.xori f.a f.b f.kI im)
  | 7 => if im.extractLsb' 6 8 == 0 then .ok (.shi f.a f.b f.kI (im.extractLsb' 14 2) (im.extractLsb' 0 6)) else .error .field

/-- Branch majors (R312): CC in A. -/
def branch (f : WordFields) : Except DecodeError Instr :=
  if f.a == 0 then (if f.kB == 0 then .ok (.br f.offB) else .error .field)
  else if f.a.toNat ≤ 4 then .ok (.brCond f.a f.kB f.offB) else .error .field
/-- CALL. -/
def call (f : WordFields) : Except DecodeError Instr :=
  if f.a == 0 && f.kB == 0 then .ok (.call f.offB) else .error .field
/-- LOOP. -/
def loop (f : WordFields) : Except DecodeError Instr :=
  if f.a != 0 && f.kB == 0 then .ok (.loop f.a f.offB) else .error .field

end WordFields

/-- The decoder over the fields of a word: the major opcode selects the group (R296). -/
def decodeFields (f : WordFields) : Except DecodeError Instr :=
  match f.mo with
  | 0x01 => f.system
  | 0x02 => f.shapeGroup
  | 0x03 => f.integer
  | 0x04 => f.logic
  | 0x05 => if f.fn == 0 then f.abck .mad else .error .fn
  | 0x06 => f.compare 6 (fun x b c k => .cmp x b c k (f.fn.extractLsb' 0 3))
  | 0x07 => f.movement
  | 0x08 => f.maskGroup
  | 0x09 => f.float
  | 0x0A => f.fused
  | 0x0B => f.compare 4 (fun x b c k => .fcmp x b c k (f.fn.extractLsb' 0 2))
  | 0x0C => f.approx
  | 0x0D => f.conversion
  | 0x0E => f.reduction
  | 0x10 => f.immediate 0
  | 0x11 => f.immediate 1
  | 0x12 => f.immediate 2
  | 0x13 => f.immediate 3
  | 0x14 => f.immediate 4
  | 0x15 => f.immediate 5
  | 0x16 => f.immediate 6
  | 0x17 => f.immediate 7
  | 0x20 => f.memory .ld
  | 0x21 => f.memory .st
  | 0x22 => f.memory .ldb
  | 0x23 => f.fence
  | 0x24 => f.atom
  | 0x25 => f.fmttab
  | 0x26 => f.copy
  | 0x28 => f.stream
  | 0x29 => f.message
  | 0x2A => f.counter
  | 0x2B => f.matrix
  | 0x30 => f.branch
  | 0x31 => f.call
  | 0x32 => f.loop
  | _ => .error .major

/-- The instruction a word stands for, or why it is ILLEGAL (R297 steps 1 to 4). -/
def decode (w : BitVec 32) : Except DecodeError Instr := decodeFields (fieldsT w)

/-- An X-format word (R294): major 0x01. -/
def wordX (a b : BitVec 4) (fn : BitVec 6) (im : BitVec 12) : BitVec 32 := (0x01 : BitVec 6) ++ a ++ b ++ fn ++ im
/-- An S-format word: major 0x02. -/
def wordS (a : BitVec 4) (fmt : BitVec 5) (rows : BitVec 3) (cols : BitVec 6) (fn : BitVec 4) : BitVec 32 :=
  (0x02 : BitVec 6) ++ a ++ fmt ++ rows ++ cols ++ fn ++ (0 : BitVec 4)
/-- An I-format word. -/
def wordI (mo : BitVec 6) (a b : BitVec 4) (k : BitVec 2) (im : BitVec 16) : BitVec 32 := mo ++ a ++ b ++ k ++ im
/-- An M-format word. -/
def wordM (mo : BitVec 6) (a b c : BitVec 4) (k oc sc : BitVec 2) (fn : BitVec 6) : BitVec 32 :=
  mo ++ a ++ b ++ c ++ k ++ oc ++ sc ++ fn ++ (0 : BitVec 2)
/-- A Q-format word. -/
def wordQ (mo : BitVec 6) (a b c : BitVec 4) (n : BitVec 2) (m fn : BitVec 4) (v : BitVec 2) : BitVec 32 :=
  mo ++ a ++ b ++ c ++ n ++ m ++ fn ++ v ++ (0 : BitVec 2)
/-- A B-format word. -/
def wordB (mo : BitVec 6) (cc : BitVec 4) (k : BitVec 2) (off : BitVec 20) : BitVec 32 := mo ++ cc ++ k ++ off
/-- A mask number in a four-bit field (R304). -/
def maskField (m : MReg) : BitVec 4 := (0 : BitVec 2) ++ m

/-- The word of an instruction, or none for a step that has no word (R298 to R312). -/
def encode (i : Instr) : Option (BitVec 32) :=
  let t3 (mo : BitVec 6) (fn : BitVec 8) (a b c : TReg) (k : MReg) : Option (BitVec 32) := some (wordT mo a b c k fn 0 0)
  let tr (mo : BitVec 6) (fn : BitVec 8) (a b c : TReg) (k : MReg) (r : BitVec 2) : Option (BitVec 32) := some (wordT mo a b c k fn r 0)
  let at_ (fn : BitVec 5) (a b c : TReg) (k : MReg) (q s : BitVec 2) (o : BitVec 1) : Option (BitVec 32) :=
    some (wordM 0x24 a b c k q s (o ++ fn))
  match i with
  | .nop => some (wordX 0 0 0x00 0)
  | .done => some (wordX 0 0 0x01 0)
  | .ret => some (wordX 0 0 0x02 0)
  | .brk => some (wordX 0 0 0x03 0)
  | .trap im => some (wordX 0 0 0x04 im)
  | .rft t s => some (wordX 0 0 0x05 ((0 : BitVec 8) ++ t ++ s))
  | .csrr a c => some (wordX a 0 0x06 c)
  | .csrw b c => some (wordX 0 b 0x07 c)
  | .tnow a => some (wordX a 0 0x08 0)
  | .cinv b l => some (wordX 0 b 0x09 l)
  | .tlbi a b s k => some (wordX a b 0x0A ((0 : BitVec 9) ++ s ++ k))
  | .slotrd a s t n => some (wordX a 0 0x0B (s ++ t ++ n))
  | .slotwr b s t n => some (wordX 0 b 0x0C (s ++ t ++ n))
  | .ctxld b c => some (wordX 0 b 0x0D ((0 : BitVec 10) ++ c))
  | .ctxsv b c => some (wordX 0 b 0x0E ((0 : BitVec 10) ++ c))
  | .ctxev c => some (wordX 0 0 0x0F ((0 : BitVec 10) ++ c))
  | .frost im => some (wordX 0 0 0x10 ((0 : BitVec 4) ++ im))
  | .resume a b => some (wordX a b 0x11 0)
  | .harv a => some (wordX a 0 0x12 0)
  | .ckpt => some (wordX 0 0 0x13 0)
  | .pairsig a => some (wordX a 0 0x14 0)
  | .seed b => some (wordX 0 b 0x15 0)
  | .step b r s => some (wordX 0 b 0x16 ((0 : BitVec 9) ++ r ++ s))
  | .shapei a f r c => some (wordS a f r c 0)
  | .raggedi a r c => some (wordS a 0 r c 1)
  | .add a b c k => t3 0x03 0x00 a b c k
  | .sub a b c k => t3 0x03 0x01 a b c k
  | .adds a b c k => t3 0x03 0x02 a b c k
  | .addsu a b c k => t3 0x03 0x03 a b c k
  | .subs a b c k => t3 0x03 0x04 a b c k
  | .subsu a b c k => t3 0x03 0x05 a b c k
  | .mul a b c k => t3 0x03 0x06 a b c k
  | .mulh a b c k => t3 0x03 0x07 a b c k
  | .mulhu a b c k => t3 0x03 0x08 a b c k
  | .min a b c k => t3 0x03 0x09 a b c k
  | .max a b c k => t3 0x03 0x0A a b c k
  | .minu a b c k => t3 0x03 0x0B a b c k
  | .maxu a b c k => t3 0x03 0x0C a b c k
  | .abs a b k => t3 0x03 0x0D a b 0 k
  | .neg a b k => t3 0x03 0x0E a b 0 k
  | .avgu a b c k => t3 0x03 0x0F a b c k
  | .and a b c k => t3 0x04 0x00 a b c k
  | .or a b c k => t3 0x04 0x01 a b c k
  | .xor a b c k => t3 0x04 0x02 a b c k
  | .andn a b c k => t3 0x04 0x03 a b c k
  | .not a b k => t3 0x04 0x04 a b 0 k
  | .shl a b c k => t3 0x04 0x05 a b c k
  | .shr a b c k => t3 0x04 0x06 a b c k
  | .sar a b c k => t3 0x04 0x07 a b c k
  | .rol a b c k => t3 0x04 0x08 a b c k
  | .popc a b k => t3 0x04 0x09 a b 0 k
  | .clz a b k => t3 0x04 0x0A a b 0 k
  | .ctz a b k => t3 0x04 0x0B a b 0 k
  | .mov a b k => t3 0x07 0x00 a b 0 k
  | .trn a b k => t3 0x07 0x02 a b 0 k
  | .brow a b c k => t3 0x07 0x03 a b c k
  | .bcol a b c k => t3 0x07 0x04 a b c k
  | .xtr a b c k => t3 0x07 0x05 a b c k
  | .ins a b c k => t3 0x07 0x06 a b c k
  | .slc a b c k => t3 0x07 0x07 a b c k
  | .she a b c k => t3 0x07 0x08 a b c k
  | .rote a b c k => t3 0x07 0x09 a b c k
  | .perm a b c k => t3 0x07 0x0A a b c k
  | .lut16 a b c k => t3 0x07 0x0C a b c k
  | .sel a b c k => t3 0x07 0x0D a b c k
  | .fadd a b c k r => tr 0x09 0x00 a b c k r
  | .fsub a b c k r => tr 0x09 0x01 a b c k r
  | .fmul a b c k r => tr 0x09 0x02 a b c k r
  | .fmin a b c k => t3 0x09 0x03 a b c k
  | .fmax a b c k => t3 0x09 0x04 a b c k
  | .fabs a b k => t3 0x09 0x05 a b 0 k
  | .fneg a b k => t3 0x09 0x06 a b 0 k
  | .fcpys a b c k => t3 0x09 0x07 a b c k
  | .fdiv a b c k r => tr 0x09 0x08 a b c k r
  | .fsqrt a b k r => tr 0x09 0x09 a b 0 k r
  | .frnd a b k r => tr 0x09 0x0A a b 0 k r
  | .fscl a b c k r => tr 0x09 0x0B a b c k r
  | .fclass a b k => t3 0x09 0x0C a b 0 k
  | .fma a b c k r => tr 0x0A 0x00 a b c k r
  | .fms a b c k r => tr 0x0A 0x01 a b c k r
  | .fnma a b c k r => tr 0x0A 0x02 a b c k r
  | .frcp a b k => t3 0x0C 0x00 a b 0 k
  | .frsq a b k => t3 0x0C 0x01 a b 0 k
  | .fexp2 a b k => t3 0x0C 0x02 a b 0 k
  | .flog2 a b k => t3 0x0C 0x03 a b 0 k
  | .cvt a b k r => tr 0x0D 0x00 a b 0 k r
  | .cvts a b k => t3 0x0D 0x01 a b 0 k
  | .cvtq a b k r => tr 0x0D 0x02 a b 0 k r
  | .cvtd a b k => t3 0x0D 0x03 a b 0 k
  | .mxsc a b c k r => tr 0x0D 0x04 a b c k r
  | .mxq a b c k => t3 0x0D 0x05 a b c k
  | .rsum a b k => t3 0x0E 0x00 a b 0 k
  | .frsum a b k r => tr 0x0E 0x01 a b 0 k r
  | .rmax a b k => t3 0x0E 0x02 a b 0 k
  | .rmin a b k => t3 0x0E 0x03 a b 0 k
  | .ramx a b c k => t3 0x0E 0x04 a b c k
  | .dot a b c k r => tr 0x0E 0x05 a b c k r
  | .scan a b k => t3 0x0E 0x06 a b 0 k
  | .fscan a b k r => tr 0x0E 0x07 a b 0 k r
  | .csum a b k => t3 0x0E 0x08 a b 0 k
  | .fcsum a b k r => tr 0x0E 0x09 a b 0 k r
  | .perm8 a b c k => t3 0x07 0x0B a b c k
  | .mad a b c k => t3 0x05 0x00 a b c k
  | .cmp x b c k f => some (wordT 0x06 (maskField x) b c k ((0 : BitVec 5) ++ f) 0 0)
  | .fcmp x b c k f => some (wordT 0x0B (maskField x) b c k ((0 : BitVec 6) ++ f) 0 0)
  | .zero a k => t3 0x07 0x01 a 0 0 k
  | .shape a b => t3 0x07 0x0E a b 0 0
  | .ragged a b => t3 0x07 0x0F a b 0 0
  | .gshape a b => t3 0x07 0x10 a b 0 0
  | .mand a b c => t3 0x08 0x00 (maskField a) (maskField b) (maskField c) 0
  | .mor a b c => t3 0x08 0x01 (maskField a) (maskField b) (maskField c) 0
  | .mxor a b c => t3 0x08 0x02 (maskField a) (maskField b) (maskField c) 0
  | .mnot a b => t3 0x08 0x03 (maskField a) (maskField b) 0 0
  | .mpop a b => t3 0x08 0x04 a (maskField b) 0 0
  | .mfst a b => t3 0x08 0x05 a (maskField b) 0 0
  | .mld a b => t3 0x08 0x06 (maskField a) b 0 0
  | .mst a b => t3 0x08 0x07 a (maskField b) 0 0
  | .mset a b => t3 0x08 0x08 (maskField a) b 0 0
  | .movi a k im => some (wordI 0x10 a 0 k im)
  | .movk a h im => some (wordI 0x11 a 0 h im)
  | .addi a b k im => some (wordI 0x12 a b k im)
  | .muli a b k im => some (wordI 0x13 a b k im)
  | .andi a b k im => some (wordI 0x14 a b k im)
  | .ori a b k im => some (wordI 0x15 a b k im)
  | .xori a b k im => some (wordI 0x16 a b k im)
  | .shi a b k o s => some (wordI 0x17 a b k (o ++ (0 : BitVec 8) ++ s))
  | .ld a b c k q s => some (wordM 0x20 a b c k q s 0)
  | .st a b c k q s => some (wordM 0x21 a b c k q s 0)
  | .ldb a b c k q s => some (wordM 0x22 a b c k q s 0)
  | .fence s m t => some (wordM 0x23 0 0 0 0 0 s (m ++ t))
  | .aadd a b c k q s o => at_ 0x00 a b c k q s o
  | .amin a b c k q s o => at_ 0x01 a b c k q s o
  | .amax a b c k q s o => at_ 0x02 a b c k q s o
  | .aminu a b c k q s o => at_ 0x03 a b c k q s o
  | .amaxu a b c k q s o => at_ 0x04 a b c k q s o
  | .aand a b c k q s o => at_ 0x05 a b c k q s o
  | .aor a b c k q s o => at_ 0x06 a b c k q s o
  | .axor a b c k q s o => at_ 0x07 a b c k q s o
  | .aswp a b c k q s o => at_ 0x08 a b c k q s o
  | .acas a b c k q s o => at_ 0x09 a b c k q s o
  | .aincb a b c k q s o => at_ 0x0A a b c k q s o
  | .afadd a b c k q s o => at_ 0x0B a b c k q s o
  | .fmttab b q s => some (wordM 0x25 0 b 0 0 q s 0)
  | .copy a b c => some (wordM 0x26 a b c 0 0 0 0)
  | .strm a b => some (wordQ 0x28 a b 0 0 0 0x0 0)
  | .strmx a b => some (wordQ 0x28 a b 0 0 0 0x1 0)
  | .strms a b => some (wordQ 0x28 a b 0 0 0 0x2 0)
  | .strma a b => some (wordQ 0x28 a b 0 0 0 0x3 0)
  | .sclose a => some (wordQ 0x28 a 0 0 0 0 0x4 0)
  | .sstat a b => some (wordQ 0x28 a b 0 0 0 0x5 0)
  | .send a b c n m v => some (wordQ 0x29 a b c n m 0x0 v)
  | .sendr a b c n m v => some (wordQ 0x29 a b c n m 0x1 v)
  | .sendat a b c n m v => some (wordQ 0x29 a b c n m 0x2 v)
  | .reply b c n m v => some (wordQ 0x29 0 b c n m 0x3 v)
  | .fwd a b m v => some (wordQ 0x29 a b 0 0 m 0x4 v)
  | .hdr b => some (wordQ 0x29 0 b 0 0 0 0x5 0)
  | .cinc a b c m v => some (wordQ 0x2A a b c 0 m 0x0 v)
  | .cset b c => some (wordQ 0x2A 0 b c 0 0 0x1 0)
  | .cget a c => some (wordQ 0x2A a 0 c 0 0 0x2 0)
  | .carm b c => some (wordQ 0x2A 0 b c 0 0 0x3 0)
  | .fset a c m v => some (wordQ 0x2A a 0 c 0 m 0x4 v)
  | .fclr c => some (wordQ 0x2A 0 0 c 0 0 0x5 0)
  | .twen b c x => some (wordQ 0x2A 0 b c ((0 : BitVec 1) ++ x) 0 0x6 0)
  | .tmr b t => some (wordQ 0x2A 0 b (maskField t) 0 0 0x7 0)
  | .post a b c n m t z => some (wordQ 0x2B a b ((0 : BitVec 1) ++ c) n m 0x0 (t ++ z))
  | .posth a c n m t z => some (wordQ 0x2B a 0 ((0 : BitVec 1) ++ c) n m 0x1 (t ++ z))
  | .accrd a b c n => some (wordQ 0x2B a b ((0 : BitVec 1) ++ c) n 0 0x2 0)
  | .accz c => some (wordQ 0x2B 0 0 ((0 : BitVec 1) ++ c) 0 0 0x3 0)
  | .acccfg c v => some (wordQ 0x2B 0 0 ((0 : BitVec 1) ++ c) 0 0 0x4 v)
  | .opaq a c => some (wordQ 0x2B a 0 ((0 : BitVec 1) ++ c) 0 0 0x5 0)
  | .br o => some (wordB 0x30 0 0 o)
  | .brCond c k o => some (wordB 0x30 c k o)
  | .call o => some (wordB 0x31 0 0 o)
  | .loop c o => some (wordB 0x32 c 0 o)
  | _ => none

/-- What the decoder reads from an instruction whose bits are w (R293): one 32-bit word, little-endian in memory, so
bit 0 of w is bit 0 of the word. -/
def decodeTableWord (nbits w : Nat) : Option Instr :=
  if nbits = 32 then (decode (BitVec.ofNat 32 w)).toOption else none

end Sys2Proof
end

