-- ==== Sys2Proof/Machine/Waits.lean ====
section
/-! DEFINITION. What step asks of a state: which slot may issue (04 R97, 05 R114), the word it fetches (05 R150), the events that
are due inside the part and the commands that firmware performs (log 2), and what the passing of a cycle changes (01 R17, R52, 04 R93, R98,
09 R235). -/

namespace Sys2Proof.Machine

/-- Is the cause of a wait over, so that the slot is READY again (R97)? Waits with no entry here are tried in each cycle. -/
def waitOver (s : State) (c : CoreId) (i : BitVec 2) (w : Wait) : Bool :=
  let x := s.slot c i
  let k := s.cluster (clusterOf c)
  match w with
  | .code asid line =>
    (codeLine s (clusterOf c) asid line).isSome || (k.codeWaits.any fun q => q.1 == asid && q.2.1 == line && q.2.2.isSome)
      || !(k.codeWaits.any fun q => q.1 == asid && q.2.1 == line)
  | .xlate asid vpn => mayRetry s (clusterOf c) (.slot c i) asid vpn
  | .edges ids => !ids.any (outstanding s)
  | .remote id => s.rems.any fun r => r.id == id && r.reply.isSome
  | .accCfg a => a.isSome || x.trailing
  | .drain => (ownEvents s (.slot c i x.uid)).isEmpty
  | .tlbi _ _ _ => false
  | .ctxld n => match s.ctxAt c n with
    | none => true
    | some y => y.st == .active
  | .harv j => !((s.job j).map (·.harvesting)).getD false
  | .step d t => stepOver s d t
  | .memory ids => ids.all fun id =>
      (s.rets.any fun r => r.id == id && r.owner == .slot c i x.uid) || (s.rems.any fun r => r.id == id && r.reply.isSome)
  | .done => false
  | _ => true

/-- What a slot finds at its program counter. -/
inductive Fetched where
  | word (w : BitVec 32)
  | tagged
  | miss
  | fault (c : Cause) (addr : BitVec 52)
deriving DecidableEq, Repr

/-- The context of a slot. -/
def ctxOfSlot (s : State) (c : CoreId) (i : BitVec 2) : Ctx := (s.ctxAt c (s.slot c i).ctx).getD Ctx.reset

/-- The instruction word at a slot's program counter, from its cluster's code cache (R150, R293). -/
def fetch (s : State) (c : CoreId) (i : BitVec 2) : Fetched :=
  let k := clusterOf c
  let x := s.slot c i
  let asid := (ctxOfSlot s c i).asid
  match codeLine s k asid x.pc with
  | some l => if l.tag then .tagged else .word ((l.bytes >>> (8 * (x.pc.toNat % 64))).setWidth 32)
  | none =>
    match (s.cluster k).codeWaits.find? fun w => w.1 == asid && w.2.1 == x.pc &&& ~~~(0x3F : BitVec 48) with
    | some (_, _, some (cause, a)) => .fault cause a
    | _ => .miss

/-- The slot waits for its line (R97, R150). -/
def fetchMiss (s : State) : State :=
  let asid := s.myCtx.asid
  let pc := s.me.pc
  stall (askLine s (clusterOf s.cur.1) asid pc) (.code asid (pc &&& ~~~(0x3F : BitVec 48)))

/-- The trap of a fetch (R142, R146, R233): TRAPADDR is the instruction's address, or for XLATE_UE a SYSTEM pointer to the
entry. -/
def fetchTrap (s : State) (cause : Cause) (a : BitVec 52) : State :=
  let s := dropLine s (clusterOf s.cur.1) s.myCtx.asid s.me.pc
  takeTrap s s.cur.1 s.cur.2 cause (if cause = .xlateUe then sysPtr a else s.me.pc.setWidth 64) s.me.pc 0

/-- A slot of a core issues in this cycle: the round goes on behind it (R97). -/
def beginIssue (s : State) (c : CoreId) (i : BitVec 2) : State :=
  ({ s with cur := (c, i) }).updCore c fun k => { k with rr := i + 1, issued := s.clk.cycle + 1 }

/-- May a slot be offered the issue of this cycle (R97, R98)? One whose budget has ended goes on to its next boundary or row restart point. -/
def mayIssue (s : State) (c : CoreId) (i : BitVec 2) : Bool :=
  let x := s.slot c i
  (x.budget != 0 || x.stepping.isSome || x.trailing || !atBoundary x.st) && (match x.st with
    | .ready => true
    | .stalled w => waitOver s c i w
    | _ => false)

/-- Slots of a core in the order of its round (R97). -/
def roundOf (k : Core) : List (BitVec 2) := [k.rr, k.rr + 1, k.rr + 2, k.rr + 3]

/-- Slots that are offered the next issue: of every core that has not issued in this cycle and is not gated, in its round. -/
def issuable (s : State) : List (CoreId × BitVec 2) :=
  (s.cores.filter fun (p : Nat × Core) => decide (p.2.issued ≤ s.clk.cycle) && !gated s (clusterOf (BitVec.ofNat 20 p.1))).flatMap
    fun (p : Nat × Core) => ((roundOf p.2).filter (mayIssue s (BitVec.ofNat 20 p.1))).map fun i => (BitVec.ofNat 20 p.1, i)

/-- Has an offered issue come to nothing: the slot waits as before, and nothing else has changed? -/
def idle (s t : State) : Bool :=
  (match (s.slot t.cur.1 t.cur.2).st with
    | .stalled _ => true
    | _ => false) && { t with cur := s.cur, cores := s.cores } == s && (t.core t.cur.1).slots == (s.core t.cur.1).slots
      && (t.core t.cur.1).ctxs == (s.core t.cur.1).ctxs && (t.core t.cur.1).out == (s.core t.cur.1).out
      && (t.core t.cur.1).timed == (s.core t.cur.1).timed

/-- Events of a core that may be due. -/
def coreEvents (s : State) (c : CoreId) (k : Core) : List Instr :=
  let slots := slotIds.flatMap fun i =>
    let x := k.slot i
    match x.st with
    | .free => []
    | .launching _ => if x.trailing then [] else [Instr.handlerLaunch c i]
    | .trapped => if x.allowance = 0 then [.trapAllowanceExpiry c i] else []
    | .stalled (.tlbi _ _ _) => [.tlbiComplete c i]
    | .stalled (.accCfg none) => .acccfgAnswer c i :: (if x.budget = 0 then [.budgetExhausted c i] else [])
    | _ => if x.budget = 0 then [.budgetExhausted c i] else []
  let ctxs := slotIds.flatMap fun i => match k.ctx i with
    | none => []
    | some x =>
      let d := match s.dir c x.job with
        | some d => if d.diverting then [Instr.arrivalRingDrain c i] else []
        | none => []
      match x.st with
      | .active => d
      | .saving => [.evictionDrained c i, .evictionComplete c i]
      | .restoring => [.restoreComplete c i]
  let trig := k.ctxs.toList.any fun o => match o with
    | some x => x.trig.toList.any trigOn
    | none => false
  let old := (k.queue.zipIdx.filter fun p => decide (2 ^ 20 ≤ p.1.w) && p.1.msg.sel == 0xFFF).map fun p => Instr.unclaimedTagTimeout c p.2
  (if k.queue.isEmpty && !trig then [] else [.dispatch c]) ++ slots ++ ctxs ++ (if k.timed.isEmpty then [] else [.sendatInject c]) ++ old

/-- Events of a cluster's engines, none while it is gated (R249). -/
def engineEvents (k : ClusterId) (q : Cluster) : List Instr :=
  if q.gate.isSome then []
  else
    let streams := q.ectxs.flatMap fun e => e.streams.flatMap fun r =>
      [Instr.streamRowReturn k r.uid, .fennelRowRequest k r.uid] ++ (if r.st = .closing then [.writeStreamCompletion k r.uid] else [])
    let places := q.ectxs.flatMap fun e => match e.st with
      | .draining _ => [Instr.drainAllowanceExpiry k e.core e.ctx]
      | .parking => [.parkImageWritten k e.core e.ctx]
      | .restoring => [.parkImageRead k e.core e.ctx]
      | _ => []
    let posts := ((q.heldPosts.map fun e => (e.core, e.slot)).eraseDups).map fun p => Instr.postAccept p.1 p.2
    let fires := (List.range q.island.length).map fun n => Instr.islandEntryFire k n
    streams ++ places ++ (if q.wants.isEmpty then [] else [.fennelServiceGrant k]) ++ posts ++ fires
      ++ q.copies.map fun d => .copySector k d.uid

/-- Events of a cluster that its gate does not stop: walks, fills, the gate itself. -/
def clusterEvents (s : State) (k : ClusterId) (q : Cluster) : List Instr :=
  -- a write to a committed page waits for its copy, so its walk says nothing new (R284)
  let walks := (q.misses.filter fun m => !m.served && !(m.write && (match tlbLook s k m.asid (m.vpn ++ (0 : BitVec 16)) with
      | some t => t.w && t.c && (asidEntry s m.asid).harvest
      | none => false))).map fun m => (m.asid, m.vpn)
  (walks.eraseDups.map fun p => Instr.pageWalk k p.1 p.2)
    ++ (q.codeWaits.filter fun w => w.2.2.isNone).map (fun w => .codeCacheFill k w.1 w.2.1)
    ++ (if q.gateAt.isSome then [.clockGate k] else []) ++ (if q.gate.isSome then [.clockGateEnd k] else [])
    ++ engineEvents k q

/-- The event by which a message that has reached its NI is taken (R74). -/
def arrivalOf (id : Nat) (m : Msg) : Instr :=
  match m.kind.toNat with
  | 1 => .counterAdd id
  | 2 => .flagSet id
  | 3 => .nack id
  | 4 => .spaceNotice id
  | 5 => .completion id
  | 6 => .topologyEvent id
  | 7 => .faultEvent id
  | 9 => .retainAcknowledgement id
  | 10 => .undeliverable id
  | 11 => .builtinReply id
  | _ => .handlerMessageArrival id

/-- The shorter way round a ring of 1,024 (R105). -/
def shorter (from_ to_ : Nat) : Bool := decide ((to_ + 1024 - from_) % 1024 ≤ 512)

/-- What may become of a message in the mesh. -/
def flightEvents (s : State) (f : Flight) : List Instr :=
  if f.host then [.hostMessage f.id]
  else
    match targetOf s f.msg with
    | none => [.lamconPacketSend f.id]
    | some t =>
      if f.x ≠ meshX t then [.routerForward f.id (shorter f.x (meshX t))]
      else if f.y ≠ meshY t then [.routerForward f.id (shorter f.y (meshY t))]
      else if forGateway s f.msg then [.lamconPacketSend f.id]
      else [arrivalOf f.id f.msg]

/-- What may become of a memory event. -/
def memoryEvents (e : MemEv) : List Instr :=
  if e.arrived.isNone then [.memoryEventPerform e.id] else if vaultBase ≤ e.key then [.sorrelApply e.id []] else [.hbmAtomicApply e.id]

/-- What may become of a directory entry. -/
def dirEvents (d : Dir) : List Instr :=
  (d.holds.map fun h => Instr.nackHoldTimeout d.core d.job h.part h.core)
    ++ ((d.retained.filter fun r => decide (2 ^ 22 ≤ r.age)).map fun r => .retainTimeout d.core d.job r.msg.seq)

/-- The context slot that firmware frees first for a context that is to come back (log 6). -/
def victim (s : State) (c : CoreId) : BitVec 2 :=
  (slotIds.find? fun i => match s.ctxAt c i with
    | some x => x.st == .active && !x.frozen && x.job != 0
    | none => true).getD 0

/-- What may become of a job. -/
def jobEvents (j : Job) : List Instr :=
  (j.frost.waiting.map fun c => Instr.frostWaveArrival c j.id)
    ++ (if j.frost.resume.isSome || !j.frost.resuming.isEmpty then [.resumeInstant j.id] else [])
    ++ (if j.started then ((List.range j.initial.length).filter fun n => !j.injected.contains n).map (fun n => .initialMessageInject j.id n) else [])
    ++ (j.fwHolds.map fun h => .nackHoldTimeout 0 j.id h.part h.core)
    ++ (match j.mapWait with
      | some w => [.map w.1 [] [] w.2]
      | none => [])

/-- A page that a write waits for is copied to the first frame that fits (R284). -/
def copyEvents (s : State) (m : Miss) : List Instr :=
  let va : BitVec 48 := m.vpn ++ (0 : BitVec 16)
  match jobOfAsid s m.asid with
  | none => []
  | some x =>
    match walkFrom s va 4 1 (asidEntry s m.asid).root.toNat [] with
    | .fault _ _ => []
    | .leaf l _ p _ =>
      let t := tlbOf m.asid va l p.raw
      if m.write && t.c && (asidEntry s m.asid).harvest then [.copyOnWrite m.asid m.vpn ((copyFrame s x t.size).getD 0)] else []

/-- The event by which a gateway performs a request (R41). -/
def requestEvent (n : Nat) (m : Msg) : Instr := if m.sel = 2 then .remoteStore n else if m.sel = 3 then .remoteAtomic n else .remoteLoad n

/-- Events of the links, the gateways, the windows and the supply. -/
def edgeEvents (s : State) : List Instr :=
  let ports := (List.range 12).flatMap fun p =>
    let x := portAt s p
    (if x.st = 2 ∧ x.lastThyme + 4000 ≤ s.now.toNat then [Instr.thymeExchange (BitVec.ofNat 4 p)] else [])
      ++ (if x.keWait ∧ x.keSince + 10000000 ≤ s.now.toNat then [.keyEstablishmentTimeout (BitVec.ofNat 4 p)] else [])
  let windows := s.eth.windows.flatMap fun (p : Nat × Window) =>
    (if p.2.open_ ∧ (p.2.closing ∨ p.2.pendingRecs ≠ []) then [Instr.mailboxRecordWrite (BitVec.ofNat 12 p.1)] else [])
      ++ (if p.2.open_ ∧ p.2.fresh ≠ [] then [.windowRecord (BitVec.ofNat 12 p.1)] else [])
      ++ (p.2.nacked.map fun q => .nackHoldTimeout q.1.srcCore q.1.job q.1.dstPart q.2.1)
  let pairs := s.eth.qps.flatMap fun (p : Nat × Qp) => p.2.held.take 1
  (if s.power.refillAt ≤ s.clk.cycle then [Instr.creditRefill] else []) ++ (if !s.power.warn && supplyFails s then [.powerFailWarning] else []) ++ ports
    ++ (s.lam.requests.zipIdx.map fun p => requestEvent p.2 p.1.msg) ++ ((s.lam.outs.filter (·.held)).map fun o => .heldPacketRelease o.gw o.part) ++ windows ++ pairs
    ++ s.fw.relays.map Instr.frostControlMessage

/-- Events inside the part that may be due, in the order in which the model tries them (log 2). -/
def internalEvents (s : State) : List Instr :=
  let cores := s.cores.flatMap fun (p : Nat × Core) => coreEvents s (BitVec.ofNat 20 p.1) p.2
  let clusters := s.clusters.flatMap fun (p : Nat × Cluster) => (p.2.misses.flatMap (copyEvents s)) ++ clusterEvents s (BitVec.ofNat 12 p.1) p.2
  cores ++ (s.fw.jobs.flatMap jobEvents) ++ (s.launches.map fun r => .trailerLaunch r.core r.slot)
    ++ (s.pairs.map fun p => .signatureCompare p.core p.slot) ++ (s.rets.map fun r => .loadDataReturn r.id)
    ++ (s.memq.flatMap memoryEvents) ++ clusters ++ (s.fw.dirs.flatMap dirEvents)
    ++ (s.fw.requests.map fun r => .residencyRequest r.1 r.2 (victim s r.1)) ++ (s.mesh.flights.flatMap (flightEvents s)) ++ edgeEvents s

/-- A command that firmware performs without a choice (R67): those with one come as occurrences (log 6). A selector that R69 does not name is
answered with status 2 (log 6). -/
def performCommand (c : Cmd) (s : State) : Host.Outcome State Fault Refusal :=
  match c.sel.toNat with
  | 0x101 => execCloseWindow c s
  | 0x110 => execCreateJob c s
  | 0x114 => execStart c s
  | 0x115 => execEndJob c s
  | 0x120 => execHarvest c s
  | 0x121 => execCommit c s
  | 0x130 => execFrostCommand c s
  | 0x131 => execFrostRead c s
  | 0x132 => execStepCommand c s
  | 0x133 => execResumeCommand c s
  | 0x134 => execScanRead c s
  | 0x140 => execHealth c s
  | 0x141 => execAttest c s
  | 0x142 => execTransport c s
  | 0x143 => execImageCommit c s
  | 0x144 => execDomain c s
  | 0x145 => execTime c s
  | n => if [0x100, 0x111, 0x112, 0x113, 0x122].contains n || !due s c n then .next s else .next (reply s c 2 0 [])

/-- Does a slot's cycle count against its budget (R97, R15, R249, R257)? -/
def counts (s : State) (c : CoreId) (x : Slot) : Bool :=
  !gated s (clusterOf c) && x.stepping.isNone && (match x.st with
    | .ready => true
    | .stalled .metered => false
    | .stalled (.harv _) => false
    | .stalled _ => true
    | _ => false)
/-- A slot one cycle later: its budget, or its trap allowance unless its context is frozen (R98, R235). -/
def tickSlot (s : State) (c : CoreId) (x : Slot) : Slot :=
  let frozen := ((s.ctxAt c x.ctx).map (·.frozen)).getD false
  { x with
    budget := if counts s c x then x.budget - 1 else x.budget
    allowance := if x.st = .trapped ∧ !frozen ∧ !gated s (clusterOf c) then x.allowance - 1 else x.allowance }
/-- A context one cycle later: w of its trigger words (R93). -/
def tickCtx (s : State) (c : CoreId) (i : BitVec 2) (k : Ctx) : Ctx :=
  let w (n : Fin 32) : Nat :=
    if trigOn k.trig[n] && k.st == .active && conditionHolds s c i k k.trig[n] then Nat.min (2 ^ 32 - 1) (k.held[n] + 1) else 0
  if k.frozen || gated s (clusterOf c) then k else { k with held := Vector.ofFn w }
/-- A core one cycle later: w of its messages (R93). -/
def tickCore (s : State) (c : CoreId) (k : Core) : Core :=
  let still (i : BitVec 2) : Bool := gated s (clusterOf c) || (match k.ctx i with
    | some x => x.frozen
    | none => false)
  let ctx (i : Fin 4) : Option Ctx := (k.ctxs[i]).map (tickCtx s c (BitVec.ofFin i))
  { k with
    slots := k.slots.map (tickSlot s c)
    ctxs := Vector.ofFn ctx
    queue := k.queue.map fun e => if still e.ctx then e else { e with w := Nat.min (2 ^ 32 - 1) (e.w + 1) } }
/-- Is a directory entry's context frozen: as it stands on its core, else as its job is? -/
def dirFrozen (s : State) (d : Dir) : Bool := match ((s.core d.core).ctxOf d.job).bind (s.ctxAt d.core) with
  | some k => k.frozen
  | none => (frostState s d.job).1
/-- A context's records one cycle later, not while it is frozen: w of those in its arrival ring (R93), the age of injected retained ones (R274). -/
def tickDir (s : State) (d : Dir) : Dir :=
  if (d.ring.isEmpty && d.retained.isEmpty) || dirFrozen s d then d
  else { d with
    ring := d.ring.map fun r => { r with w := Nat.min (2 ^ 32 - 1) (r.w + 1) }
    retained := d.retained.map fun r => if r.sent then { r with age := r.age + 1 } else r }

/-- Thyme after a cycle of 0.25 ns lengthened by the stretch (R7, R17): in 1/768 ns a cycle is 192 plus the stretch. While the
part is ahead of the reference, every second tick is left out (R52, log 3). -/
def tickClk (k : Clk) (stretch : Nat) : Clk :=
  let f := k.frac + 192 + stretch
  if f < 768 then { k with cycle := k.cycle + 1, frac := f }
  else if k.hold ≠ 0 ∧ k.cycle / 4 % 2 = 0 then { k with cycle := k.cycle + 1, frac := f - 768, hold := k.hold - 1 }
  else { k with cycle := k.cycle + 1, frac := f - 768, thyme := k.thyme + 1 }

/-- One cycle passes. -/
def tick (s : State) : State :=
  { s with
    clk := tickClk s.clk s.power.stretch.toNat
    cores := s.cores.map fun (p : Nat × Core) => (p.1, tickCore s (BitVec.ofNat 20 p.1) p.2)
    fw := { s.fw with dirs := s.fw.dirs.map (tickDir s) } }

/-- The instruction of a fetched word; a word of none is the event ILLEGAL_ENCODING (R297). -/
def instrOf (w : BitVec 32) : Instr := match decode w with
  | .ok i => i
  | .error _ => .illegalEncoding w

/-- A next state carried on; a fault or a refusal stays. -/
def onNext (f : State → State) : Host.Outcome State Fault Refusal → Host.Outcome State Fault Refusal
  | .next s => .next (f s)
  | .fault r => .fault r
  | .refused r => .refused r

/-- The scheduled occurrence that is due, taken off the list. -/
def dueSched (s : State) : Option (Instr × State) :=
  match s.sched with
  | [] => none
  | e :: l => if e.at_ ≤ s.clk.cycle then some (e.ev, { s with sched := l }) else none

/-- The code-cache line of a word placed from outside (log 5): line 0 of ASID 0. -/
def placedLine (w : Nat) : CodeLine := { asid := 0, va := 0, bytes := BitVec.ofNat 512 w, tag := false }

/-- A word placed where step fetches next (log 5): slot 0 of core 0.0.0 is READY at address 0, its line in the code cache, with
firmware's context in context slot 0, nothing scheduled. -/
def placeWord (s : State) (w : Nat) : State :=
  let s := { s with sched := [], cur := (0, 0) }
  let s := s.updCluster 0 fun q => { q with gate := none, code := placedLine w :: q.code.filter fun l => !(l.asid == 0 && l.va == 0) }
  s.updCore 0 fun k =>
    let k := k.setCtx 0 (some Ctx.reset)
    let k := k.setSlot 0 { Slot.reset with st := .ready, uid := 1, ctx := 0, pc := 0, budget := Config.defaultBudget, launchBudget := Config.defaultBudget }
    { k with rr := 0, issued := 0 }

end Sys2Proof.Machine
end

