-- ==== Sys2Proof/Machine/Step.lean ====
section
/-! DEFINITION. One step of the part (log 2): a scheduled occurrence that is due; else, where autorun says so, the first event inside the
part, or the first command of firmware, that changes anything; else the issue of one slot; else a cycle passes. -/

namespace Sys2Proof.Machine

/-- The first event that changes the state. -/
def firstEvent (s : State) : List Instr → Option (Host.Outcome State Fault Refusal)
  | [] => none
  | e :: l =>
    match exec e s with
    | .next t => if t = s then firstEvent s l else some (.next t)
    | r => some r

/-- The first command of firmware that changes the state. -/
def firstCommand (s : State) : List Cmd → Option (Host.Outcome State Fault Refusal)
  | [] => none
  | c :: l =>
    match performCommand c s with
    | .next t => if t = s then firstCommand s l else some (.next t)
    | r => some r

/-- What happens of itself (log 2). -/
def ownStep (s : State) : Option (Host.Outcome State Fault Refusal) :=
  if s.autorun then
    match firstEvent s (internalEvents s) with
    | some r => some r
    | none => firstCommand s s.fw.cmds
  else none

/-- A slot issues the instruction at its program counter (R97, R114, R293). -/
def issueSlot (s : State) (c : CoreId) (i : BitVec 2) : Host.Outcome State Fault Refusal :=
  match fetch s c i with
  | .word w => onNext (fun t => afterStep t c i) (exec (instrOf w) (beginIssue s c i))
  | .tagged => onNext (fun t => afterStep t c i) (exec (.illegalEncoding 0) (beginIssue s c i))
  | .miss => .next (fetchMiss (beginIssue s c i))
  | .fault cause a => .next (afterStep (fetchTrap (beginIssue s c i) cause a) c i)

/-- The first slot offered whose issue comes to anything. -/
def firstIssue (s : State) : List (CoreId × BitVec 2) → Option (Host.Outcome State Fault Refusal)
  | [] => none
  | (c, i) :: l =>
    match issueSlot s c i with
    | .next t => if idle s t then firstIssue s l else some (.next t)
    | r => some r

/-- One step. -/
def step (s : State) : Host.Outcome State Fault Refusal :=
  match dueSched s with
  | some (e, t) => exec e t
  | none =>
    match ownStep s with
    | some r => r
    | none =>
      match firstIssue s (issuable s) with
      | some r => r
      | none => .next (tick s)

/-- An instruction's word stored where step fetches next (log 5); an instruction is one 32-bit word. -/
def State.withFetchWord (s : State) (nbits w : Nat) : State := placeWord s (w % 2 ^ Nat.min nbits 32)

end Sys2Proof.Machine
end

