-- ==== Sys2Proof/Laws/Tables.lean ====
section
/-! SUPPORT. Laws of sparse tables and of memory: what a read gives after a write, and that memory keeps its canonical form. -/

namespace Sys2Proof.Machine

/-- What was put is found. -/
@[simp] theorem SMap.look_put_same {α : Type} (m : SMap α) (k : Nat) (v : α) : (SMap.put m k v).look k = some v := by
  induction m with
  | nil => simp [SMap.put, SMap.look]
  | cons p m ih =>
    obtain ⟨j, w⟩ := p
    by_cases h : j = k
    · subst h; simp [SMap.put, SMap.look]
    · by_cases g : k < j
      · simp [SMap.put, SMap.look, h, g]
      · simpa [SMap.put, SMap.look, h, g] using ih

/-- What was put elsewhere is not seen. -/
theorem SMap.look_put_other {α : Type} (m : SMap α) (k l : Nat) (v : α) (hne : k ≠ l) : (SMap.put m k v).look l = m.look l := by
  induction m with
  | nil => simp [SMap.put, SMap.look, hne]
  | cons p m ih =>
    obtain ⟨j, w⟩ := p
    by_cases h : j = k
    · subst h; simp [SMap.put, SMap.look, hne]
    · by_cases g : k < j
      · simp [SMap.put, SMap.look, h, g, hne]
      · by_cases e : j = l
        · subst e; simp [SMap.put, SMap.look, h, g]
        · simpa [SMap.put, SMap.look, h, g, e] using ih

/-- A canonical list holds nothing below its bound. -/
theorem memRead_below (m : List Host.Cell) (lo k : Nat) (h : memFrom lo m = true) (hk : k < lo) : memRead m k = 0 := by
  cases m with
  | nil => rfl
  | cons p m =>
    obtain ⟨j, w⟩ := p
    simp only [memFrom, Bool.and_eq_true, decide_eq_true_eq] at h
    have h1 : k ≠ j := by omega
    have h2 : k < j := by omega
    simp [memRead, h1, h2]

/-- A lower bound serves as well. -/
theorem memFrom_mono (m : List Host.Cell) (lo hi : Nat) (h : memFrom hi m = true) (hl : lo ≤ hi) : memFrom lo m = true := by
  cases m with
  | nil => rfl
  | cons p m =>
    obtain ⟨j, w⟩ := p
    simp only [memFrom, Bool.and_eq_true, decide_eq_true_eq] at h ⊢
    exact ⟨⟨by omega, h.1.2⟩, h.2⟩

/-- Storing a byte keeps the canonical form. -/
theorem memFrom_memWrite (m : List Host.Cell) (lo k : Nat) (v : Byte) (h : memFrom lo m = true) (hk : lo ≤ k) :
    memFrom lo (memWrite m k v) = true := by
  induction m generalizing lo with
  | nil =>
    by_cases hv : v = 0#8
    · simp [memWrite, hv, memFrom]
    · simp [memWrite, hv, memFrom, hk]
  | cons p m ih =>
    obtain ⟨j, w⟩ := p
    simp only [memFrom, Bool.and_eq_true, decide_eq_true_eq, bne_iff_ne, ne_eq, BitVec.ofNat_eq_ofNat] at h
    by_cases g : k < j
    · by_cases hv : v = 0#8
      · simp [memWrite, g, hv, memFrom, h]
      · simp only [memWrite, g, hv, memFrom, if_true, if_false, Bool.and_eq_true, decide_eq_true_eq, bne_iff_ne, ne_eq, BitVec.ofNat_eq_ofNat]
        exact ⟨⟨hk, not_false⟩, ⟨by omega, h.1.2⟩, h.2⟩
    · by_cases e : k = j
      · by_cases hv : v = 0#8
        · simp only [memWrite, e, hv, if_true]
          simpa [e, hv] using memFrom_mono m lo (j + 1) h.2 (by omega)
        · simp [memWrite, e, hv, memFrom, h]
      · simp only [memWrite, g, e, if_false, memFrom, Bool.and_eq_true, decide_eq_true_eq, bne_iff_ne, ne_eq]
        exact ⟨⟨h.1.1, h.1.2⟩, ih (j + 1) h.2 (by omega)⟩

/-- Storing a byte keeps memory canonical. -/
theorem wf_memWrite (m : List Host.Cell) (k : Nat) (v : Byte) (h : Memory.wf m = true) : Memory.wf (memWrite m k v) = true :=
  memFrom_memWrite m 0 k v h (Nat.zero_le k)

/-- A stored byte is read back. -/
theorem memRead_memWrite_same' (m : List Host.Cell) (lo k : Nat) (v : Byte) (h : memFrom lo m = true) : memRead (memWrite m k v) k = v := by
  induction m generalizing lo with
  | nil => by_cases hv : v = 0#8 <;> simp [memWrite, hv, memRead]
  | cons p m ih =>
    obtain ⟨j, w⟩ := p
    simp only [memFrom, Bool.and_eq_true, decide_eq_true_eq, bne_iff_ne, ne_eq, BitVec.ofNat_eq_ofNat] at h
    by_cases g : k < j
    · by_cases hv : v = 0#8
      · simp [memWrite, g, hv, memRead, Nat.ne_of_lt g]
      · simp [memWrite, g, hv, memRead]
    · by_cases e : k = j
      · by_cases hv : v = 0#8
        · simp only [memWrite, e, hv, if_true]
          simpa [e, hv] using memRead_below m (j + 1) j h.2 (by omega)
        · simp [memWrite, e, hv, memRead]
      · simpa [memWrite, g, e, memRead] using ih (j + 1) h.2

/-- A stored byte is read back. -/
theorem memRead_memWrite_same (m : List Host.Cell) (k : Nat) (v : Byte) (h : Memory.wf m = true) : memRead (memWrite m k v) k = v :=
  memRead_memWrite_same' m 0 k v h

/-- Other bytes stay. -/
theorem memRead_memWrite_other' (m : List Host.Cell) (lo k l : Nat) (v : Byte) (h : memFrom lo m = true) (hne : l ≠ k) :
    memRead (memWrite m k v) l = memRead m l := by
  induction m generalizing lo with
  | nil => by_cases hv : v = 0#8 <;> simp [memWrite, hv, memRead, hne]
  | cons p m ih =>
    obtain ⟨j, w⟩ := p
    simp only [memFrom, Bool.and_eq_true, decide_eq_true_eq, bne_iff_ne, ne_eq, BitVec.ofNat_eq_ofNat] at h
    by_cases g : k < j
    · by_cases hv : v = 0#8
      · simp [memWrite, g, hv]
      · by_cases q : l < k
        · have : l ≠ j := by omega
          have q' : l < j := by omega
          simp [memWrite, g, hv, memRead, hne, q, this, q']
        · simp [memWrite, g, hv, memRead, hne, q]
    · by_cases e : k = j
      · by_cases hv : v = 0#8
        · simp only [memWrite, e, hv, if_true]
          by_cases q : l < j
          · have hl : l ≠ j := by omega
            simp [memRead, hl, q]
            simpa [hv, e] using memRead_below m (j + 1) l h.2 (by omega)
          · have hl : l ≠ j := by omega
            simp [memRead, hl, q]
        · have hl : l ≠ j := by omega
          simp [memWrite, e, hv, memRead, hl]
      · by_cases q : l = j
        · simp [memWrite, g, e, memRead, q]
        · by_cases r : l < j
          · simp [memWrite, g, e, memRead, q, r]
          · simpa [memWrite, g, e, memRead, q, r] using ih (j + 1) h.2

/-- Other bytes stay. -/
theorem memRead_memWrite_other (m : List Host.Cell) (k l : Nat) (v : Byte) (h : Memory.wf m = true) (hne : l ≠ k) :
    memRead (memWrite m k v) l = memRead m l := memRead_memWrite_other' m 0 k l v h hne

/-- A fold of stores keeps memory canonical. -/
theorem wf_foldl {β : Type} (l : List β) (f : List Host.Cell → β → List Host.Cell)
    (hf : ∀ m b, Memory.wf m = true → Memory.wf (f m b) = true) (m : List Host.Cell) (h : Memory.wf m = true) :
    Memory.wf (l.foldl f m) = true := by
  induction l generalizing m with
  | nil => exact h
  | cons b l ih => exact ih (f m b) (hf m b h)

/-- Storing bytes keeps memory canonical. -/
theorem wf_memStore (m : List Host.Cell) (k : Nat) (l : List Byte) (h : Memory.wf m = true) : Memory.wf (memStore m k l) = true :=
  wf_foldl _ _ (fun m _ hm => wf_memWrite m _ _ hm) m h

/-- Dropping cells keeps memory canonical. -/
theorem memFrom_filter (m : List Host.Cell) (lo : Nat) (p : Host.Cell → Bool) (h : memFrom lo m = true) : memFrom lo (m.filter p) = true := by
  induction m generalizing lo with
  | nil => rfl
  | cons c m ih =>
    obtain ⟨j, w⟩ := c
    simp only [memFrom, Bool.and_eq_true, decide_eq_true_eq, bne_iff_ne, ne_eq, BitVec.ofNat_eq_ofNat] at h
    by_cases hp : p (j, w) = true
    · simp only [List.filter_cons, hp, if_true, memFrom, Bool.and_eq_true, decide_eq_true_eq, bne_iff_ne, ne_eq]
      exact ⟨h.1, ih (j + 1) h.2⟩
    · simp only [List.filter_cons, hp]
      exact memFrom_mono _ lo (j + 1) (ih (j + 1) h.2) (by omega)

/-- Dropping cells keeps memory canonical. -/
theorem wf_filter (m : List Host.Cell) (p : Host.Cell → Bool) (h : Memory.wf m = true) : Memory.wf (m.filter p) = true :=
  memFrom_filter m 0 p h

/-- Bytes outside those stored stay. -/
theorem memRead_memStore_outside (m : List Host.Cell) (k a : Nat) (l : List Byte) (h : Memory.wf m = true)
    (ha : a < k ∨ k + l.length ≤ a) : memRead (memStore m k l) a = memRead m a := by
  have key : ∀ (n : Nat) (m : List Host.Cell), Memory.wf m = true → (a < k + n ∨ k + n + l.length ≤ a ∨ a < k) →
      (a < k ∨ k + n + l.length ≤ a) →
      memRead ((l.zipIdx n).foldl (fun m p => memWrite m (k + p.2) p.1) m) a = memRead m a := by
    induction l with
    | nil => intro n m _ _ _; rfl
    | cons b l ih =>
      intro n m hm h1 h2
      simp only [List.zipIdx_cons, List.foldl_cons]
      rw [ih (by simp at ha ⊢; omega) (n + 1) _ (wf_memWrite _ _ _ hm) (by simp at h1 h2 ⊢; omega) (by simp at h2 ⊢; omega)]
      exact memRead_memWrite_other _ _ _ _ hm (by simp at h2; omega)
  exact key 0 m h (by omega) (by omega)

/-- The byte stored at each place is read back. -/
theorem memRead_memStore_inside (m : List Host.Cell) (k : Nat) (l : List Byte) (h : Memory.wf m = true) (i : Nat) (hi : i < l.length) :
    memRead (memStore m k l) (k + i) = l[i] := by
  have key : ∀ (l : List Byte) (n : Nat) (m : List Host.Cell), Memory.wf m = true → ∀ (i : Nat) (hi : i < l.length),
      memRead ((l.zipIdx n).foldl (fun m p => memWrite m (k + p.2) p.1) m) (k + n + i) = l[i] := by
    intro l
    induction l with
    | nil => intro n m _ i hi; simp at hi
    | cons b l ih =>
      intro n m hm i hi
      simp only [List.zipIdx_cons, List.foldl_cons]
      cases i with
      | zero =>
        have out : ∀ (l : List Byte) (n' : Nat) (m : List Host.Cell), Memory.wf m = true → k + n < k + n' →
            memRead ((l.zipIdx n').foldl (fun m p => memWrite m (k + p.2) p.1) m) (k + n) = memRead m (k + n) := by
          intro l
          induction l with
          | nil => intro n' m _ _; rfl
          | cons c l ihl =>
            intro n' m hm hn
            simp only [List.zipIdx_cons, List.foldl_cons]
            rw [ihl (n' + 1) _ (wf_memWrite _ _ _ hm) (by omega)]
            exact memRead_memWrite_other _ _ _ _ hm (by omega)
        simp only [Nat.add_zero, List.getElem_cons_zero]
        rw [out l (n + 1) _ (wf_memWrite _ _ _ hm) (by omega)]
        exact memRead_memWrite_same _ _ _ hm
      | succ i =>
        have := ih (n + 1) (memWrite m (k + n) b) (wf_memWrite _ _ _ hm) i (by simpa using hi)
        simpa [Nat.add_assoc, Nat.add_comm 1 i] using this
  exact key l 0 m h i hi

/-- Canonical lists one behind the other. -/
theorem memFrom_append (a b : List Host.Cell) (lo hi : Nat) (ha : memFrom lo a = true) (hk : ∀ c ∈ a, c.1 < hi) (hb : memFrom hi b = true)
    (hl : lo ≤ hi) : memFrom lo (a ++ b) = true := by
  induction a generalizing lo with
  | nil => exact memFrom_mono b lo hi hb hl
  | cons c a ih =>
    obtain ⟨j, w⟩ := c
    simp only [List.cons_append, memFrom, Bool.and_eq_true] at ha ⊢
    exact ⟨ha.1, ih (j + 1) ha.2 (fun c hc => hk c (by simp [hc])) (hk (j, w) (by simp))⟩

/-- The cells from a key on. -/
theorem memFrom_from (m : List Host.Cell) (lo hi : Nat) (h : memFrom lo m = true) :
    memFrom hi (m.filter fun c => decide (hi ≤ c.1)) = true := by
  induction m generalizing lo with
  | nil => rfl
  | cons c m ih =>
    obtain ⟨j, w⟩ := c
    simp only [memFrom, Bool.and_eq_true] at h
    by_cases g : hi ≤ j
    · simp only [List.filter_cons, g, decide_true, if_true, memFrom, Bool.and_eq_true, true_and]
      exact ⟨h.1.2, memFrom_filter m (j + 1) _ h.2⟩
    · simpa [List.filter_cons, g] using ih (j + 1) h.2

/-- The cells of bytes that stand in a row are canonical and lie where they stand. -/
theorem memFrom_bytes (l : List Byte) (k n : Nat) :
    memFrom (k + n) ((l.zipIdx n).filterMap fun (p : Byte × Nat) => if p.1 = 0 then none else some (k + p.2, p.1)) = true
      ∧ ∀ c ∈ (l.zipIdx n).filterMap (fun (p : Byte × Nat) => if p.1 = 0 then none else some (k + p.2, p.1)), c.1 < k + n + l.length := by
  induction l generalizing n with
  | nil => simp [memFrom]
  | cons b l ih =>
    have h := ih (n + 1)
    by_cases hb : b = 0#8
    · simp only [List.zipIdx_cons, List.filterMap_cons, BitVec.ofNat_eq_ofNat, hb, if_true] at h ⊢
      exact ⟨memFrom_mono _ _ _ h.1 (by omega), fun c hc => by have := h.2 c hc; simp; omega⟩
    · simp only [List.zipIdx_cons, List.filterMap_cons, BitVec.ofNat_eq_ofNat, hb, if_false] at h ⊢
      refine ⟨by simpa [memFrom, hb, Nat.add_assoc] using h.1, fun c hc => ?_⟩
      rcases List.mem_cons.mp hc with rfl | hc
      · simp
      · have := h.2 c hc; simp; omega

/-- Putting bytes in place of a range keeps memory canonical. -/
theorem wf_memPut (m : List Host.Cell) (k : Nat) (l : List Byte) (h : Memory.wf m = true) : Memory.wf (memPut m k l) = true := by
  unfold memPut
  rw [List.append_assoc]
  have hb := memFrom_bytes l k 0
  refine memFrom_append _ _ 0 k (memFrom_filter m 0 _ h) (fun c hc => by simpa using (List.mem_filter.mp hc).2) ?_ (Nat.zero_le k)
  exact memFrom_append _ _ k (k + l.length) hb.1 (fun c hc => by simpa using hb.2 c hc) (memFrom_from m 0 _ h) (by omega)

/-- Clearing a range keeps memory canonical. -/
theorem wf_clearRange (m : List Host.Cell) (k n : Nat) (h : Memory.wf m = true) : Memory.wf (clearRange m k n) = true := wf_filter m _ h

/-- Copying a range keeps memory canonical. -/
theorem wf_copyRange (m : List Host.Cell) (src dst n : Nat) (h : Memory.wf m = true) : Memory.wf (copyRange m src dst n) = true :=
  wf_foldl _ _ (fun _ _ hm => wf_memWrite _ _ _ hm) _ (wf_clearRange m dst n h)

/-- A cell that is not there reads as zero. -/
theorem memRead_absent (m : List Host.Cell) (k : Nat) (h : ∀ c ∈ m, c.1 ≠ k) : memRead m k = 0 := by
  induction m with
  | nil => rfl
  | cons c m ih =>
    obtain ⟨j, w⟩ := c
    have hj : k ≠ j := fun e => h (j, w) (by simp) e.symm
    by_cases g : k < j
    · simp [memRead, hj, g]
    · simpa [memRead, hj, g] using ih fun c hc => h c (by simp [hc])

/-- A cell that is there is what its key reads as. -/
theorem memRead_mem (m : List Host.Cell) (lo k : Nat) (v : Byte) (h : memFrom lo m = true) (hm : (k, v) ∈ m) : memRead m k = v := by
  induction m generalizing lo with
  | nil => simp at hm
  | cons c m ih =>
    obtain ⟨j, w⟩ := c
    simp only [memFrom, Bool.and_eq_true] at h
    rcases List.mem_cons.mp hm with e | hm
    · simp only [Prod.mk.injEq] at e; simp [memRead, e.1, e.2]
    · have hr := ih (j + 1) h.2 hm
      by_cases g : k ≤ j
      · have : memRead m k = 0 := memRead_below m (j + 1) k h.2 (by omega)
        have hne := memFrom_nonzero m (j + 1) k v h.2 hm
        exact absurd (hr.symm.trans this) hne
      · have : k ≠ j := by omega
        have q : ¬ k < j := by omega
        simpa [memRead, this, q] using hr
where
  memFrom_nonzero : ∀ (m : List Host.Cell) (lo k : Nat) (v : Byte), memFrom lo m = true → (k, v) ∈ m → v ≠ 0 := by
    intro m
    induction m with
    | nil => intro _ _ _ _ hm; simp at hm
    | cons c m ih =>
      obtain ⟨j, w⟩ := c
      intro lo k v h hm
      simp only [memFrom, Bool.and_eq_true, bne_iff_ne] at h
      rcases List.mem_cons.mp hm with e | hm
      · simp only [Prod.mk.injEq] at e; exact e.2 ▸ h.1.2
      · exact ih (j + 1) k v h.2 hm

/-- Two canonical memories read alike at a key at which they have the same cells. -/
theorem memRead_congr (m n : List Host.Cell) (k : Nat) (hm : Memory.wf m = true) (hn : Memory.wf n = true)
    (h : ∀ v, (k, v) ∈ m ↔ (k, v) ∈ n) : memRead m k = memRead n k := by
  by_cases e : ∃ v, (k, v) ∈ m
  · obtain ⟨v, hv⟩ := e
    rw [memRead_mem m 0 k v hm hv, memRead_mem n 0 k v hn ((h v).mp hv)]
  · rw [memRead_absent m k fun c hc g => e ⟨c.2, g ▸ hc⟩, memRead_absent n k fun c hc g => e ⟨c.2, (h c.2).mpr (g ▸ hc)⟩]

/-- Bytes outside those put stay. -/
theorem memRead_memPut_outside (m : List Host.Cell) (k a : Nat) (l : List Byte) (h : Memory.wf m = true)
    (ha : a < k ∨ k + l.length ≤ a) : memRead (memPut m k l) a = memRead m a := by
  refine memRead_congr _ _ a (wf_memPut m k l h) h fun v => ?_
  have hb := memFrom_bytes l k 0
  have low := memFrom_low _ _ hb.1
  simp only [memPut, List.mem_append, List.mem_filter, decide_eq_true_eq]
  constructor
  · rintro ((g | g) | g)
    · exact g.1
    · have h1 := hb.2 _ g; have h2 := low _ g; simp at h1 h2; omega
    · exact g.1
  · intro g
    rcases ha with ha | ha
    · exact .inl (.inl ⟨g, ha⟩)
    · exact .inr ⟨g, ha⟩
where
  memFrom_low : ∀ (m : List Host.Cell) (lo : Nat), memFrom lo m = true → ∀ c ∈ m, lo ≤ c.1 := by
    intro m
    induction m with
    | nil => simp
    | cons c m ih =>
      obtain ⟨j, w⟩ := c
      intro lo h d hd
      simp only [memFrom, Bool.and_eq_true, decide_eq_true_eq] at h
      rcases List.mem_cons.mp hd with rfl | hd
      · exact h.1.1
      · have := ih (j + 1) h.2 d hd; omega

/-- The byte put at each place is read back. -/
theorem memRead_memPut_inside (m : List Host.Cell) (k : Nat) (l : List Byte) (h : Memory.wf m = true) (i : Nat) (hi : i < l.length) :
    memRead (memPut m k l) (k + i) = l[i] := by
  by_cases hz : l[i] = 0#8
  · rw [hz]
    refine memRead_absent _ _ fun c hc g => ?_
    simp only [memPut, List.mem_append, List.mem_filter, decide_eq_true_eq, List.mem_filterMap] at hc
    rcases hc with (hc | ⟨p, hp, hc⟩) | hc
    · omega
    · obtain ⟨b, n⟩ := p
      have hget := List.getElem?_eq_some_iff.mp (List.mem_zipIdx_iff_getElem?.mp hp)
      by_cases hb : b = 0#8
      · simp [hb] at hc
      · simp only [BitVec.ofNat_eq_ofNat, hb, if_false, Option.some.injEq] at hc
        subst hc
        have hn : n = i := by simp at g; omega
        subst hn
        obtain ⟨_, he⟩ := hget
        exact hb (he.symm.trans hz)
    · omega
  · refine memRead_mem _ 0 _ _ (wf_memPut m k l h) ?_
    simp only [memPut, List.mem_append, List.mem_filterMap]
    refine .inl (.inr ⟨(l[i], i), List.mem_zipIdx_iff_getElem?.mpr (by simp [hi]), ?_⟩)
    simp [hz]

/-- n bytes of a number are n. -/
@[simp] theorem bytesOf_length (n v : Nat) : (bytesOf n v).length = n := by
  induction n generalizing v with
  | zero => rfl
  | succ n ih => simp [bytesOf, ih]
/-- Pieces of one length. -/
theorem length_flatMap_const {α β : Type} (l : List α) (f : α → List β) (n : Nat) (h : ∀ a, (f a).length = n) : (l.flatMap f).length = l.length * n := by
  induction l with
  | nil => simp
  | cons a l ih => rw [List.flatMap_cons, List.length_append, h, ih, List.length_cons]; ring
/-- An image has 2,048 B. -/
theorem Ctx.imageBytes_length (k : Ctx) : k.imageBytes.length = 2048 := by
  have w (l : List (BitVec 32)) : (l.flatMap fun w => bytesOf 4 w.toNat).length = l.length * 4 := length_flatMap_const _ _ _ fun _ => by simp
  have q (l : List (BitVec 64)) : (l.flatMap fun w => bytesOf 8 w.toNat).length = l.length * 8 := length_flatMap_const _ _ _ fun _ => by simp
  have c (l : List Nat) : (l.flatMap fun c => bytesOf 4 c).length = l.length * 4 := length_flatMap_const _ _ _ fun _ => by simp
  unfold Ctx.imageBytes
  simp only [List.length_append, w, q, c, bytesOf_length, Vector.length_toList, List.length_replicate, code8Words, List.length_map, List.length_range]
/-- The image that was written is read back. -/
theorem imageOf_writeImage (s : State) (d : Dir) (k : Ctx) (h : Memory.wf s.mem = true) : imageOf (writeImage s d k) d = k.imageBytes := by
  apply List.ext_getElem
  · simp [imageOf, memBytes, Ctx.imageBytes_length]
  · intro i h1 h2
    simpa [imageOf, memBytes, writeImage] using memRead_memPut_inside s.mem (d.saveKey 0) k.imageBytes h i h2

end Sys2Proof.Machine
end

