-- ==== Sys2Proof/Safety.lean ====
section
/-! DEFINITION. What counts as a safe state, and the terms in which the statements speak: when the running slot issues
alone, which instructions work in the tile ALU and on which operands, what such an instruction leaves unchanged. -/

namespace Sys2Proof.Machine

/-- Memory keeps its canonical form. -/
def State.Inv (s : State) : Prop := Memory.wf s.mem = true

/-- The running slot is no slot of a shadow pair (10 R276). -/
def State.alone (s : State) : Bool := !s.me.trailing && (leadPair s).isNone

/-- No earlier load still owes a tile of l its bytes (R325), and no stream binds one (R155). T0 is neither. -/
def State.clear (s : State) (l : List TReg) : Bool :=
  l.all fun a => !owedTile s.me a && (a == 0 || (boundTo s s.cur.1 s.cur.2 a).isNone)

/-- Every tile of l has the residue of its storage (R263). -/
def State.sound (s : State) (l : List TReg) : Bool := l.all fun a => (s.me.tileRaw a).residueOk

/-- What a slot becomes as an instruction of a job's handler retires at an address (R293): ready, counted, its
finished loads closed. -/
def Slot.retired (x : Slot) (pc : BitVec 48) (j : JobId) (now : Nat × Nat) : Slot :=
  { x with
    st := .ready, pc := pc, icount := x.icount + 1, popped := [], window := none, going := none, rowOnly := false,
    pend := endPends x.pend x.icount, hist := pruneHist now.1 ((j, now) :: x.hist) }

/-- Thyme and the cycle count. -/
def State.instant (s : State) : Nat × Nat := (s.now.toNat, s.clk.cycle)

/-- t is s but for the running slot: every other slot, core, context, queue, engine and byte of memory is as it was. -/
def OnlyMe (s t : State) : Prop :=
  { t with cores := s.cores } = s ∧ (∀ c, c ≠ s.cur.1 → t.core c = s.core c)
    ∧ { t.core s.cur.1 with slots := (s.core s.cur.1).slots } = s.core s.cur.1
    ∧ ∀ i, i ≠ s.cur.2 → t.slot s.cur.1 i = s.slot s.cur.1 i

/-- t is s but for the running slot, the time until which its tile ALU works, and its cluster's credits (R14). -/
def OnlyMeAlu (s t : State) : Prop :=
  { t with cores := s.cores, power := { t.power with credits := s.power.credits } } = s
    ∧ (∀ c, c ≠ s.cur.1 → t.core c = s.core c)
    ∧ { t.core s.cur.1 with slots := (s.core s.cur.1).slots, aluUntil := (s.core s.cur.1).aluUntil } = s.core s.cur.1
    ∧ (∀ i, i ≠ s.cur.2 → t.slot s.cur.1 i = s.slot s.cur.1 i)
    ∧ ∀ k, k ≠ clusterOf s.cur.1 → creditsOf t k = creditsOf s k

/-- An instruction of the tile ALU, of the shape and mask groups, SEED or LOOP's counter: its field A as a fault event
names it, the tiles it reads and writes, and what it computes. -/
structure AluForm where
  reads : List TReg
  writes : List TReg
  f : AluIn → AluRes

/-- The instructions that compute on the tiles, masks and LFSR of their slot alone (12 R331 to R347, 13 R356 to R374,
15 R417). -/
def aluForm (i : Instr) : Option AluForm :=
  match i with
  | .add a b c k => some ⟨[b, c], [a], aluInt2 opAdd a b c k⟩
  | .sub a b c k => some ⟨[b, c], [a], aluInt2 opSub a b c k⟩
  | .adds a b c k => some ⟨[b, c], [a], aluInt2 opAdds a b c k⟩
  | .addsu a b c k => some ⟨[b, c], [a], aluInt2 opAddsu a b c k⟩
  | .subs a b c k => some ⟨[b, c], [a], aluInt2 opSubs a b c k⟩
  | .subsu a b c k => some ⟨[b, c], [a], aluInt2 opSubsu a b c k⟩
  | .mul a b c k => some ⟨[b, c], [a], aluInt2 opMul a b c k⟩
  | .mulh a b c k => some ⟨[b, c], [a], aluInt2 opMulh a b c k⟩
  | .mulhu a b c k => some ⟨[b, c], [a], aluInt2 opMulhu a b c k⟩
  | .min a b c k => some ⟨[b, c], [a], aluInt2 opMin a b c k⟩
  | .max a b c k => some ⟨[b, c], [a], aluInt2 opMax a b c k⟩
  | .minu a b c k => some ⟨[b, c], [a], aluInt2 opMinu a b c k⟩
  | .maxu a b c k => some ⟨[b, c], [a], aluInt2 opMaxu a b c k⟩
  | .abs a b k => some ⟨[b], [a], aluInt1 opAbs a b k⟩
  | .neg a b k => some ⟨[b], [a], aluInt1 opNeg a b k⟩
  | .avgu a b c k => some ⟨[b, c], [a], aluInt2 opAvgu a b c k⟩
  | .and a b c k => some ⟨[b, c], [a], aluInt2 opAnd a b c k⟩
  | .or a b c k => some ⟨[b, c], [a], aluInt2 opOr a b c k⟩
  | .xor a b c k => some ⟨[b, c], [a], aluInt2 opXor a b c k⟩
  | .andn a b c k => some ⟨[b, c], [a], aluInt2 opAndn a b c k⟩
  | .not a b k => some ⟨[b], [a], aluInt1 opNot a b k⟩
  | .shl a b c k => some ⟨[b, c], [a], aluShift opShl a b c k⟩
  | .shr a b c k => some ⟨[b, c], [a], aluShift opShr a b c k⟩
  | .sar a b c k => some ⟨[b, c], [a], aluShift opSar a b c k⟩
  | .rol a b c k => some ⟨[b, c], [a], aluShift opRol a b c k⟩
  | .popc a b k => some ⟨[b], [a], aluInt1 opPopc a b k⟩
  | .clz a b k => some ⟨[b], [a], aluInt1 opClz a b k⟩
  | .ctz a b k => some ⟨[b], [a], aluInt1 opCtz a b k⟩
  | .mad a b c k => some ⟨[b, c, a], [a], aluMad a b c k⟩
  | .cmp a b c k f => if a = 0 then none else some ⟨[b, c], [], aluCmp a b c k f⟩
  | .movi a k n => some ⟨[], [a], aluMovi a k n⟩
  | .movk a h n => some ⟨[a], [a], aluMovk a h n⟩
  | .addi a b k n => some ⟨[b], [a], aluImm opAdd a b k (immS n)⟩
  | .muli a b k n => some ⟨[b], [a], aluImm opMul a b k (immS n)⟩
  | .andi a b k n => some ⟨[b], [a], aluImm opAnd a b k n.toNat⟩
  | .ori a b k n => some ⟨[b], [a], aluImm opOr a b k n.toNat⟩
  | .xori a b k n => some ⟨[b], [a], aluImm opXor a b k n.toNat⟩
  | .shi a b k o n => some ⟨[b], [a], aluShi a b k o n⟩
  | .mov a b k => some ⟨[b], [a], aluMov a b k⟩
  | .zero a k => some ⟨[], [a], aluZero a k⟩
  | .trn a b k => some ⟨[b], [a], aluTrn a b k⟩
  | .brow a b c k => some ⟨[b, c], [a], aluBrow a b c k⟩
  | .bcol a b c k => some ⟨[b, c], [a], aluBcol a b c k⟩
  | .xtr a b c k => some ⟨[b, c], [a], aluXtr a b c k⟩
  | .ins a b c k => some ⟨[b, c], [a], aluIns a b c k⟩
  | .slc a b c k => some ⟨[b, c], [a], aluSlc a b c k⟩
  | .she a b c k => some ⟨[b, c], [a], aluShe a b c k⟩
  | .rote a b c k => some ⟨[b, c], [a], aluRote a b c k⟩
  | .perm a b c k => some ⟨[b, c], [a], aluPerm a b c k⟩
  | .perm8 a b c k => some ⟨[b, b + 1, b + 2, b + 3, b + 4, b + 5, b + 6, b + 7, c], [a], aluPerm8 a b c k⟩
  | .lut16 a b c k => some ⟨[b, c], [a], aluLut16 a b c k⟩
  | .sel a b c k => some ⟨[b, c], [a], aluSel a b c k⟩
  | .shape a b => some ⟨[b], [a], aluShape a b⟩
  | .ragged a b => some ⟨[b], [a], aluRagged a b⟩
  | .gshape a b => some ⟨[b], [a], aluGshape a b⟩
  | .shapei a f r c => some ⟨[], [a], aluShapei a f r c⟩
  | .raggedi a r c => some ⟨[], [a], aluRaggedi a r c⟩
  | .mand a b c => if a = 0 then none else some ⟨[], [], aluMask2 (fun u v => u &&& v) a b c⟩
  | .mor a b c => if a = 0 then none else some ⟨[], [], aluMask2 (fun u v => u ||| v) a b c⟩
  | .mxor a b c => if a = 0 then none else some ⟨[], [], aluMask2 (fun u v => u ^^^ v) a b c⟩
  | .mnot a b => if a = 0 then none else some ⟨[], [], aluMnot a b⟩
  | .mpop a b => some ⟨[], [a], aluMpop a b⟩
  | .mfst a b => some ⟨[], [a], aluMfst a b⟩
  | .mst a b => some ⟨[], [a], aluMst a b⟩
  | .mld a b => if a = 0 then none else some ⟨[b], [], aluMld a b⟩
  | .mset a b => if a = 0 then none else some ⟨[b], [], aluMset a b⟩
  | .fadd a b c k r => some ⟨[b, c], [a], aluF2 addVal a b c k r⟩
  | .fsub a b c k r => some ⟨[b, c], [a], aluF2 (fun md u v => addVal md u (negVal v)) a b c k r⟩
  | .fmul a b c k r => some ⟨[b, c], [a], aluF2 (fun _ u v => mulVal u v) a b c k r⟩
  | .fmin a b c k => some ⟨[b, c], [a], aluF2 (fun _ u v => minNum u v) a b c k 0⟩
  | .fmax a b c k => some ⟨[b, c], [a], aluF2 (fun _ u v => maxNum u v) a b c k 0⟩
  | .fabs a b k => some ⟨[b], [a], aluSign (fun _ _ => false) a b b k⟩
  | .fneg a b k => some ⟨[b], [a], aluSign (fun u _ => !u) a b b k⟩
  | .fcpys a b c k => some ⟨[b, c], [a], aluSign (fun _ v => v) a b c k⟩
  | .fdiv a b c k r => some ⟨[b, c], [a], aluFdiv a b c k r⟩
  | .fsqrt a b k r => some ⟨[b], [a], aluF1 sqrtVal (rmodeOf r) 4 a b k⟩
  | .frnd a b k r => some ⟨[b], [a], aluF1 (rndVal (rmodeOf r)) (rmodeOf r) 1 a b k⟩
  | .fscl a b c k r => some ⟨[b, c], [a], aluFscl a b c k r⟩
  | .fclass a b k => some ⟨[b], [a], aluFclass a b k⟩
  | .fma a b c k r => some ⟨[b, c, a], [a], aluFused false false a b c k r⟩
  | .fms a b c k r => some ⟨[b, c, a], [a], aluFused false true a b c k r⟩
  | .fnma a b c k r => some ⟨[b, c, a], [a], aluFused true false a b c k r⟩
  | .fcmp a b c k f => if a = 0 then none else some ⟨[b, c], [], aluFcmp a b c k f⟩
  | .frcp a b k => some ⟨[b], [a], aluApprox rcpVal a b k⟩
  | .frsq a b k => some ⟨[b], [a], aluApprox rsqVal a b k⟩
  | .fexp2 a b k => some ⟨[b], [a], aluApprox exp2Val a b k⟩
  | .flog2 a b k => some ⟨[b], [a], aluApprox log2Val a b k⟩
  | .cvt a b k r => some ⟨[b], [a], aluCvt a b k r⟩
  | .cvts a b k => some ⟨[b], [a], aluCvts a b k⟩
  | .cvtq a b k r => some ⟨[b], [a], aluCvtq a b k r⟩
  | .cvtd a b k => some ⟨[b], [a], aluCvtd a b k⟩
  | .mxsc a b c k r => some ⟨[b, c], [a], aluMxsc a b c k r⟩
  | .mxq a b c k => some ⟨[b], [a, c], aluMxq a b c k⟩
  | .rsum a b k => some ⟨[b], [a], aluRsum a b k⟩
  | .frsum a b k r => some ⟨[b], [a], aluFrsum a b k r⟩
  | .rmax a b k => some ⟨[b], [a], aluRext pickMax emptyMax a b k⟩
  | .rmin a b k => some ⟨[b], [a], aluRext pickMin emptyMin a b k⟩
  | .ramx a b c k => some ⟨[b], [a, c], aluRamx a b c k⟩
  | .dot a b c k r => some ⟨[b, c], [a], aluDot a b c k r⟩
  | .scan a b k => some ⟨[b], [a], aluScan a b k⟩
  | .fscan a b k r => some ⟨[b], [a], aluFscan a b k r⟩
  | .csum a b k => some ⟨[b], [a], aluCsum a b k⟩
  | .fcsum a b k r => some ⟨[b], [a], aluFcsum a b k r⟩
  | .seed b => some ⟨[b], [], aluSeed b⟩
  | _ => none

/-- An operand of the integer groups fits a reference tile (R327): 1×1 of an integer format, or the same shape. -/
def okInt (ref t : Tile) : Bool := if t.scalar then isInt t.fmt else t.sameShape ref
/-- An operand of the other elementwise groups fits a reference tile (R327): 1×1 of its format, or the same shape. -/
def okSame (ref t : Tile) : Bool := if t.scalar then decide (t.fmt = ref.fmt) else t.sameShape ref
/-- A shape that a shaping instruction may give its destination (R121, R328): legal, small enough for its mask, and
under a mask the destination's own. -/
def okShaping (ta : Tile) (k : MReg) (s : Tile) : Bool := s.legal && maskFits k s && (k == 0 || ta.sameShape s)
/-- The shape of a reduction is legal (R368). -/
def okReduced (ta t : Tile) (f : Fmt) : Bool :=
  if ta.scalar then true else (shapeOfV f t.rows 1 t.vrows 1).legal

/-- The operands on which an instruction of the tile ALU has its effect: formats, shapes, mask and rounding field as
its rule asks, and no tagged operand where the result has no tag to carry it (12 R327 to R347, 13 R353 to R374). -/
def aluAllowed (i : Instr) (x : AluIn) : Bool :=
  let int2 (a b c : TReg) (k : MReg) : Bool :=
    isInt (x.tile a).fmt && okInt (x.tile a) (x.tile b) && okInt (x.tile a) (x.tile c) && maskFits k (x.tile a)
  let int1 (a b : TReg) (k : MReg) : Bool := isInt (x.tile a).fmt && okInt (x.tile a) (x.tile b) && maskFits k (x.tile a)
  let flt2 (a b c : TReg) (k : MReg) : Bool :=
    isArith (x.tile a).fmt && okSame (x.tile a) (x.tile b) && okSame (x.tile a) (x.tile c) && maskFits k (x.tile a)
  let flt1 (a b : TReg) (k : MReg) : Bool := isArith (x.tile a).fmt && okSame (x.tile a) (x.tile b) && maskFits k (x.tile a)
  let ctlOk (c : TReg) : Bool := (x.tile c).control.isSome
  let conv (a b : TReg) (k : MReg) : Bool := okShaping (x.tile a) k (convShape (x.tile b) (x.tile a).fmt)
  let slice (d : Nat) (t : Tile) : Bool :=
    decide (bitsOf d 63 30 = 0 ∧ bitsOf d 23 19 = 0 ∧ bitsOf d 15 14 = 0 ∧ bitsOf d 7 3 = 0
      ∧ bitsOf d 2 0 + bitsOf d 18 16 ≤ t.rows - 1 ∧ bitsOf d 13 8 + bitsOf d 29 24 ≤ t.cols - 1)
  match i with
  | .add a b c k => int2 a b c k
  | .sub a b c k => int2 a b c k
  | .adds a b c k => int2 a b c k
  | .addsu a b c k => int2 a b c k
  | .subs a b c k => int2 a b c k
  | .subsu a b c k => int2 a b c k
  | .mul a b c k => int2 a b c k
  | .mulh a b c k => int2 a b c k
  | .mulhu a b c k => int2 a b c k
  | .min a b c k => int2 a b c k
  | .max a b c k => int2 a b c k
  | .minu a b c k => int2 a b c k
  | .maxu a b c k => int2 a b c k
  | .avgu a b c k => int2 a b c k
  | .and a b c k => int2 a b c k
  | .or a b c k => int2 a b c k
  | .xor a b c k => int2 a b c k
  | .andn a b c k => int2 a b c k
  | .shl a b c k => int2 a b c k
  | .shr a b c k => int2 a b c k
  | .sar a b c k => int2 a b c k
  | .rol a b c k => int2 a b c k
  | .mad a b c k => int2 a b c k
  | .abs a b k => int1 a b k
  | .neg a b k => int1 a b k
  | .not a b k => int1 a b k
  | .popc a b k => int1 a b k
  | .clz a b k => int1 a b k
  | .ctz a b k => int1 a b k
  | .addi a b k _ => int1 a b k
  | .muli a b k _ => int1 a b k
  | .andi a b k _ => int1 a b k
  | .ori a b k _ => int1 a b k
  | .xori a b k _ => int1 a b k
  | .shi a b k _ _ => int1 a b k
  | .movi a k _ => isInt (x.tile a).fmt && maskFits k (x.tile a)
  | .movk a h _ => isInt (x.tile a).fmt && decide (16 * (h.toNat + 1) ≤ fmtBits (x.tile a).fmt)
  | .cmp _ b c k _ =>
    let ref := cmpRef (x.tile b) (x.tile c)
    isInt ref.fmt && okInt ref (x.tile b) && okInt ref (x.tile c) && maskFits k ref && !(x.tile b).tag && !(x.tile c).tag
  | .fcmp _ b c k _ =>
    let ref := cmpRef (x.tile b) (x.tile c)
    isArith ref.fmt && okSame ref (x.tile b) && okSame ref (x.tile c) && maskFits k ref && !(x.tile b).tag && !(x.tile c).tag
  | .mov a b k => k == 0 || (okSame (x.tile a) (x.tile b) && maskFits k (x.tile a))
  | .zero a k => maskFits k (x.tile a)
  | .trn a b k =>
    let t := x.tile b
    decide (t.cols ≤ 8) && okShaping (x.tile a) k (shapeOfV t.fmt t.cols t.rows t.vcols t.vrows)
  | .brow a b c k =>
    let t := x.tile b
    ctlOk c && t.fmt != .mask1 && okShaping (x.tile a) k (shapeOfV t.fmt (x.tile a).rows t.cols (x.tile a).vrows t.vcols)
  | .bcol a b c k =>
    let t := x.tile b
    ctlOk c && t.fmt != .mask1 && okShaping (x.tile a) k (shapeOfV t.fmt t.rows (x.tile a).cols t.vrows (x.tile a).vcols)
  | .xtr a b c k => ctlOk c && (x.tile b).fmt != .mask1 && okShaping (x.tile a) k (shapeOf (x.tile b).fmt 1 1)
  | .ins a b c k =>
    ctlOk c && (x.tile a).fmt != .mask1 && (x.tile b).scalar && decide ((x.tile b).fmt = (x.tile a).fmt) && maskFits k (x.tile a)
  | .slc a b c k =>
    let t := x.tile b
    match (x.tile c).control with
    | none => false
    | some v =>
      let d := wrapTo 64 v
      slice d t && okShaping (x.tile a) k (shapeOf t.fmt (bitsOf d 18 16 + 1) (bitsOf d 29 24 + 1))
  | .she a b c k =>
    let t := x.tile b
    decide (t.fmt = (x.tile c).fmt) && t.fmt != .mask1 && decide ((x.tile c).validList.length ≤ t.validList.length)
      && okShaping (x.tile a) k t
  | .rote a b c k => ctlOk c && (x.tile b).fmt != .mask1 && okShaping (x.tile a) k (x.tile b)
  | .perm a b c k =>
    isInt (x.tile c).fmt && (x.tile b).fmt != .mask1 && okShaping (x.tile a) k (lookupShape (x.tile b) (x.tile c))
  | .perm8 a b c k =>
    isInt (x.tile c).fmt && (x.tile b).fmt != .mask1 && okShaping (x.tile a) k (lookupShape (x.tile b) (x.tile c))
  | .lut16 a b c k =>
    isInt (x.tile c).fmt && (x.tile b).fmt != .mask1 && decide (16 ≤ (x.tile b).count)
      && okShaping (x.tile a) k (lookupShape (x.tile b) (x.tile c))
  | .sel a b c k => okSame (x.tile a) (x.tile b) && okSame (x.tile a) (x.tile c) && maskFits k (x.tile a)
  | .shape a b =>
    a == 0 || (match (x.tile b).control with
      | some v => (shapeFromBits (wrapTo 64 v)).isSome
      | none => false)
  | .ragged a b =>
    a == 0 || (match (x.tile b).control with
      | some v =>
        ({ x.tile a with vrows := bitsOf (wrapTo 64 v) 8 6 + 1, vcols := bitsOf (wrapTo 64 v) 5 0 + 1 } : Tile).legal
      | none => false)
  | .gshape _ _ => true
  | .shapei a f r c =>
    a == 0 || (match fmtOf f.toNat with
      | some g => (shapeOf g (r.toNat + 1) (c.toNat + 1)).legal
      | none => false)
  | .raggedi a r c => a == 0 || ({ x.tile a with vrows := r.toNat + 1, vcols := c.toNat + 1 } : Tile).legal
  | .mand _ _ _ => true
  | .mor _ _ _ => true
  | .mxor _ _ _ => true
  | .mnot _ _ => true
  | .mpop _ _ => true
  | .mfst _ _ => true
  | .mst _ _ => true
  | .mld _ b => !(x.tile b).tag && ((decide ((x.tile b).fmt = .mask1) && decide ((x.tile b).count ≤ 64)) || ctlOk b)
  | .mset _ b => !(x.tile b).tag && ctlOk b
  | .seed b => !(x.tile b).tag && ctlOk b
  | .fadd a b c k _ => flt2 a b c k
  | .fsub a b c k _ => flt2 a b c k
  | .fmul a b c k _ => flt2 a b c k
  | .fmin a b c k => flt2 a b c k
  | .fmax a b c k => flt2 a b c k
  | .fcpys a b c k => flt2 a b c k
  | .fdiv a b c k _ => flt2 a b c k
  | .fma a b c k _ => flt2 a b c k
  | .fms a b c k _ => flt2 a b c k
  | .fnma a b c k _ => flt2 a b c k
  | .fabs a b k => flt1 a b k
  | .fneg a b k => flt1 a b k
  | .fsqrt a b k _ => flt1 a b k
  | .frnd a b k _ => flt1 a b k
  | .frcp a b k => flt1 a b k
  | .frsq a b k => flt1 a b k
  | .fexp2 a b k => flt1 a b k
  | .flog2 a b k => flt1 a b k
  | .fscl a b c k _ =>
    let u := x.tile c
    flt1 a b k && isInt u.fmt && (u.scalar || decide (u.rows = (x.tile a).rows ∧ u.cols = (x.tile a).cols))
  | .fclass a b k =>
    let t := x.tile b
    isArith t.fmt && okShaping (x.tile a) k (shapeOfV .uint16 t.rows t.cols t.vrows t.vcols)
  | .cvt a b k r =>
    (x.tile b).fmt != .code8 && (x.tile a).fmt != .code8 && (r == 0 || !cvtExact (x.tile b).fmt (x.tile a).fmt) && conv a b k
  | .cvts a b k => cvtsFmt (x.tile b).fmt && cvtsFmt (x.tile a).fmt && conv a b k
  | .cvtq a b k r => decide ((x.tile a).fmt = .code8) && (r == 0 || (x.tile b).fmt != .code8) && conv a b k
  | .cvtd a b k => decide ((x.tile b).fmt = .code8) && (x.tile a).fmt != .code8 && conv a b k
  | .mxsc a b c k r =>
    let t := x.tile b
    let d := (x.tile a).fmt
    ((isArith t.fmt && isMx d) || (isMx t.fmt && isArith d && c != 0)) && (c != 0 || r == 0)
      && (c == 0 || (decide ((x.tile c).fmt = .e8m0) && decide ((t.count + 31) / 32 ≤ (x.tile c).count))) && conv a b k
  | .mxq a b c k => isArith (x.tile b).fmt && isMx (x.tile a).fmt && (a != c || a == 0) && conv a b k
  | .rsum a b _ => let t := x.tile b; isInt t.fmt && okReduced (x.tile a) t (if isSigned t.fmt then .int64 else .uint64)
  | .frsum a b _ _ => let t := x.tile b; isArith t.fmt && okReduced (x.tile a) t t.fmt
  | .rmax a b _ => let t := x.tile b; (isInt t.fmt || isArith t.fmt) && okReduced (x.tile a) t t.fmt
  | .rmin a b _ => let t := x.tile b; (isInt t.fmt || isArith t.fmt) && okReduced (x.tile a) t t.fmt
  | .ramx a b c _ =>
    let t := x.tile b
    (isInt t.fmt || isArith t.fmt) && (a != c || a == 0) && okReduced (x.tile a) t t.fmt && okReduced (x.tile a) t .int64
  | .dot a b c _ r =>
    let t := x.tile b
    (isInt t.fmt || isArith t.fmt) && t.sameShape (x.tile c) && (r == 0 || (!isInt t.fmt && t.fmt != .fp32))
      && okReduced (x.tile a) t (if isInt t.fmt then (if isSigned t.fmt then .int64 else .uint64) else t.fmt)
  | .scan _ b _ => let t := x.tile b; isInt t.fmt && (shapeOfV t.fmt t.rows t.cols t.vrows t.vcols).legal
  | .fscan _ b _ _ => let t := x.tile b; isArith t.fmt && (shapeOfV t.fmt t.rows t.cols t.vrows t.vcols).legal
  | .csum _ b _ => let t := x.tile b; isInt t.fmt && (shapeOfV t.fmt 1 t.cols 1 t.vcols).legal
  | .fcsum _ b _ _ => let t := x.tile b; isArith t.fmt && (shapeOfV t.fmt 1 t.cols 1 t.vcols).legal
  | _ => false

/-- The slot issues this instruction now (R14, R325, R327): it issues alone, its tiles are owed nothing and bound to no
stream, those it reads match their residues, its operands are allowed, and what it computes finds the tile ALU free and
its cluster's allowance sufficient. -/
def State.aluReady (s : State) (i : Instr) : Bool :=
  match aluForm i with
  | none => false
  | some f =>
    s.alone && s.clear (f.reads ++ f.writes) && s.sound f.reads && aluAllowed i (aluIn s [])
      && (match f.f (aluIn s []) with
        | .ok o => o.cycles == 0 || decide ((s.core s.cur.1).aluUntil ≤ s.clk.cycle ∧ creditsFor o ≤ creditsOf s (clusterOf s.cur.1))
        | .error _ => true)

/-- The tile ALU is free for a result, or the result does not use it (R14, R326). -/
def aluFree (s : State) (o : AluOut) : Bool :=
  o.cycles == 0 || decide ((s.core s.cur.1).aluUntil ≤ s.clk.cycle ∧ creditsFor o ≤ creditsOf s (clusterOf s.cur.1))

/-- A slot with an ALU result's tiles, mask and LFSR written. -/
def Slot.wrote (x : Slot) (o : AluOut) : Slot :=
  let x := o.tiles.foldl (fun x p => x.setTile p.1 p.2) x
  let x := match o.mask with
    | some (m, v) => x.setMask m v
    | none => x
  match o.lfsr with
  | some v => { x with lfsr := v }
  | none => x

/-- The running slot after its results are written and it has retired at the next word. -/
def wroteSlot (s : State) (o : AluOut) : Slot := (s.me.wrote o).retired (s.me.pc + 4) s.myCtx.job s.instant

/-- s with a result written: the running slot holds it and has retired, its tile ALU is busy and its cluster's credits
are taken (R14, R326), and nothing else differs. -/
def AluWrote (s t : State) (o : AluOut) : Prop :=
  t.me = wroteSlot s o ∧ OnlyMeAlu s t
    ∧ (t.core s.cur.1).aluUntil = (if o.cycles = 0 then (s.core s.cur.1).aluUntil else s.clk.cycle + o.cycles)
    ∧ creditsOf t (clusterOf s.cur.1) = creditsOf s (clusterOf s.cur.1) - (if o.cycles = 0 then 0 else creditsFor o)

/-- Element e of an integer operand, extended by its own format and cut to n bits; a 1×1 operand is the same everywhere
(R327). -/
def Tile.intAt (t : Tile) (n e : Nat) : BitVec n := BitVec.ofInt n (intOf t.fmt (t.raw (if t.scalar then 0 else e)))
/-- Is an operand present at element e (R327)? -/
def Tile.presentAt (t : Tile) (e : Nat) : Bool := t.scalar || t.validE e

/-- An elementwise integer instruction, as the tables of 12 R342 to R345 give it: the destination, its mask, the
sources, and the element's result from the first source b, the second source c, the shift amount s (the second source
extended to 64 bits), and the old element. -/
structure IntForm where
  a : TReg
  k : MReg
  srcs : List TReg
  op : (n : Nat) → (b c : BitVec n) → (s : BitVec 64) → (old : BitVec n) → BitVec n

/-- A signed value saturated to n bits (R342). -/
def saturateTo (n : Nat) (x : Int) : BitVec n := BitVec.ofInt n (max (-(2 ^ (n - 1) : Int)) (min x ((2 ^ (n - 1) : Int) - 1)))

/-- The element results of the integer, logic, shift, MAD and immediate groups (12 R342 to R345). -/
def intForm (i : Instr) : Option IntForm :=
  match i with
  | .add a b c k => some ⟨a, k, [b, c], fun _ u v _ _ => u + v⟩
  | .sub a b c k => some ⟨a, k, [b, c], fun _ u v _ _ => u - v⟩
  | .adds a b c k => some ⟨a, k, [b, c], fun n u v _ _ => saturateTo n (u.toInt + v.toInt)⟩
  | .addsu a b c k => some ⟨a, k, [b, c], fun n u v _ _ => BitVec.ofNat n (min (u.toNat + v.toNat) (2 ^ n - 1))⟩
  | .subs a b c k => some ⟨a, k, [b, c], fun n u v _ _ => saturateTo n (u.toInt - v.toInt)⟩
  | .subsu a b c k => some ⟨a, k, [b, c], fun n u v _ _ => BitVec.ofNat n (u.toNat - v.toNat)⟩
  | .mul a b c k => some ⟨a, k, [b, c], fun _ u v _ _ => u * v⟩
  | .mulh a b c k => some ⟨a, k, [b, c], fun n u v _ _ => BitVec.ofInt n (u.toInt * v.toInt / 2 ^ n)⟩
  | .mulhu a b c k => some ⟨a, k, [b, c], fun n u v _ _ => BitVec.ofNat n (u.toNat * v.toNat / 2 ^ n)⟩
  | .min a b c k => some ⟨a, k, [b, c], fun _ u v _ _ => if u.slt v then u else v⟩
  | .max a b c k => some ⟨a, k, [b, c], fun _ u v _ _ => if u.slt v then v else u⟩
  | .minu a b c k => some ⟨a, k, [b, c], fun _ u v _ _ => if u.ult v then u else v⟩
  | .maxu a b c k => some ⟨a, k, [b, c], fun _ u v _ _ => if u.ult v then v else u⟩
  | .abs a b k => some ⟨a, k, [b], fun _ u _ _ _ => if u.msb then -u else u⟩
  | .neg a b k => some ⟨a, k, [b], fun _ u _ _ _ => -u⟩
  | .avgu a b c k => some ⟨a, k, [b, c], fun n u v _ _ => BitVec.ofNat n ((u.toNat + v.toNat + 1) / 2)⟩
  | .and a b c k => some ⟨a, k, [b, c], fun _ u v _ _ => u &&& v⟩
  | .or a b c k => some ⟨a, k, [b, c], fun _ u v _ _ => u ||| v⟩
  | .xor a b c k => some ⟨a, k, [b, c], fun _ u v _ _ => u ^^^ v⟩
  | .andn a b c k => some ⟨a, k, [b, c], fun _ u v _ _ => u &&& ~~~v⟩
  | .not a b k => some ⟨a, k, [b], fun _ u _ _ _ => ~~~u⟩
  | .shl a b c k => some ⟨a, k, [b, c], fun n u _ s _ => if n ≤ s.toNat then 0 else u <<< s.toNat⟩
  | .shr a b c k => some ⟨a, k, [b, c], fun n u _ s _ => if n ≤ s.toNat then 0 else u >>> s.toNat⟩
  | .sar a b c k => some ⟨a, k, [b, c], fun n u _ s _ => u.sshiftRight (min s.toNat n)⟩
  | .rol a b c k => some ⟨a, k, [b, c], fun n u _ s _ => u.rotateLeft (s.toNat % n)⟩
  | .popc a b k => some ⟨a, k, [b], fun n u _ _ _ => BitVec.ofNat n ((List.range n).countP u.getLsbD)⟩
  | .clz a b k => some ⟨a, k, [b], fun n u _ _ _ => BitVec.ofNat n ((List.range n).takeWhile fun j => !u.getMsbD j).length⟩
  | .ctz a b k => some ⟨a, k, [b], fun n u _ _ _ => BitVec.ofNat n ((List.range n).takeWhile fun j => !u.getLsbD j).length⟩
  | .mad a b c k => some ⟨a, k, [b, c], fun _ u v _ old => u * v + old⟩
  | .movi a k m => some ⟨a, k, [], fun n _ _ _ _ => m.signExtend n⟩
  | .movk a h m => some ⟨a, 0, [], fun n _ _ _ old =>
      (old &&& ~~~((0xFFFF#16).setWidth n <<< (16 * h.toNat))) ||| (m.setWidth n <<< (16 * h.toNat))⟩
  | .addi a b k m => some ⟨a, k, [b], fun n u _ _ _ => u + m.signExtend n⟩
  | .muli a b k m => some ⟨a, k, [b], fun n u _ _ _ => u * m.signExtend n⟩
  | .andi a b k m => some ⟨a, k, [b], fun n u _ _ _ => u &&& m.setWidth n⟩
  | .ori a b k m => some ⟨a, k, [b], fun n u _ _ _ => u ||| m.setWidth n⟩
  | .xori a b k m => some ⟨a, k, [b], fun n u _ _ _ => u ^^^ m.setWidth n⟩
  | .shi a b k o m => some ⟨a, k, [b], fun n u _ _ _ =>
      if o = 0 then (if n ≤ m.toNat then 0 else u <<< m.toNat) else if o = 1 then (if n ≤ m.toNat then 0 else u >>> m.toNat)
      else if o = 2 then u.sshiftRight (min m.toNat n) else u.rotateLeft (m.toNat % n)⟩
  | _ => none

/-- What an elementwise integer instruction leaves in element e of its destination: zero outside the valid region, the
old element where the mask is 0 or an operand is absent, else the result (R119, R327). -/
def IntForm.element (f : IntForm) (x : AluIn) (e : Nat) : Nat :=
  let ta := x.tile f.a
  let n := fmtBits ta.fmt
  let src (j : Nat) : Tile := (f.srcs.map x.tile).getD j Tile.zero
  if ta.count ≤ e ∨ ta.validE e = false then 0
  else if x.bit f.k e && (f.srcs.map x.tile).all (·.presentAt e) then
    (f.op n ((src 0).intAt n e) ((src 1).intAt n e) ((src 1).intAt 64 e) (BitVec.ofNat n (ta.raw e))).toNat
  else ta.raw e

/-- An elementwise float instruction (13 R356, R357, R360): destination, mask, sources, and the pattern of an element's
result from those of b, c and the old element; n is the second source read as an integer, for FSCL. -/
structure FloatForm where
  a : TReg
  k : MReg
  srcs : List TReg
  op : (p : FloatSpec) → (b c old : Nat) → (n : Int) → Nat

/-- The element results of the float, fused and approximate groups (13 R356, R357, R360): one exact value rounded once,
a changed sign bit, or a value of 11 significant bits. -/
def floatForm (i : Instr) : Option FloatForm :=
  let near (p : FloatSpec) (f : FVal → FVal) (b : Nat) : Nat := roundFloat p .rne (roundSig 11 (f (valFloat p b)))
  match i with
  | .fadd a b c k r => some ⟨a, k, [b, c], fun p u v _ _ => roundFloat p (rmodeOf r) (addVal (rmodeOf r) (valFloat p u) (valFloat p v))⟩
  | .fsub a b c k r => some ⟨a, k, [b, c], fun p u v _ _ =>
      roundFloat p (rmodeOf r) (addVal (rmodeOf r) (valFloat p u) (negVal (valFloat p v)))⟩
  | .fmul a b c k r => some ⟨a, k, [b, c], fun p u v _ _ => roundFloat p (rmodeOf r) (mulVal (valFloat p u) (valFloat p v))⟩
  | .fmin a b c k => some ⟨a, k, [b, c], fun p u v _ _ => roundFloat p .rne (minNum (valFloat p u) (valFloat p v))⟩
  | .fmax a b c k => some ⟨a, k, [b, c], fun p u v _ _ => roundFloat p .rne (maxNum (valFloat p u) (valFloat p v))⟩
  | .fabs a b k => some ⟨a, k, [b], fun p u _ _ _ => p.mag u⟩
  | .fneg a b k => some ⟨a, k, [b], fun p u _ _ _ => (if p.neg u then 0 else 2 ^ p.signBit) + p.mag u⟩
  | .fcpys a b c k => some ⟨a, k, [b, c], fun p u v _ _ => (if p.neg v then 2 ^ p.signBit else 0) + p.mag u⟩
  | .fdiv a b c k r => some ⟨a, k, [b, c], fun p u v _ _ => roundFloat p (rmodeOf r) (divVal (valFloat p u) (valFloat p v))⟩
  | .fsqrt a b k r => some ⟨a, k, [b], fun p u _ _ _ => roundFloat p (rmodeOf r) (sqrtVal (valFloat p u))⟩
  | .frnd a b k r => some ⟨a, k, [b], fun p u _ _ _ => roundFloat p (rmodeOf r) (rndVal (rmodeOf r) (valFloat p u))⟩
  | .fscl a b c k r => some ⟨a, k, [b, c], fun p u _ _ n => roundFloat p (rmodeOf r) (scaleVal (valFloat p u) n)⟩
  | .fma a b c k r => some ⟨a, k, [b, c], fun p u v o _ =>
      roundFloat p (rmodeOf r) (addVal (rmodeOf r) (mulVal (valFloat p u) (valFloat p v)) (valFloat p o))⟩
  | .fms a b c k r => some ⟨a, k, [b, c], fun p u v o _ =>
      roundFloat p (rmodeOf r) (addVal (rmodeOf r) (mulVal (valFloat p u) (valFloat p v)) (negVal (valFloat p o)))⟩
  | .fnma a b c k r => some ⟨a, k, [b, c], fun p u v o _ =>
      roundFloat p (rmodeOf r) (addVal (rmodeOf r) (negVal (mulVal (valFloat p u) (valFloat p v))) (valFloat p o))⟩
  | .frcp a b k => some ⟨a, k, [b], fun p u _ _ _ => near p (divVal (.fin false 1 0)) u⟩
  | .frsq a b k => some ⟨a, k, [b], fun p u _ _ _ => near p rsqVal u⟩
  | .fexp2 a b k => some ⟨a, k, [b], fun p u _ _ _ => near p exp2Val u⟩
  | .flog2 a b k => some ⟨a, k, [b], fun p u _ _ _ => near p log2Val u⟩
  | _ => none

/-- What an elementwise float instruction leaves in element e of its destination (R119, R327, R353). -/
def FloatForm.element (f : FloatForm) (x : AluIn) (p : FloatSpec) (e : Nat) : Nat :=
  let ta := x.tile f.a
  let src (j : Nat) : Tile := (f.srcs.map x.tile).getD j Tile.zero
  let rd (j : Nat) : Nat := (src j).raw (if (src j).scalar then 0 else e)
  if ta.count ≤ e ∨ ta.validE e = false then 0
  else if x.bit f.k e && (f.srcs.map x.tile).all (·.presentAt e) then
    f.op p (rd 0) (rd 1) (ta.raw e) (intOf (src 1).fmt (rd 1))
  else ta.raw e

/-- A shaping instruction's result (12 R328): the destination, its mask, the shape S and the value of each element. -/
structure ShapedForm where
  a : TReg
  k : MReg
  shape : Tile
  elem : Nat → Nat

/-- A control operand read as a signed and as an unsigned 64-bit value (R329). -/
def Tile.ctlInt (t : Tile) : Int := intOf t.fmt (t.raw 0)
/-- The unsigned reading of a control operand. -/
def Tile.ctlNat (t : Tile) : Nat := (BitVec.ofInt 64 t.ctlInt).toNat

/-- The results of the movement group, the conversions without a scale, FCLASS, GSHAPE and the mask group's tiles (12
R332, R335 to R340, R347, 13 R358, R362 to R365). Element e of S stands in row e / cols and column e mod cols. -/
def shapedForm (i : Instr) (x : AluIn) : Option ShapedForm :=
  let grid (s : Tile) (f : Nat → Nat → Nat) (e : Nat) : Nat := f (e / s.cols) (e % s.cols)
  match i with
  | .trn a b k =>
    let t := x.tile b
    let s := shapeOfV t.fmt t.cols t.rows t.vcols t.vrows
    some ⟨a, k, s, grid s fun i j => t.atOr0 j i⟩
  | .brow a b c k =>
    let t := x.tile b
    let s := shapeOfV t.fmt (x.tile a).rows t.cols (x.tile a).vrows t.vcols
    some ⟨a, k, s, grid s fun _ j => t.atOr0 (x.tile c).ctlNat j⟩
  | .bcol a b c k =>
    let t := x.tile b
    let s := shapeOfV t.fmt t.rows (x.tile a).cols t.vrows (x.tile a).vcols
    some ⟨a, k, s, grid s fun i _ => t.atOr0 i (x.tile c).ctlNat⟩
  | .xtr a b c k =>
    let t := x.tile b
    let v := (x.tile c).ctlInt
    some ⟨a, k, shapeOf t.fmt 1 1, fun _ => if 0 ≤ v ∧ v < t.count ∧ t.validE v.toNat then t.raw v.toNat else 0⟩
  | .slc a b c k =>
    let t := x.tile b
    let d : BitVec 64 := BitVec.ofNat 64 (x.tile c).ctlNat
    let s := shapeOf t.fmt ((d.extractLsb' 16 3).toNat + 1) ((d.extractLsb' 24 6).toNat + 1)
    some ⟨a, k, s, grid s fun i j => t.atOr0 ((d.extractLsb' 0 3).toNat + i) ((d.extractLsb' 8 6).toNat + j)⟩
  | .she a b c k =>
    let t := x.tile b
    let v := t.cells.map t.raw ++ (x.tile c).cells.map (x.tile c).raw
    some ⟨a, k, t, grid t fun i j => v.getD (i * t.vcols + j + (x.tile c).cells.length) 0⟩
  | .rote a b c k =>
    let t := x.tile b
    let v := t.cells.map t.raw
    some ⟨a, k, t, grid t fun i j => v.getD (((i * t.vcols + j : Nat) + (x.tile c).ctlInt) % v.length).toNat 0⟩
  | .perm a b c k =>
    let t := x.tile b
    let u := x.tile c
    some ⟨a, k, shapeOfV t.fmt u.rows u.cols u.vrows u.vcols, fun e =>
      let n := intOf u.fmt (u.raw e)
      if 0 ≤ n ∧ n < t.count ∧ t.validE n.toNat then t.raw n.toNat else 0⟩
  | .lut16 a b c k =>
    let t := x.tile b
    let u := x.tile c
    some ⟨a, k, shapeOfV t.fmt u.rows u.cols u.vrows u.vcols, fun e =>
      let n := u.raw e % 16
      if t.validE n then t.raw n else 0⟩
  | .perm8 a b c k =>
    let t := x.tile b
    let u := x.tile c
    some ⟨a, k, shapeOfV t.fmt u.rows u.cols u.vrows u.vcols, fun e =>
      let n := intOf u.fmt (u.raw e)
      let per := 512 / fmtBits t.fmt
      if 0 ≤ n ∧ n < 8 * per then
        ((x.tile (b + BitVec.ofNat 4 (n.toNat / per))).bytes.toNat / 2 ^ (n.toNat % per * fmtBits t.fmt)) % 2 ^ fmtBits t.fmt
      else 0⟩
  | .fclass a b k =>
    let t := x.tile b
    (floatSpec t.fmt).map fun p => ⟨a, k, shapeOfV .uint16 t.rows t.cols t.vrows t.vcols, fun e => classBits p (t.raw e)⟩
  | .gshape a b => some ⟨a, 0, shapeOf .int64 1 1, fun _ => (x.tile b).shapeWord⟩
  | .mpop a b => some ⟨a, 0, shapeOf .int64 1 1, fun _ => (List.range 64).countP (x.mask b).getLsbD⟩
  | .mfst a b => some ⟨a, 0, shapeOf .int64 1 1, fun _ => ((List.range 64).takeWhile fun j => !(x.mask b).getLsbD j).length⟩
  | .mst a b => some ⟨a, 0, shapeOf .uint64 1 1, fun _ => (x.mask b).toNat⟩
  | .cvt a b k r =>
    some ⟨a, k, convShape (x.tile b) (x.tile a).fmt, fun e =>
      convElem x.code8 (x.tile b).fmt (x.tile a).fmt (rmodeOf r) ((x.tile b).raw e)⟩
  | .cvtq a b k r =>
    some ⟨a, k, convShape (x.tile b) (x.tile a).fmt, fun e => convElem x.code8 (x.tile b).fmt .code8 (rmodeOf r) ((x.tile b).raw e)⟩
  | .cvtd a b k =>
    some ⟨a, k, convShape (x.tile b) (x.tile a).fmt, fun e => convElem x.code8 .code8 (x.tile a).fmt .rne ((x.tile b).raw e)⟩
  | _ => none

/-- What a shaping instruction leaves in element e of its destination, which has the shape S (R328). -/
def ShapedForm.element (f : ShapedForm) (x : AluIn) (e : Nat) : Nat :=
  if f.shape.count ≤ e ∨ f.shape.validE e = false then 0 else if x.bit f.k e then f.elem e else (x.tile f.a).raw e

/-- Integer reductions and scans (13 R368 to R373): the destination, the shape S, and element e of the result in terms
of the sum or extreme of the leaves that are valid and unmasked. -/
def reduceSum (x : AluIn) (k : MReg) (l : List Nat) (present : Nat → Bool) (leaf : Nat → Int) : Int :=
  ((l.filter fun e => present e && x.bit k e).map leaf).sum

/-- The elements of a tile that element j of a reduction folds: all of them in the whole form, else row j (R368). -/
def leavesOf (ta t : Tile) (j : Nat) : List Nat :=
  if ta.scalar then List.range t.count else (List.range t.cols).map fun c => j * t.cols + c

/-- The integer sums of the reduction group: element j of the result as an integer before it is cut to its width (13
R368, R369, R371 to R373). -/
def sumForm (i : Instr) (x : AluIn) : Option (TReg × Tile × (Nat → Int)) :=
  let s (ta t : Tile) (f : Fmt) : Tile := if ta.scalar then shapeOf f 1 1 else shapeOfV f t.rows 1 t.vrows 1
  let wide (f : Fmt) : Fmt := if isSigned f then .int64 else .uint64
  match i with
  | .rsum a b k =>
    let t := x.tile b
    some (a, s (x.tile a) t (wide t.fmt), fun j => reduceSum x k (leavesOf (x.tile a) t j) t.validE fun e => intOf t.fmt (t.raw e))
  | .dot a b c k _ =>
    let t := x.tile b
    let u := x.tile c
    if isInt t.fmt then
      some (a, s (x.tile a) t (wide t.fmt), fun j => reduceSum x k (leavesOf (x.tile a) t j) (fun e => t.validE e && u.validE e)
        fun e => intOf t.fmt (t.raw e) * intOf u.fmt (u.raw e))
    else none
  | .scan a b k =>
    let t := x.tile b
    some (a, t, fun e => reduceSum x k ((List.range (e % t.cols + 1)).map fun c => e / t.cols * t.cols + c) t.validE
      fun e => intOf t.fmt (t.raw e))
  | .csum a b k =>
    let t := x.tile b
    some (a, shapeOfV t.fmt 1 t.cols 1 t.vcols, fun j =>
      reduceSum x k ((List.range t.rows).map fun r => r * t.cols + j) t.validE fun e => intOf t.fmt (t.raw e))
  | _ => none

/-- The running slot retires at an address and nothing else happens (R293). -/
def State.goesTo (s : State) (pc : BitVec 48) : State := s.updMe fun x => x.retired pc s.myCtx.job s.instant

/-- The running slot retires at the next word. -/
def State.goesOn (s : State) : State := s.goesTo (s.me.pc + 4)

/-- A tile operand as a control value: 1×1 of an integer format, untagged, extended to 64 bits by its own format (R329,
R406). -/
def State.ctl (s : State) (b : TReg) (v : Word64) : Prop :=
  (s.me.tile b).control.map (BitVec.ofInt 64) = some v ∧ (s.me.tile b).tag = false

/-- A slot as a precise trap leaves it (R235, R236): TRAPPED, the cause, the address at which RFT resumes, TRAPADDR, the
budget set aside, a fresh allowance, and a row-granular instruction kept only by BUDGET (R128). -/
def Slot.trappedBy (x : Slot) (c : Cause) (addr : Word64) (resume : BitVec 48) : Slot :=
  { x with
    st := .trapped, cause := causeCode c, causeFrost := false, resumeAt := resume.extractLsb' 2 46, taddr := addr, pc := resume,
    setAside := x.budget, allowance := Config.trapAllowance, going := if c = .budget then x.going else none }

/-- A trap that its context handles (R235, R241, R242): the slot is TRAPPED, and a fault event for the context's fault
selector leaves the core. -/
def Traps (s t : State) (c : Cause) (addr : Word64) (resume : BitVec 48) (tile : TReg) : Prop :=
  t = putFlight (s.updMe fun x => x.trappedBy c addr resume) s.cur.1
    (faultEvent s s.cur.1 s.myCtx.job s.myCtx.faultSel c
      { source := 0, slot := s.cur.2, tile := tile, row := if s.me.progress.live then s.me.progress.row else 0, acc := 0, sub := 0, count := 0 }
      addr) false

/-- Does the running slot's context handle its traps (R237): it runs no fault handler, its fault selector's entry is not
invalid, and its job is not freezing? -/
def State.handles (s : State) : Bool :=
  !s.me.fhandler && !(match readEntryNow s s.cur.1 s.myCtx s.myCtx.faultSel with
    | .invalid => true
    | _ => false) && !(frostState s s.myCtx.job).1

/-- The rational number that a finite value is, none for an infinity and a NaN. -/
def FVal.exact (v : FVal) : Option ℚ :=
  match v with
  | .fin neg m e => some ((if neg then -1 else 1) * (m : ℚ) * (2 : ℚ) ^ e)
  | _ => none

/-- An instruction with these tiles begins at once and finds them as they stand: its slot issues alone, nothing is owed
to a tile it names, no stream binds one, and those it reads match their residues. -/
def State.ready (s : State) (reads writes : List TReg) : Bool := s.alone && s.clear (reads ++ writes) && s.sound reads

/-- The target of a branch: 4 × the signed word offset from the branch's own address (R295). -/
def State.target (s : State) (o : BitVec 20) : BitVec 48 := s.me.pc + BitVec.ofInt 48 (4 * o.toInt)

/-- What a row-granular instruction acts on: as its checks find it on the tiles, or, once it is partly done, as it kept it at its issue (R125, R128). -/
def GoesBy (s : State) (check : State → AluIn → Check Transfer) (tr : Transfer) (x : AluIn) : Prop :=
  match goingOf s with
  | some v => v = (tr, x)
  | none => x = aluIn s [] ∧ check s x = .ok tr

/-- t is s with one tile of the running slot written and the slot retired at the next word (R325). -/
def Writes (s t : State) (a : TReg) (v : Tile) : Prop :=
  t.me = (s.me.setTile a v).retired (s.me.pc + 4) s.myCtx.job s.instant ∧ OnlyMe s t

/-- The running slot waits on w with its instruction unissued; nothing else differs (R97). -/
def State.waits (s : State) (w : Wait) : State := s.updMe fun x => { x with st := .stalled w }

/-- A new Frost of a job as its registers show it on this part (R247, R248, R252): the count is one higher, the cause,
origin, instant and sequence are those of the slot that raised it, and no resume is pending. -/
def FrostSet (s t : State) (j : JobId) (kind : BitVec 4) (code : BitVec 8) (c : CoreId) (i : BitVec 2) : Prop :=
  ∀ x, s.job j = some x → ∃ y, t.job j = some y ∧ y.frost.count = x.frost.count + 1 ∧ y.frost.active = true
    ∧ y.frost.cause = causeWord kind code ∧ y.frost.origin = originWord s.part c i ∧ y.frost.time = s.now
    ∧ y.frost.seq = seqWord (x.frost.count + 1) s.part c i ∧ y.frost.resume = none

/-- A message of the mesh has reached the core it is for, behind no earlier one of its flow (R34), its header, network field and residue agree
(R75, R263), and its NI may make the entry of the inbound queue that it may bring (R94). -/
def State.atNi (s : State) (id : Nat) (m : Msg) : Prop :=
  ∃ f, flightOf s id = some f ∧ f.msg = m ∧ f.host = false ∧ forGateway s m = false ∧ f.x = meshX m.dstCore ∧ f.y = meshY m.dstCore
    ∧ Msg.headerOk m = true ∧ Msg.netOk m = true ∧ Msg.residueOk m = true ∧ blockedBy s f none = false
    ∧ (Msg.mayQueue m = true → niFree s m.dstCore = true)

/-- A core serves a job: context slot i holds its ACTIVE context k, not frozen and not diverting, its directory entry is d, and its
cluster is no retired one (R80, R92, R290). -/
def State.serves (s : State) (c : CoreId) (j : JobId) (i : BitVec 2) (k : Ctx) (d : Dir) : Prop :=
  orphaned s c j = false ∧ s.dir c j = some d ∧ (s.core c).leadOf j = some i ∧ s.ctxAt c i = some k ∧ k.job = j ∧ k.st = .active
    ∧ k.frozen = false ∧ d.diverting = false

/-- A message as it stands in the inbound queue from now on (R90). -/
def State.entry (s : State) (c : CoreId) (i : BitVec 2) (m : Msg) (stamp w : Nat) (drained : Bool) : QEntry :=
  { msg := m, ctx := i, stamp := stamp, w := w, ord := (s.core c).ord, drained := drained }

/-- t is s with the messages of the mesh that are not number id, and one more message g put on it at core c. -/
def Sent (s t : State) (l : List Flight) (c : CoreId) (g : Msg) : Prop :=
  ∃ f, t.mesh.flights = l ++ [f] ∧ f.msg = g ∧ f.host = false ∧ f.x = meshX c ∧ f.y = meshY c ∧ f.ring = none ∧ t.mem = s.mem

/-- The messages of the mesh without number id. -/
def State.without (s : State) (id : Nat) : List Flight := s.mesh.flights.filter fun f => f.id != id

/-- f of R381 on n-bit patterns: the old value o, the operand v, the compare value a. -/
def atomForm (fn : BitVec 5) (n : Nat) (signed : Bool) (o v a : BitVec n) : BitVec n :=
  match fn.toNat with
  | 0 => o + v
  | 1 => if v.slt o then v else o
  | 2 => if o.slt v then v else o
  | 3 => if v.ult o then v else o
  | 4 => if o.ult v then v else o
  | 5 => o &&& v
  | 6 => o ||| v
  | 7 => o ^^^ v
  | 8 => v
  | 9 => if o = a then v else o
  | 10 => if (if signed then o.slt v else o.ult v) then o + 1 else o
  | _ => BitVec.ofNat n (roundFloat fp32Spec .rne (addVal .rne (valFloat fp32Spec o.toNat) (valFloat fp32Spec v.toNat)))

/-- KE1 as a port sends it (R45): its sender, its round, a fresh KEM key, the identity key, and a signature of what stands before it. -/
def IsKe1 (s : State) (x : Port) (k : KeyMsg) : Prop :=
  k.part = x.self ∧ k.round = x.round ∧ k.kem = freshKem s.freeCnt ∧ k.key = identity
    ∧ k.signature = signBy (ke1Digest k.part k.round k.kem k.key)

/-- Key establishment has begun again on a port (R45): it waits from now on, and the lower part number has sent KE1 with a fresh KEM key,
which stands in whole flits where no keys are in force. -/
def KeysBegun (s t : State) (port : BitVec 4) : Prop :=
  let x := portAt s port.toNat
  let y := portAt t port.toNat
  y.keWait = true ∧ y.keSince = s.now.toNat ∧ y.round = x.round ∧ y.st = x.st ∧ y.keys = x.keys ∧
    (x.self.toNat < x.partner.toNat → ∃ (k : KeyMsg) (wire : List Byte), IsKe1 s x k ∧ t.lam.keOut = s.lam.keOut ++ [(port, wire)]
      ∧ y.keDigest = ke1Digest k.part k.round k.kem k.key ∧ y.keKem = s.freeCnt
      ∧ (kePlain x = true → wire = padTo 64 (KeyMsg.bytes false k))) ∧
    (x.partner.toNat ≤ x.self.toNat → t.lam.keOut = s.lam.keOut)

/-- The keys of a shared secret stand on a port (R44): of epoch 0 at bring-up, when the link comes up, else of the other epoch. -/
def KeysLoaded (s t : State) (port : BitVec 4) (secret : List Byte) (round : BitVec 32) : Prop :=
  let x := portAt s port.toNat
  let y := portAt t port.toNat
  let e : BitVec 1 := if x.st = 1 then 0 else ~~~x.epoch
  y.st = (if x.st = 1 then 2 else x.st) ∧ y.epoch = (if x.st = 1 then 0 else x.epoch) ∧ y.recvEpoch = (if x.st = 1 then 0 else x.recvEpoch) ∧ y.loaded = (x.st != 1) ∧ y.keWait = false ∧ y.keTries = 0
    ∧ y.round = round + 1
    ∧ (∀ (dir : Bool) (vc : BitVec 2), y.keys.look (keyNo dir vc e) = some (linkKeyOf secret x.self x.partner dir vc.toNat e.toNat round)
        ∧ y.keys.look (keyNo dir vc (~~~e)) = x.keys.look (keyNo dir vc (~~~e)) ∧ (x.st ≠ 1 → y.counts.look (keyNo dir vc e) = some 0))

/-- A failed key establishment (R45): three more tries, then the port is down with sec_event. -/
def KeysFailed (s t : State) (port : BitVec 4) : Prop :=
  let n := (portAt s port.toNat).keTries
  if n < 3 then KeysBegun s t port ∧ (portAt t port.toNat).keTries = n + 1
  else (portAt t port.toNat).st = 0 ∧ (portAt t port.toNat).secEvent = true ∧ (portAt t port.toNat).keWait = false

/-- A command is over, and its answer is the last record of its window (R65, R67). -/
def Answered (s t : State) (c : Cmd) (status : Nat) (arg : Word64) (payload : List Byte) : Prop :=
  t.fw.cmds = s.fw.cmds.erase c ∧ ∀ w, windowAt s c.window = some w → ∃ v, windowAt t c.window = some v ∧ v.owed = w.owed - 1
    ∧ v.pendingRecs = w.pendingRecs ++ [mailboxRec 1 status 0 c.sel c.tag arg payload]

/-- Level of the page tables at which a page of a size stands: 64 KiB, 2 MiB, 1 GiB (R140, R459). -/
def pageLevel (psize : Nat) : Nat := if psize = 0 then 4 else if psize = 1 then 3 else 2

end Sys2Proof.Machine
end

