-- ==== Sys2Proof/Laws/State.lean ====
section
/-! SUPPORT. What each named update of the state leaves alone, field by field, and what a core, slot, context or
cluster reads as after one was changed. -/

namespace Sys2Proof.Machine

/-! ### setCore -/

@[simp] theorem State.setCore_clk (s : State) (c : CoreId) (k : Core) : (s.setCore c k).clk = s.clk := rfl
@[simp] theorem State.setCore_sched (s : State) (c : CoreId) (k : Core) : (s.setCore c k).sched = s.sched := rfl
@[simp] theorem State.setCore_autorun (s : State) (c : CoreId) (k : Core) : (s.setCore c k).autorun = s.autorun := rfl
@[simp] theorem State.setCore_cur (s : State) (c : CoreId) (k : Core) : (s.setCore c k).cur = s.cur := rfl
@[simp] theorem State.setCore_nextId (s : State) (c : CoreId) (k : Core) : (s.setCore c k).nextId = s.nextId := rfl
@[simp] theorem State.setCore_freeCnt (s : State) (c : CoreId) (k : Core) : (s.setCore c k).freeCnt = s.freeCnt := rfl
@[simp] theorem State.setCore_part (s : State) (c : CoreId) (k : Core) : (s.setCore c k).part = s.part := rfl
@[simp] theorem State.setCore_power (s : State) (c : CoreId) (k : Core) : (s.setCore c k).power = s.power := rfl
@[simp] theorem State.setCore_rot (s : State) (c : CoreId) (k : Core) : (s.setCore c k).rot = s.rot := rfl
@[simp] theorem State.setCore_hbm (s : State) (c : CoreId) (k : Core) : (s.setCore c k).hbm = s.hbm := rfl
@[simp] theorem State.setCore_mem (s : State) (c : CoreId) (k : Core) : (s.setCore c k).mem = s.mem := rfl
@[simp] theorem State.setCore_clusters (s : State) (c : CoreId) (k : Core) : (s.setCore c k).clusters = s.clusters := rfl
@[simp] theorem State.setCore_chiplets (s : State) (c : CoreId) (k : Core) : (s.setCore c k).chiplets = s.chiplets := rfl
@[simp] theorem State.setCore_memq (s : State) (c : CoreId) (k : Core) : (s.setCore c k).memq = s.memq := rfl
@[simp] theorem State.setCore_rets (s : State) (c : CoreId) (k : Core) : (s.setCore c k).rets = s.rets := rfl
@[simp] theorem State.setCore_rems (s : State) (c : CoreId) (k : Core) : (s.setCore c k).rems = s.rems := rfl
@[simp] theorem State.setCore_mesh (s : State) (c : CoreId) (k : Core) : (s.setCore c k).mesh = s.mesh := rfl
@[simp] theorem State.setCore_pairs (s : State) (c : CoreId) (k : Core) : (s.setCore c k).pairs = s.pairs := rfl
@[simp] theorem State.setCore_launches (s : State) (c : CoreId) (k : Core) : (s.setCore c k).launches = s.launches := rfl
@[simp] theorem State.setCore_fw (s : State) (c : CoreId) (k : Core) : (s.setCore c k).fw = s.fw := rfl
@[simp] theorem State.setCore_lam (s : State) (c : CoreId) (k : Core) : (s.setCore c k).lam = s.lam := rfl
@[simp] theorem State.setCore_eth (s : State) (c : CoreId) (k : Core) : (s.setCore c k).eth = s.eth := rfl

/-! ### updCore -/

@[simp] theorem State.updCore_clk (s : State) (c : CoreId) (f : Core → Core) : (s.updCore c f).clk = s.clk := rfl
@[simp] theorem State.updCore_sched (s : State) (c : CoreId) (f : Core → Core) : (s.updCore c f).sched = s.sched := rfl
@[simp] theorem State.updCore_autorun (s : State) (c : CoreId) (f : Core → Core) : (s.updCore c f).autorun = s.autorun := rfl
@[simp] theorem State.updCore_cur (s : State) (c : CoreId) (f : Core → Core) : (s.updCore c f).cur = s.cur := rfl
@[simp] theorem State.updCore_nextId (s : State) (c : CoreId) (f : Core → Core) : (s.updCore c f).nextId = s.nextId := rfl
@[simp] theorem State.updCore_freeCnt (s : State) (c : CoreId) (f : Core → Core) : (s.updCore c f).freeCnt = s.freeCnt := rfl
@[simp] theorem State.updCore_part (s : State) (c : CoreId) (f : Core → Core) : (s.updCore c f).part = s.part := rfl
@[simp] theorem State.updCore_power (s : State) (c : CoreId) (f : Core → Core) : (s.updCore c f).power = s.power := rfl
@[simp] theorem State.updCore_rot (s : State) (c : CoreId) (f : Core → Core) : (s.updCore c f).rot = s.rot := rfl
@[simp] theorem State.updCore_hbm (s : State) (c : CoreId) (f : Core → Core) : (s.updCore c f).hbm = s.hbm := rfl
@[simp] theorem State.updCore_mem (s : State) (c : CoreId) (f : Core → Core) : (s.updCore c f).mem = s.mem := rfl
@[simp] theorem State.updCore_clusters (s : State) (c : CoreId) (f : Core → Core) : (s.updCore c f).clusters = s.clusters := rfl
@[simp] theorem State.updCore_chiplets (s : State) (c : CoreId) (f : Core → Core) : (s.updCore c f).chiplets = s.chiplets := rfl
@[simp] theorem State.updCore_memq (s : State) (c : CoreId) (f : Core → Core) : (s.updCore c f).memq = s.memq := rfl
@[simp] theorem State.updCore_rets (s : State) (c : CoreId) (f : Core → Core) : (s.updCore c f).rets = s.rets := rfl
@[simp] theorem State.updCore_rems (s : State) (c : CoreId) (f : Core → Core) : (s.updCore c f).rems = s.rems := rfl
@[simp] theorem State.updCore_mesh (s : State) (c : CoreId) (f : Core → Core) : (s.updCore c f).mesh = s.mesh := rfl
@[simp] theorem State.updCore_pairs (s : State) (c : CoreId) (f : Core → Core) : (s.updCore c f).pairs = s.pairs := rfl
@[simp] theorem State.updCore_launches (s : State) (c : CoreId) (f : Core → Core) : (s.updCore c f).launches = s.launches := rfl
@[simp] theorem State.updCore_fw (s : State) (c : CoreId) (f : Core → Core) : (s.updCore c f).fw = s.fw := rfl
@[simp] theorem State.updCore_lam (s : State) (c : CoreId) (f : Core → Core) : (s.updCore c f).lam = s.lam := rfl
@[simp] theorem State.updCore_eth (s : State) (c : CoreId) (f : Core → Core) : (s.updCore c f).eth = s.eth := rfl

/-! ### updSlot -/

@[simp] theorem State.updSlot_clk (s : State) (c : CoreId) (i : BitVec 2) (f : Slot → Slot) : (s.updSlot c i f).clk = s.clk := rfl
@[simp] theorem State.updSlot_sched (s : State) (c : CoreId) (i : BitVec 2) (f : Slot → Slot) : (s.updSlot c i f).sched = s.sched := rfl
@[simp] theorem State.updSlot_autorun (s : State) (c : CoreId) (i : BitVec 2) (f : Slot → Slot) : (s.updSlot c i f).autorun = s.autorun := rfl
@[simp] theorem State.updSlot_cur (s : State) (c : CoreId) (i : BitVec 2) (f : Slot → Slot) : (s.updSlot c i f).cur = s.cur := rfl
@[simp] theorem State.updSlot_nextId (s : State) (c : CoreId) (i : BitVec 2) (f : Slot → Slot) : (s.updSlot c i f).nextId = s.nextId := rfl
@[simp] theorem State.updSlot_freeCnt (s : State) (c : CoreId) (i : BitVec 2) (f : Slot → Slot) : (s.updSlot c i f).freeCnt = s.freeCnt := rfl
@[simp] theorem State.updSlot_part (s : State) (c : CoreId) (i : BitVec 2) (f : Slot → Slot) : (s.updSlot c i f).part = s.part := rfl
@[simp] theorem State.updSlot_power (s : State) (c : CoreId) (i : BitVec 2) (f : Slot → Slot) : (s.updSlot c i f).power = s.power := rfl
@[simp] theorem State.updSlot_rot (s : State) (c : CoreId) (i : BitVec 2) (f : Slot → Slot) : (s.updSlot c i f).rot = s.rot := rfl
@[simp] theorem State.updSlot_hbm (s : State) (c : CoreId) (i : BitVec 2) (f : Slot → Slot) : (s.updSlot c i f).hbm = s.hbm := rfl
@[simp] theorem State.updSlot_mem (s : State) (c : CoreId) (i : BitVec 2) (f : Slot → Slot) : (s.updSlot c i f).mem = s.mem := rfl
@[simp] theorem State.updSlot_clusters (s : State) (c : CoreId) (i : BitVec 2) (f : Slot → Slot) : (s.updSlot c i f).clusters = s.clusters := rfl
@[simp] theorem State.updSlot_chiplets (s : State) (c : CoreId) (i : BitVec 2) (f : Slot → Slot) : (s.updSlot c i f).chiplets = s.chiplets := rfl
@[simp] theorem State.updSlot_memq (s : State) (c : CoreId) (i : BitVec 2) (f : Slot → Slot) : (s.updSlot c i f).memq = s.memq := rfl
@[simp] theorem State.updSlot_rets (s : State) (c : CoreId) (i : BitVec 2) (f : Slot → Slot) : (s.updSlot c i f).rets = s.rets := rfl
@[simp] theorem State.updSlot_rems (s : State) (c : CoreId) (i : BitVec 2) (f : Slot → Slot) : (s.updSlot c i f).rems = s.rems := rfl
@[simp] theorem State.updSlot_mesh (s : State) (c : CoreId) (i : BitVec 2) (f : Slot → Slot) : (s.updSlot c i f).mesh = s.mesh := rfl
@[simp] theorem State.updSlot_pairs (s : State) (c : CoreId) (i : BitVec 2) (f : Slot → Slot) : (s.updSlot c i f).pairs = s.pairs := rfl
@[simp] theorem State.updSlot_launches (s : State) (c : CoreId) (i : BitVec 2) (f : Slot → Slot) : (s.updSlot c i f).launches = s.launches := rfl
@[simp] theorem State.updSlot_fw (s : State) (c : CoreId) (i : BitVec 2) (f : Slot → Slot) : (s.updSlot c i f).fw = s.fw := rfl
@[simp] theorem State.updSlot_lam (s : State) (c : CoreId) (i : BitVec 2) (f : Slot → Slot) : (s.updSlot c i f).lam = s.lam := rfl
@[simp] theorem State.updSlot_eth (s : State) (c : CoreId) (i : BitVec 2) (f : Slot → Slot) : (s.updSlot c i f).eth = s.eth := rfl

/-! ### updMe -/

@[simp] theorem State.updMe_clk (s : State) (f : Slot → Slot) : (s.updMe f).clk = s.clk := rfl
@[simp] theorem State.updMe_sched (s : State) (f : Slot → Slot) : (s.updMe f).sched = s.sched := rfl
@[simp] theorem State.updMe_autorun (s : State) (f : Slot → Slot) : (s.updMe f).autorun = s.autorun := rfl
@[simp] theorem State.updMe_cur (s : State) (f : Slot → Slot) : (s.updMe f).cur = s.cur := rfl
@[simp] theorem State.updMe_nextId (s : State) (f : Slot → Slot) : (s.updMe f).nextId = s.nextId := rfl
@[simp] theorem State.updMe_freeCnt (s : State) (f : Slot → Slot) : (s.updMe f).freeCnt = s.freeCnt := rfl
@[simp] theorem State.updMe_part (s : State) (f : Slot → Slot) : (s.updMe f).part = s.part := rfl
@[simp] theorem State.updMe_power (s : State) (f : Slot → Slot) : (s.updMe f).power = s.power := rfl
@[simp] theorem State.updMe_rot (s : State) (f : Slot → Slot) : (s.updMe f).rot = s.rot := rfl
@[simp] theorem State.updMe_hbm (s : State) (f : Slot → Slot) : (s.updMe f).hbm = s.hbm := rfl
@[simp] theorem State.updMe_mem (s : State) (f : Slot → Slot) : (s.updMe f).mem = s.mem := rfl
@[simp] theorem State.updMe_clusters (s : State) (f : Slot → Slot) : (s.updMe f).clusters = s.clusters := rfl
@[simp] theorem State.updMe_chiplets (s : State) (f : Slot → Slot) : (s.updMe f).chiplets = s.chiplets := rfl
@[simp] theorem State.updMe_memq (s : State) (f : Slot → Slot) : (s.updMe f).memq = s.memq := rfl
@[simp] theorem State.updMe_rets (s : State) (f : Slot → Slot) : (s.updMe f).rets = s.rets := rfl
@[simp] theorem State.updMe_rems (s : State) (f : Slot → Slot) : (s.updMe f).rems = s.rems := rfl
@[simp] theorem State.updMe_mesh (s : State) (f : Slot → Slot) : (s.updMe f).mesh = s.mesh := rfl
@[simp] theorem State.updMe_pairs (s : State) (f : Slot → Slot) : (s.updMe f).pairs = s.pairs := rfl
@[simp] theorem State.updMe_launches (s : State) (f : Slot → Slot) : (s.updMe f).launches = s.launches := rfl
@[simp] theorem State.updMe_fw (s : State) (f : Slot → Slot) : (s.updMe f).fw = s.fw := rfl
@[simp] theorem State.updMe_lam (s : State) (f : Slot → Slot) : (s.updMe f).lam = s.lam := rfl
@[simp] theorem State.updMe_eth (s : State) (f : Slot → Slot) : (s.updMe f).eth = s.eth := rfl

/-! ### updCtx -/

@[simp] theorem State.updCtx_clk (s : State) (c : CoreId) (i : BitVec 2) (f : Ctx → Ctx) : (s.updCtx c i f).clk = s.clk := rfl
@[simp] theorem State.updCtx_sched (s : State) (c : CoreId) (i : BitVec 2) (f : Ctx → Ctx) : (s.updCtx c i f).sched = s.sched := rfl
@[simp] theorem State.updCtx_autorun (s : State) (c : CoreId) (i : BitVec 2) (f : Ctx → Ctx) : (s.updCtx c i f).autorun = s.autorun := rfl
@[simp] theorem State.updCtx_cur (s : State) (c : CoreId) (i : BitVec 2) (f : Ctx → Ctx) : (s.updCtx c i f).cur = s.cur := rfl
@[simp] theorem State.updCtx_nextId (s : State) (c : CoreId) (i : BitVec 2) (f : Ctx → Ctx) : (s.updCtx c i f).nextId = s.nextId := rfl
@[simp] theorem State.updCtx_freeCnt (s : State) (c : CoreId) (i : BitVec 2) (f : Ctx → Ctx) : (s.updCtx c i f).freeCnt = s.freeCnt := rfl
@[simp] theorem State.updCtx_part (s : State) (c : CoreId) (i : BitVec 2) (f : Ctx → Ctx) : (s.updCtx c i f).part = s.part := rfl
@[simp] theorem State.updCtx_power (s : State) (c : CoreId) (i : BitVec 2) (f : Ctx → Ctx) : (s.updCtx c i f).power = s.power := rfl
@[simp] theorem State.updCtx_rot (s : State) (c : CoreId) (i : BitVec 2) (f : Ctx → Ctx) : (s.updCtx c i f).rot = s.rot := rfl
@[simp] theorem State.updCtx_hbm (s : State) (c : CoreId) (i : BitVec 2) (f : Ctx → Ctx) : (s.updCtx c i f).hbm = s.hbm := rfl
@[simp] theorem State.updCtx_mem (s : State) (c : CoreId) (i : BitVec 2) (f : Ctx → Ctx) : (s.updCtx c i f).mem = s.mem := rfl
@[simp] theorem State.updCtx_clusters (s : State) (c : CoreId) (i : BitVec 2) (f : Ctx → Ctx) : (s.updCtx c i f).clusters = s.clusters := rfl
@[simp] theorem State.updCtx_chiplets (s : State) (c : CoreId) (i : BitVec 2) (f : Ctx → Ctx) : (s.updCtx c i f).chiplets = s.chiplets := rfl
@[simp] theorem State.updCtx_memq (s : State) (c : CoreId) (i : BitVec 2) (f : Ctx → Ctx) : (s.updCtx c i f).memq = s.memq := rfl
@[simp] theorem State.updCtx_rets (s : State) (c : CoreId) (i : BitVec 2) (f : Ctx → Ctx) : (s.updCtx c i f).rets = s.rets := rfl
@[simp] theorem State.updCtx_rems (s : State) (c : CoreId) (i : BitVec 2) (f : Ctx → Ctx) : (s.updCtx c i f).rems = s.rems := rfl
@[simp] theorem State.updCtx_mesh (s : State) (c : CoreId) (i : BitVec 2) (f : Ctx → Ctx) : (s.updCtx c i f).mesh = s.mesh := rfl
@[simp] theorem State.updCtx_pairs (s : State) (c : CoreId) (i : BitVec 2) (f : Ctx → Ctx) : (s.updCtx c i f).pairs = s.pairs := rfl
@[simp] theorem State.updCtx_launches (s : State) (c : CoreId) (i : BitVec 2) (f : Ctx → Ctx) : (s.updCtx c i f).launches = s.launches := rfl
@[simp] theorem State.updCtx_fw (s : State) (c : CoreId) (i : BitVec 2) (f : Ctx → Ctx) : (s.updCtx c i f).fw = s.fw := rfl
@[simp] theorem State.updCtx_lam (s : State) (c : CoreId) (i : BitVec 2) (f : Ctx → Ctx) : (s.updCtx c i f).lam = s.lam := rfl
@[simp] theorem State.updCtx_eth (s : State) (c : CoreId) (i : BitVec 2) (f : Ctx → Ctx) : (s.updCtx c i f).eth = s.eth := rfl

/-! ### updMyCtx -/

@[simp] theorem State.updMyCtx_clk (s : State) (f : Ctx → Ctx) : (s.updMyCtx f).clk = s.clk := rfl
@[simp] theorem State.updMyCtx_sched (s : State) (f : Ctx → Ctx) : (s.updMyCtx f).sched = s.sched := rfl
@[simp] theorem State.updMyCtx_autorun (s : State) (f : Ctx → Ctx) : (s.updMyCtx f).autorun = s.autorun := rfl
@[simp] theorem State.updMyCtx_cur (s : State) (f : Ctx → Ctx) : (s.updMyCtx f).cur = s.cur := rfl
@[simp] theorem State.updMyCtx_nextId (s : State) (f : Ctx → Ctx) : (s.updMyCtx f).nextId = s.nextId := rfl
@[simp] theorem State.updMyCtx_freeCnt (s : State) (f : Ctx → Ctx) : (s.updMyCtx f).freeCnt = s.freeCnt := rfl
@[simp] theorem State.updMyCtx_part (s : State) (f : Ctx → Ctx) : (s.updMyCtx f).part = s.part := rfl
@[simp] theorem State.updMyCtx_power (s : State) (f : Ctx → Ctx) : (s.updMyCtx f).power = s.power := rfl
@[simp] theorem State.updMyCtx_rot (s : State) (f : Ctx → Ctx) : (s.updMyCtx f).rot = s.rot := rfl
@[simp] theorem State.updMyCtx_hbm (s : State) (f : Ctx → Ctx) : (s.updMyCtx f).hbm = s.hbm := rfl
@[simp] theorem State.updMyCtx_mem (s : State) (f : Ctx → Ctx) : (s.updMyCtx f).mem = s.mem := rfl
@[simp] theorem State.updMyCtx_clusters (s : State) (f : Ctx → Ctx) : (s.updMyCtx f).clusters = s.clusters := rfl
@[simp] theorem State.updMyCtx_chiplets (s : State) (f : Ctx → Ctx) : (s.updMyCtx f).chiplets = s.chiplets := rfl
@[simp] theorem State.updMyCtx_memq (s : State) (f : Ctx → Ctx) : (s.updMyCtx f).memq = s.memq := rfl
@[simp] theorem State.updMyCtx_rets (s : State) (f : Ctx → Ctx) : (s.updMyCtx f).rets = s.rets := rfl
@[simp] theorem State.updMyCtx_rems (s : State) (f : Ctx → Ctx) : (s.updMyCtx f).rems = s.rems := rfl
@[simp] theorem State.updMyCtx_mesh (s : State) (f : Ctx → Ctx) : (s.updMyCtx f).mesh = s.mesh := rfl
@[simp] theorem State.updMyCtx_pairs (s : State) (f : Ctx → Ctx) : (s.updMyCtx f).pairs = s.pairs := rfl
@[simp] theorem State.updMyCtx_launches (s : State) (f : Ctx → Ctx) : (s.updMyCtx f).launches = s.launches := rfl
@[simp] theorem State.updMyCtx_fw (s : State) (f : Ctx → Ctx) : (s.updMyCtx f).fw = s.fw := rfl
@[simp] theorem State.updMyCtx_lam (s : State) (f : Ctx → Ctx) : (s.updMyCtx f).lam = s.lam := rfl
@[simp] theorem State.updMyCtx_eth (s : State) (f : Ctx → Ctx) : (s.updMyCtx f).eth = s.eth := rfl

/-! ### updCluster -/

@[simp] theorem State.updCluster_clk (s : State) (k : ClusterId) (f : Cluster → Cluster) : (s.updCluster k f).clk = s.clk := rfl
@[simp] theorem State.updCluster_sched (s : State) (k : ClusterId) (f : Cluster → Cluster) : (s.updCluster k f).sched = s.sched := rfl
@[simp] theorem State.updCluster_autorun (s : State) (k : ClusterId) (f : Cluster → Cluster) : (s.updCluster k f).autorun = s.autorun := rfl
@[simp] theorem State.updCluster_cur (s : State) (k : ClusterId) (f : Cluster → Cluster) : (s.updCluster k f).cur = s.cur := rfl
@[simp] theorem State.updCluster_nextId (s : State) (k : ClusterId) (f : Cluster → Cluster) : (s.updCluster k f).nextId = s.nextId := rfl
@[simp] theorem State.updCluster_freeCnt (s : State) (k : ClusterId) (f : Cluster → Cluster) : (s.updCluster k f).freeCnt = s.freeCnt := rfl
@[simp] theorem State.updCluster_part (s : State) (k : ClusterId) (f : Cluster → Cluster) : (s.updCluster k f).part = s.part := rfl
@[simp] theorem State.updCluster_power (s : State) (k : ClusterId) (f : Cluster → Cluster) : (s.updCluster k f).power = s.power := rfl
@[simp] theorem State.updCluster_rot (s : State) (k : ClusterId) (f : Cluster → Cluster) : (s.updCluster k f).rot = s.rot := rfl
@[simp] theorem State.updCluster_hbm (s : State) (k : ClusterId) (f : Cluster → Cluster) : (s.updCluster k f).hbm = s.hbm := rfl
@[simp] theorem State.updCluster_mem (s : State) (k : ClusterId) (f : Cluster → Cluster) : (s.updCluster k f).mem = s.mem := rfl
@[simp] theorem State.updCluster_cores (s : State) (k : ClusterId) (f : Cluster → Cluster) : (s.updCluster k f).cores = s.cores := rfl
@[simp] theorem State.updCluster_chiplets (s : State) (k : ClusterId) (f : Cluster → Cluster) : (s.updCluster k f).chiplets = s.chiplets := rfl
@[simp] theorem State.updCluster_memq (s : State) (k : ClusterId) (f : Cluster → Cluster) : (s.updCluster k f).memq = s.memq := rfl
@[simp] theorem State.updCluster_rets (s : State) (k : ClusterId) (f : Cluster → Cluster) : (s.updCluster k f).rets = s.rets := rfl
@[simp] theorem State.updCluster_rems (s : State) (k : ClusterId) (f : Cluster → Cluster) : (s.updCluster k f).rems = s.rems := rfl
@[simp] theorem State.updCluster_mesh (s : State) (k : ClusterId) (f : Cluster → Cluster) : (s.updCluster k f).mesh = s.mesh := rfl
@[simp] theorem State.updCluster_pairs (s : State) (k : ClusterId) (f : Cluster → Cluster) : (s.updCluster k f).pairs = s.pairs := rfl
@[simp] theorem State.updCluster_launches (s : State) (k : ClusterId) (f : Cluster → Cluster) : (s.updCluster k f).launches = s.launches := rfl
@[simp] theorem State.updCluster_fw (s : State) (k : ClusterId) (f : Cluster → Cluster) : (s.updCluster k f).fw = s.fw := rfl
@[simp] theorem State.updCluster_lam (s : State) (k : ClusterId) (f : Cluster → Cluster) : (s.updCluster k f).lam = s.lam := rfl
@[simp] theorem State.updCluster_eth (s : State) (k : ClusterId) (f : Cluster → Cluster) : (s.updCluster k f).eth = s.eth := rfl

/-! ### updChiplet -/

@[simp] theorem State.updChiplet_clk (s : State) (k : BitVec 4) (f : Chiplet → Chiplet) : (s.updChiplet k f).clk = s.clk := rfl
@[simp] theorem State.updChiplet_sched (s : State) (k : BitVec 4) (f : Chiplet → Chiplet) : (s.updChiplet k f).sched = s.sched := rfl
@[simp] theorem State.updChiplet_autorun (s : State) (k : BitVec 4) (f : Chiplet → Chiplet) : (s.updChiplet k f).autorun = s.autorun := rfl
@[simp] theorem State.updChiplet_cur (s : State) (k : BitVec 4) (f : Chiplet → Chiplet) : (s.updChiplet k f).cur = s.cur := rfl
@[simp] theorem State.updChiplet_nextId (s : State) (k : BitVec 4) (f : Chiplet → Chiplet) : (s.updChiplet k f).nextId = s.nextId := rfl
@[simp] theorem State.updChiplet_freeCnt (s : State) (k : BitVec 4) (f : Chiplet → Chiplet) : (s.updChiplet k f).freeCnt = s.freeCnt := rfl
@[simp] theorem State.updChiplet_part (s : State) (k : BitVec 4) (f : Chiplet → Chiplet) : (s.updChiplet k f).part = s.part := rfl
@[simp] theorem State.updChiplet_power (s : State) (k : BitVec 4) (f : Chiplet → Chiplet) : (s.updChiplet k f).power = s.power := rfl
@[simp] theorem State.updChiplet_rot (s : State) (k : BitVec 4) (f : Chiplet → Chiplet) : (s.updChiplet k f).rot = s.rot := rfl
@[simp] theorem State.updChiplet_hbm (s : State) (k : BitVec 4) (f : Chiplet → Chiplet) : (s.updChiplet k f).hbm = s.hbm := rfl
@[simp] theorem State.updChiplet_mem (s : State) (k : BitVec 4) (f : Chiplet → Chiplet) : (s.updChiplet k f).mem = s.mem := rfl
@[simp] theorem State.updChiplet_cores (s : State) (k : BitVec 4) (f : Chiplet → Chiplet) : (s.updChiplet k f).cores = s.cores := rfl
@[simp] theorem State.updChiplet_clusters (s : State) (k : BitVec 4) (f : Chiplet → Chiplet) : (s.updChiplet k f).clusters = s.clusters := rfl
@[simp] theorem State.updChiplet_memq (s : State) (k : BitVec 4) (f : Chiplet → Chiplet) : (s.updChiplet k f).memq = s.memq := rfl
@[simp] theorem State.updChiplet_rets (s : State) (k : BitVec 4) (f : Chiplet → Chiplet) : (s.updChiplet k f).rets = s.rets := rfl
@[simp] theorem State.updChiplet_rems (s : State) (k : BitVec 4) (f : Chiplet → Chiplet) : (s.updChiplet k f).rems = s.rems := rfl
@[simp] theorem State.updChiplet_mesh (s : State) (k : BitVec 4) (f : Chiplet → Chiplet) : (s.updChiplet k f).mesh = s.mesh := rfl
@[simp] theorem State.updChiplet_pairs (s : State) (k : BitVec 4) (f : Chiplet → Chiplet) : (s.updChiplet k f).pairs = s.pairs := rfl
@[simp] theorem State.updChiplet_launches (s : State) (k : BitVec 4) (f : Chiplet → Chiplet) : (s.updChiplet k f).launches = s.launches := rfl
@[simp] theorem State.updChiplet_fw (s : State) (k : BitVec 4) (f : Chiplet → Chiplet) : (s.updChiplet k f).fw = s.fw := rfl
@[simp] theorem State.updChiplet_lam (s : State) (k : BitVec 4) (f : Chiplet → Chiplet) : (s.updChiplet k f).lam = s.lam := rfl
@[simp] theorem State.updChiplet_eth (s : State) (k : BitVec 4) (f : Chiplet → Chiplet) : (s.updChiplet k f).eth = s.eth := rfl

/-! ### updJob -/

@[simp] theorem State.updJob_clk (s : State) (j : JobId) (f : Job → Job) : (s.updJob j f).clk = s.clk := rfl
@[simp] theorem State.updJob_sched (s : State) (j : JobId) (f : Job → Job) : (s.updJob j f).sched = s.sched := rfl
@[simp] theorem State.updJob_autorun (s : State) (j : JobId) (f : Job → Job) : (s.updJob j f).autorun = s.autorun := rfl
@[simp] theorem State.updJob_cur (s : State) (j : JobId) (f : Job → Job) : (s.updJob j f).cur = s.cur := rfl
@[simp] theorem State.updJob_nextId (s : State) (j : JobId) (f : Job → Job) : (s.updJob j f).nextId = s.nextId := rfl
@[simp] theorem State.updJob_freeCnt (s : State) (j : JobId) (f : Job → Job) : (s.updJob j f).freeCnt = s.freeCnt := rfl
@[simp] theorem State.updJob_part (s : State) (j : JobId) (f : Job → Job) : (s.updJob j f).part = s.part := rfl
@[simp] theorem State.updJob_power (s : State) (j : JobId) (f : Job → Job) : (s.updJob j f).power = s.power := rfl
@[simp] theorem State.updJob_rot (s : State) (j : JobId) (f : Job → Job) : (s.updJob j f).rot = s.rot := rfl
@[simp] theorem State.updJob_hbm (s : State) (j : JobId) (f : Job → Job) : (s.updJob j f).hbm = s.hbm := rfl
@[simp] theorem State.updJob_mem (s : State) (j : JobId) (f : Job → Job) : (s.updJob j f).mem = s.mem := rfl
@[simp] theorem State.updJob_cores (s : State) (j : JobId) (f : Job → Job) : (s.updJob j f).cores = s.cores := rfl
@[simp] theorem State.updJob_clusters (s : State) (j : JobId) (f : Job → Job) : (s.updJob j f).clusters = s.clusters := rfl
@[simp] theorem State.updJob_chiplets (s : State) (j : JobId) (f : Job → Job) : (s.updJob j f).chiplets = s.chiplets := rfl
@[simp] theorem State.updJob_memq (s : State) (j : JobId) (f : Job → Job) : (s.updJob j f).memq = s.memq := rfl
@[simp] theorem State.updJob_rets (s : State) (j : JobId) (f : Job → Job) : (s.updJob j f).rets = s.rets := rfl
@[simp] theorem State.updJob_rems (s : State) (j : JobId) (f : Job → Job) : (s.updJob j f).rems = s.rems := rfl
@[simp] theorem State.updJob_mesh (s : State) (j : JobId) (f : Job → Job) : (s.updJob j f).mesh = s.mesh := rfl
@[simp] theorem State.updJob_pairs (s : State) (j : JobId) (f : Job → Job) : (s.updJob j f).pairs = s.pairs := rfl
@[simp] theorem State.updJob_launches (s : State) (j : JobId) (f : Job → Job) : (s.updJob j f).launches = s.launches := rfl
@[simp] theorem State.updJob_lam (s : State) (j : JobId) (f : Job → Job) : (s.updJob j f).lam = s.lam := rfl
@[simp] theorem State.updJob_eth (s : State) (j : JobId) (f : Job → Job) : (s.updJob j f).eth = s.eth := rfl

/-! ### updDir -/

@[simp] theorem State.updDir_clk (s : State) (c : CoreId) (j : JobId) (f : Dir → Dir) : (s.updDir c j f).clk = s.clk := rfl
@[simp] theorem State.updDir_sched (s : State) (c : CoreId) (j : JobId) (f : Dir → Dir) : (s.updDir c j f).sched = s.sched := rfl
@[simp] theorem State.updDir_autorun (s : State) (c : CoreId) (j : JobId) (f : Dir → Dir) : (s.updDir c j f).autorun = s.autorun := rfl
@[simp] theorem State.updDir_cur (s : State) (c : CoreId) (j : JobId) (f : Dir → Dir) : (s.updDir c j f).cur = s.cur := rfl
@[simp] theorem State.updDir_nextId (s : State) (c : CoreId) (j : JobId) (f : Dir → Dir) : (s.updDir c j f).nextId = s.nextId := rfl
@[simp] theorem State.updDir_freeCnt (s : State) (c : CoreId) (j : JobId) (f : Dir → Dir) : (s.updDir c j f).freeCnt = s.freeCnt := rfl
@[simp] theorem State.updDir_part (s : State) (c : CoreId) (j : JobId) (f : Dir → Dir) : (s.updDir c j f).part = s.part := rfl
@[simp] theorem State.updDir_power (s : State) (c : CoreId) (j : JobId) (f : Dir → Dir) : (s.updDir c j f).power = s.power := rfl
@[simp] theorem State.updDir_rot (s : State) (c : CoreId) (j : JobId) (f : Dir → Dir) : (s.updDir c j f).rot = s.rot := rfl
@[simp] theorem State.updDir_hbm (s : State) (c : CoreId) (j : JobId) (f : Dir → Dir) : (s.updDir c j f).hbm = s.hbm := rfl
@[simp] theorem State.updDir_mem (s : State) (c : CoreId) (j : JobId) (f : Dir → Dir) : (s.updDir c j f).mem = s.mem := rfl
@[simp] theorem State.updDir_cores (s : State) (c : CoreId) (j : JobId) (f : Dir → Dir) : (s.updDir c j f).cores = s.cores := rfl
@[simp] theorem State.updDir_clusters (s : State) (c : CoreId) (j : JobId) (f : Dir → Dir) : (s.updDir c j f).clusters = s.clusters := rfl
@[simp] theorem State.updDir_chiplets (s : State) (c : CoreId) (j : JobId) (f : Dir → Dir) : (s.updDir c j f).chiplets = s.chiplets := rfl
@[simp] theorem State.updDir_memq (s : State) (c : CoreId) (j : JobId) (f : Dir → Dir) : (s.updDir c j f).memq = s.memq := rfl
@[simp] theorem State.updDir_rets (s : State) (c : CoreId) (j : JobId) (f : Dir → Dir) : (s.updDir c j f).rets = s.rets := rfl
@[simp] theorem State.updDir_rems (s : State) (c : CoreId) (j : JobId) (f : Dir → Dir) : (s.updDir c j f).rems = s.rems := rfl
@[simp] theorem State.updDir_mesh (s : State) (c : CoreId) (j : JobId) (f : Dir → Dir) : (s.updDir c j f).mesh = s.mesh := rfl
@[simp] theorem State.updDir_pairs (s : State) (c : CoreId) (j : JobId) (f : Dir → Dir) : (s.updDir c j f).pairs = s.pairs := rfl
@[simp] theorem State.updDir_launches (s : State) (c : CoreId) (j : JobId) (f : Dir → Dir) : (s.updDir c j f).launches = s.launches := rfl
@[simp] theorem State.updDir_lam (s : State) (c : CoreId) (j : JobId) (f : Dir → Dir) : (s.updDir c j f).lam = s.lam := rfl
@[simp] theorem State.updDir_eth (s : State) (c : CoreId) (j : JobId) (f : Dir → Dir) : (s.updDir c j f).eth = s.eth := rfl

/-! ### putFlight -/

@[simp] theorem State.putFlight_clk (s : State) (c : CoreId) (m : Msg) (h : Bool) : (putFlight s c m h).clk = s.clk := rfl
@[simp] theorem State.putFlight_sched (s : State) (c : CoreId) (m : Msg) (h : Bool) : (putFlight s c m h).sched = s.sched := rfl
@[simp] theorem State.putFlight_autorun (s : State) (c : CoreId) (m : Msg) (h : Bool) : (putFlight s c m h).autorun = s.autorun := rfl
@[simp] theorem State.putFlight_cur (s : State) (c : CoreId) (m : Msg) (h : Bool) : (putFlight s c m h).cur = s.cur := rfl
@[simp] theorem State.putFlight_freeCnt (s : State) (c : CoreId) (m : Msg) (h : Bool) : (putFlight s c m h).freeCnt = s.freeCnt := rfl
@[simp] theorem State.putFlight_part (s : State) (c : CoreId) (m : Msg) (h : Bool) : (putFlight s c m h).part = s.part := rfl
@[simp] theorem State.putFlight_power (s : State) (c : CoreId) (m : Msg) (h : Bool) : (putFlight s c m h).power = s.power := rfl
@[simp] theorem State.putFlight_rot (s : State) (c : CoreId) (m : Msg) (h : Bool) : (putFlight s c m h).rot = s.rot := rfl
@[simp] theorem State.putFlight_hbm (s : State) (c : CoreId) (m : Msg) (h : Bool) : (putFlight s c m h).hbm = s.hbm := rfl
@[simp] theorem State.putFlight_mem (s : State) (c : CoreId) (m : Msg) (h : Bool) : (putFlight s c m h).mem = s.mem := rfl
@[simp] theorem State.putFlight_cores (s : State) (c : CoreId) (m : Msg) (h : Bool) : (putFlight s c m h).cores = s.cores := rfl
@[simp] theorem State.putFlight_clusters (s : State) (c : CoreId) (m : Msg) (h : Bool) : (putFlight s c m h).clusters = s.clusters := rfl
@[simp] theorem State.putFlight_chiplets (s : State) (c : CoreId) (m : Msg) (h : Bool) : (putFlight s c m h).chiplets = s.chiplets := rfl
@[simp] theorem State.putFlight_memq (s : State) (c : CoreId) (m : Msg) (h : Bool) : (putFlight s c m h).memq = s.memq := rfl
@[simp] theorem State.putFlight_rets (s : State) (c : CoreId) (m : Msg) (h : Bool) : (putFlight s c m h).rets = s.rets := rfl
@[simp] theorem State.putFlight_rems (s : State) (c : CoreId) (m : Msg) (h : Bool) : (putFlight s c m h).rems = s.rems := rfl
@[simp] theorem State.putFlight_pairs (s : State) (c : CoreId) (m : Msg) (h : Bool) : (putFlight s c m h).pairs = s.pairs := rfl
@[simp] theorem State.putFlight_launches (s : State) (c : CoreId) (m : Msg) (h : Bool) : (putFlight s c m h).launches = s.launches := rfl
@[simp] theorem State.putFlight_fw (s : State) (c : CoreId) (m : Msg) (h : Bool) : (putFlight s c m h).fw = s.fw := rfl
@[simp] theorem State.putFlight_lam (s : State) (c : CoreId) (m : Msg) (h : Bool) : (putFlight s c m h).lam = s.lam := rfl
@[simp] theorem State.putFlight_eth (s : State) (c : CoreId) (m : Msg) (h : Bool) : (putFlight s c m h).eth = s.eth := rfl

/-! ### stall -/

@[simp] theorem State.stall_clk (s : State) (w : Wait) : (stall s w).clk = s.clk := rfl
@[simp] theorem State.stall_sched (s : State) (w : Wait) : (stall s w).sched = s.sched := rfl
@[simp] theorem State.stall_autorun (s : State) (w : Wait) : (stall s w).autorun = s.autorun := rfl
@[simp] theorem State.stall_cur (s : State) (w : Wait) : (stall s w).cur = s.cur := rfl
@[simp] theorem State.stall_nextId (s : State) (w : Wait) : (stall s w).nextId = s.nextId := rfl
@[simp] theorem State.stall_freeCnt (s : State) (w : Wait) : (stall s w).freeCnt = s.freeCnt := rfl
@[simp] theorem State.stall_part (s : State) (w : Wait) : (stall s w).part = s.part := rfl
@[simp] theorem State.stall_power (s : State) (w : Wait) : (stall s w).power = s.power := rfl
@[simp] theorem State.stall_rot (s : State) (w : Wait) : (stall s w).rot = s.rot := rfl
@[simp] theorem State.stall_hbm (s : State) (w : Wait) : (stall s w).hbm = s.hbm := rfl
@[simp] theorem State.stall_mem (s : State) (w : Wait) : (stall s w).mem = s.mem := rfl
@[simp] theorem State.stall_clusters (s : State) (w : Wait) : (stall s w).clusters = s.clusters := rfl
@[simp] theorem State.stall_chiplets (s : State) (w : Wait) : (stall s w).chiplets = s.chiplets := rfl
@[simp] theorem State.stall_memq (s : State) (w : Wait) : (stall s w).memq = s.memq := rfl
@[simp] theorem State.stall_rets (s : State) (w : Wait) : (stall s w).rets = s.rets := rfl
@[simp] theorem State.stall_rems (s : State) (w : Wait) : (stall s w).rems = s.rems := rfl
@[simp] theorem State.stall_mesh (s : State) (w : Wait) : (stall s w).mesh = s.mesh := rfl
@[simp] theorem State.stall_pairs (s : State) (w : Wait) : (stall s w).pairs = s.pairs := rfl
@[simp] theorem State.stall_launches (s : State) (w : Wait) : (stall s w).launches = s.launches := rfl
@[simp] theorem State.stall_fw (s : State) (w : Wait) : (stall s w).fw = s.fw := rfl
@[simp] theorem State.stall_lam (s : State) (w : Wait) : (stall s w).lam = s.lam := rfl
@[simp] theorem State.stall_eth (s : State) (w : Wait) : (stall s w).eth = s.eth := rfl

/-! ### retireTo -/

@[simp] theorem State.retireTo_clk (s : State) (pc : BitVec 48) : (retireTo s pc).clk = s.clk := rfl
@[simp] theorem State.retireTo_sched (s : State) (pc : BitVec 48) : (retireTo s pc).sched = s.sched := rfl
@[simp] theorem State.retireTo_autorun (s : State) (pc : BitVec 48) : (retireTo s pc).autorun = s.autorun := rfl
@[simp] theorem State.retireTo_cur (s : State) (pc : BitVec 48) : (retireTo s pc).cur = s.cur := rfl
@[simp] theorem State.retireTo_nextId (s : State) (pc : BitVec 48) : (retireTo s pc).nextId = s.nextId := rfl
@[simp] theorem State.retireTo_freeCnt (s : State) (pc : BitVec 48) : (retireTo s pc).freeCnt = s.freeCnt := rfl
@[simp] theorem State.retireTo_part (s : State) (pc : BitVec 48) : (retireTo s pc).part = s.part := rfl
@[simp] theorem State.retireTo_power (s : State) (pc : BitVec 48) : (retireTo s pc).power = s.power := rfl
@[simp] theorem State.retireTo_rot (s : State) (pc : BitVec 48) : (retireTo s pc).rot = s.rot := rfl
@[simp] theorem State.retireTo_hbm (s : State) (pc : BitVec 48) : (retireTo s pc).hbm = s.hbm := rfl
@[simp] theorem State.retireTo_mem (s : State) (pc : BitVec 48) : (retireTo s pc).mem = s.mem := rfl
@[simp] theorem State.retireTo_clusters (s : State) (pc : BitVec 48) : (retireTo s pc).clusters = s.clusters := rfl
@[simp] theorem State.retireTo_chiplets (s : State) (pc : BitVec 48) : (retireTo s pc).chiplets = s.chiplets := rfl
@[simp] theorem State.retireTo_memq (s : State) (pc : BitVec 48) : (retireTo s pc).memq = s.memq := rfl
@[simp] theorem State.retireTo_rets (s : State) (pc : BitVec 48) : (retireTo s pc).rets = s.rets := rfl
@[simp] theorem State.retireTo_rems (s : State) (pc : BitVec 48) : (retireTo s pc).rems = s.rems := rfl
@[simp] theorem State.retireTo_mesh (s : State) (pc : BitVec 48) : (retireTo s pc).mesh = s.mesh := rfl
@[simp] theorem State.retireTo_pairs (s : State) (pc : BitVec 48) : (retireTo s pc).pairs = s.pairs := rfl
@[simp] theorem State.retireTo_launches (s : State) (pc : BitVec 48) : (retireTo s pc).launches = s.launches := rfl
@[simp] theorem State.retireTo_fw (s : State) (pc : BitVec 48) : (retireTo s pc).fw = s.fw := rfl
@[simp] theorem State.retireTo_lam (s : State) (pc : BitVec 48) : (retireTo s pc).lam = s.lam := rfl
@[simp] theorem State.retireTo_eth (s : State) (pc : BitVec 48) : (retireTo s pc).eth = s.eth := rfl

/-! ### retire -/

@[simp] theorem State.retire_clk (s : State) : (retire s).clk = s.clk := rfl
@[simp] theorem State.retire_sched (s : State) : (retire s).sched = s.sched := rfl
@[simp] theorem State.retire_autorun (s : State) : (retire s).autorun = s.autorun := rfl
@[simp] theorem State.retire_cur (s : State) : (retire s).cur = s.cur := rfl
@[simp] theorem State.retire_nextId (s : State) : (retire s).nextId = s.nextId := rfl
@[simp] theorem State.retire_freeCnt (s : State) : (retire s).freeCnt = s.freeCnt := rfl
@[simp] theorem State.retire_part (s : State) : (retire s).part = s.part := rfl
@[simp] theorem State.retire_power (s : State) : (retire s).power = s.power := rfl
@[simp] theorem State.retire_rot (s : State) : (retire s).rot = s.rot := rfl
@[simp] theorem State.retire_hbm (s : State) : (retire s).hbm = s.hbm := rfl
@[simp] theorem State.retire_mem (s : State) : (retire s).mem = s.mem := rfl
@[simp] theorem State.retire_clusters (s : State) : (retire s).clusters = s.clusters := rfl
@[simp] theorem State.retire_chiplets (s : State) : (retire s).chiplets = s.chiplets := rfl
@[simp] theorem State.retire_memq (s : State) : (retire s).memq = s.memq := rfl
@[simp] theorem State.retire_rets (s : State) : (retire s).rets = s.rets := rfl
@[simp] theorem State.retire_rems (s : State) : (retire s).rems = s.rems := rfl
@[simp] theorem State.retire_mesh (s : State) : (retire s).mesh = s.mesh := rfl
@[simp] theorem State.retire_pairs (s : State) : (retire s).pairs = s.pairs := rfl
@[simp] theorem State.retire_launches (s : State) : (retire s).launches = s.launches := rfl
@[simp] theorem State.retire_fw (s : State) : (retire s).fw = s.fw := rfl
@[simp] theorem State.retire_lam (s : State) : (retire s).lam = s.lam := rfl
@[simp] theorem State.retire_eth (s : State) : (retire s).eth = s.eth := rfl

/-! ### Reading after writing -/

@[simp] theorem State.core_setCore_same (s : State) (c : CoreId) (k : Core) : (s.setCore c k).core c = k := by
  simp [State.core, State.setCore]
theorem State.core_setCore_other (s : State) {c d : CoreId} (k : Core) (h : d ≠ c) : (s.setCore c k).core d = s.core d := by
  have : c.toNat ≠ d.toNat := fun e => h (BitVec.eq_of_toNat_eq e.symm)
  simp [State.core, State.setCore, SMap.look_put_other _ _ _ _ this]
@[simp] theorem State.core_updCore_same (s : State) (c : CoreId) (f : Core → Core) : (s.updCore c f).core c = f (s.core c) := by
  simp [State.updCore]
theorem State.core_updCore_other (s : State) {c d : CoreId} (f : Core → Core) (h : d ≠ c) : (s.updCore c f).core d = s.core d := by
  simp [State.updCore, State.core_setCore_other _ _ h]

@[simp] theorem Core.slot_setSlot_same (k : Core) (i : BitVec 2) (x : Slot) : (k.setSlot i x).slot i = x := by
  simp [Core.slot, Core.setSlot]
theorem Core.slot_setSlot_other (k : Core) {i j : BitVec 2} (x : Slot) (h : j ≠ i) : (k.setSlot i x).slot j = k.slot j := by
  have : i.toNat ≠ j.toNat := fun e => h (BitVec.eq_of_toNat_eq e.symm)
  simp [Core.slot, Core.setSlot, this]
@[simp] theorem Core.slot_setCtx (k : Core) (i j : BitVec 2) (x : Option Ctx) : (k.setCtx i x).slot j = k.slot j := rfl
@[simp] theorem Core.ctx_setSlot (k : Core) (i j : BitVec 2) (x : Slot) : (k.setSlot i x).ctx j = k.ctx j := rfl
@[simp] theorem Core.ctx_setCtx_same (k : Core) (i : BitVec 2) (x : Option Ctx) : (k.setCtx i x).ctx i = x := by
  simp [Core.ctx, Core.setCtx]
theorem Core.ctx_setCtx_other (k : Core) {i j : BitVec 2} (x : Option Ctx) (h : j ≠ i) : (k.setCtx i x).ctx j = k.ctx j := by
  have : i.toNat ≠ j.toNat := fun e => h (BitVec.eq_of_toNat_eq e.symm)
  simp [Core.ctx, Core.setCtx, this]

@[simp] theorem State.slot_updSlot_same (s : State) (c : CoreId) (i : BitVec 2) (f : Slot → Slot) :
    (s.updSlot c i f).slot c i = f (s.slot c i) := by simp [State.slot, State.updSlot]
theorem State.slot_updSlot_slot (s : State) (c : CoreId) {i j : BitVec 2} (f : Slot → Slot) (h : j ≠ i) :
    (s.updSlot c i f).slot c j = s.slot c j := by simp [State.slot, State.updSlot, Core.slot_setSlot_other _ _ h]
theorem State.slot_updSlot_core (s : State) {c d : CoreId} (i j : BitVec 2) (f : Slot → Slot) (h : d ≠ c) :
    (s.updSlot c i f).slot d j = s.slot d j := by simp [State.slot, State.updSlot, State.core_updCore_other _ _ h]
@[simp] theorem State.me_updMe (s : State) (f : Slot → Slot) : (s.updMe f).me = f s.me := by
  simp [State.me, State.updMe]
@[simp] theorem State.ctxAt_updSlot (s : State) (c d : CoreId) (i j : BitVec 2) (f : Slot → Slot) :
    (s.updSlot c i f).ctxAt d j = s.ctxAt d j := by
  by_cases h : d = c
  · subst h; simp [State.ctxAt, State.updSlot]
  · simp [State.ctxAt, State.updSlot, State.core_updCore_other _ _ h]
@[simp] theorem State.ctxAt_updMe (s : State) (d : CoreId) (j : BitVec 2) (f : Slot → Slot) :
    (s.updMe f).ctxAt d j = s.ctxAt d j := by simp [State.updMe]
@[simp] theorem State.ctxAt_updCtx_same (s : State) (c : CoreId) (i : BitVec 2) (f : Ctx → Ctx) :
    (s.updCtx c i f).ctxAt c i = (s.ctxAt c i).map f := by simp [State.ctxAt, State.updCtx]
@[simp] theorem State.slot_updCtx (s : State) (c d : CoreId) (i j : BitVec 2) (f : Ctx → Ctx) :
    (s.updCtx c i f).slot d j = s.slot d j := by
  by_cases h : d = c
  · subst h; simp [State.slot, State.updCtx]
  · simp [State.slot, State.updCtx, State.core_updCore_other _ _ h]
@[simp] theorem State.me_updCtx (s : State) (c : CoreId) (i : BitVec 2) (f : Ctx → Ctx) : (s.updCtx c i f).me = s.me := by
  simp [State.me]

@[simp] theorem State.cluster_updCluster_same (s : State) (k : ClusterId) (f : Cluster → Cluster) :
    (s.updCluster k f).cluster k = f (s.cluster k) := by simp [State.cluster, State.updCluster]
theorem State.cluster_updCluster_other (s : State) {k l : ClusterId} (f : Cluster → Cluster) (h : l ≠ k) :
    (s.updCluster k f).cluster l = s.cluster l := by
  have : k.toNat ≠ l.toNat := fun e => h (BitVec.eq_of_toNat_eq e.symm)
  simp [State.cluster, State.updCluster, SMap.look_put_other _ _ _ _ this]
@[simp] theorem State.core_updCluster (s : State) (k : ClusterId) (f : Cluster → Cluster) (c : CoreId) :
    (s.updCluster k f).core c = s.core c := rfl
@[simp] theorem State.slot_updCluster (s : State) (k : ClusterId) (f : Cluster → Cluster) (c : CoreId) (i : BitVec 2) :
    (s.updCluster k f).slot c i = s.slot c i := rfl
@[simp] theorem State.me_updCluster (s : State) (k : ClusterId) (f : Cluster → Cluster) : (s.updCluster k f).me = s.me := rfl
@[simp] theorem State.core_updDir (s : State) (c : CoreId) (j : JobId) (f : Dir → Dir) (d : CoreId) :
    (s.updDir c j f).core d = s.core d := rfl
@[simp] theorem State.core_updJob (s : State) (j : JobId) (f : Job → Job) (d : CoreId) : (s.updJob j f).core d = s.core d := rfl
@[simp] theorem State.cluster_updCore (s : State) (c : CoreId) (f : Core → Core) (k : ClusterId) :
    (s.updCore c f).cluster k = s.cluster k := rfl
@[simp] theorem State.cluster_updSlot (s : State) (c : CoreId) (i : BitVec 2) (f : Slot → Slot) (k : ClusterId) :
    (s.updSlot c i f).cluster k = s.cluster k := rfl
@[simp] theorem State.cluster_updMe (s : State) (f : Slot → Slot) (k : ClusterId) : (s.updMe f).cluster k = s.cluster k := rfl

/-- A tile written to T0 is discarded; elsewhere it is what the slot then holds (R118). -/
@[simp] theorem Slot.tileRaw_setTile_same (x : Slot) (a : TReg) (t : Tile) (h : a ≠ 0) : (x.setTile a t).tileRaw a = t := by
  unfold Slot.tileRaw Slot.setTile; rw [if_neg h, if_neg h]; simp
theorem Slot.tileRaw_setTile_other (x : Slot) {a b : TReg} (t : Tile) (h : b ≠ a) : (x.setTile a t).tileRaw b = x.tileRaw b := by
  have : a.toNat ≠ b.toNat := fun e => h (BitVec.eq_of_toNat_eq e.symm)
  by_cases ha : a = 0
  · simp [Slot.setTile, ha]
  · unfold Slot.tileRaw Slot.setTile; rw [if_neg ha]; simp [this]
@[simp] theorem Slot.setTile_zero (x : Slot) (t : Tile) : x.setTile 0 t = x := by simp [Slot.setTile]
@[simp] theorem Slot.setMask_zero (x : Slot) (m : BitVec 64) : x.setMask 0 m = x := by simp [Slot.setMask]
@[simp] theorem Slot.mask_setMask_same (x : Slot) (a : MReg) (m : BitVec 64) (h : a ≠ 0) : (x.setMask a m).mask a = m := by
  unfold Slot.mask Slot.setMask; rw [if_neg h, if_neg h]; simp


end Sys2Proof.Machine
end

