-- ==== Sys2Proof/Laws/Alu.lean ====
section
/-! SUPPORT. What the issue of an instruction comes to on a slot that issues alone, with its tiles neither owed nor
bound: the gate of pairs, bound tiles, and the tile ALU's one way of writing results. -/

namespace Sys2Proof.Machine

theorem State.alone_trailing {s : State} (h : s.alone = true) : s.me.trailing = false := by
  simp [State.alone] at h; exact h.1
theorem State.alone_lead {s : State} (h : s.alone = true) : leadPair s = none := by
  simp [State.alone] at h; exact h.2
theorem State.alone_trail {s : State} (h : s.alone = true) : trailPair s = none := by
  simp [trailPair, State.alone_trailing h]
theorem State.alone_ownBinds {s : State} (h : s.alone = true) : ownBinds s = false := by
  simp [ownBinds, State.alone_trailing h, State.alone_lead h]
theorem State.alone_supplied {s : State} (h : s.alone = true) (a : TReg) : suppliedTile s a = none := by
  simp [suppliedTile, State.alone_trail h, State.alone_lead h]
theorem State.alone_heldBind {s : State} (h : s.alone = true) (a : TReg) : heldBind s a = false := by
  simp [heldBind, State.alone_lead h]
theorem State.alone_injects {s : State} (h : s.alone = true) : injects s = false := by
  simp [injects, State.alone_trail h]
theorem State.alone_clearInject {s : State} (h : s.alone = true) : clearInject s = s := by
  simp [clearInject, State.alone_injects h]
theorem State.alone_injectOut {s : State} (h : s.alone = true) (o : AluOut) : injectOut s o = o := by
  simp [injectOut, State.alone_injects h]
theorem State.alone_pairGate {s : State} (h : s.alone = true) (n : Nat) : pairGate s n = .go s := by
  simp [pairGate, State.alone_trail h, State.alone_lead h]
theorem State.alone_effect {s : State} (h : s.alone = true) (ad d : List Byte) (p : Bool) (e : Eff) :
    effect s ad d p e = performEff s s.cur.1 s.cur.2 s.me.icount e := by
  simp [effect, State.alone_trail h, State.alone_lead h]
theorem State.alone_heldOwn {s : State} (h : s.alone = true) : heldOwn s = false := by
  simp [heldOwn, State.alone_lead h]
theorem State.alone_ueEvent {s : State} (h : s.alone = true) (t : TReg) (r : Nat) (a : Word64) :
    ueEvent s t r a = performEff s s.cur.1 s.cur.2 s.me.icount (.ue t r a) := by
  simp [ueEvent, State.alone_trailing h, State.alone_lead h]

theorem State.clear_append {s : State} {l m : List TReg} (h : s.clear (l ++ m) = true) : s.clear l = true ∧ s.clear m = true := by
  simpa [State.clear, List.all_append] using h
theorem State.clear_owed {s : State} {l : List TReg} (h : s.clear l = true) : l.any (owedTile s.me) = false := by
  simp only [State.clear, List.all_eq_true, Bool.and_eq_true] at h
  simp only [List.any_eq_false]
  intro a ha; simpa using (h a ha).1
theorem State.clear_unbound {s : State} {l : List TReg} (h : s.clear l = true) {a : TReg} (ha : a ∈ l) (h0 : a ≠ 0) :
    boundTo s s.cur.1 s.cur.2 a = none := by
  simp only [State.clear, List.all_eq_true, Bool.and_eq_true, Bool.or_eq_true, beq_iff_eq, Option.isNone_iff_eq_none] at h
  exact (h a ha).2.resolve_left h0

/-- An instruction whose tiles are clear and whose slot issues alone begins at once. -/
theorem issue_alone {s : State} (h : s.alone = true) {tiles : List TReg} (ht : s.clear tiles = true) (n : Nat) (body : State → State) :
    issue s n tiles body = body s := by
  simp [issue, State.alone_pairGate h, State.clear_owed ht]

theorem mem_namedTiles {l : List TReg} {a : TReg} (h : a ∈ namedTiles l) : a ∈ l ∧ a ≠ 0 := by
  simpa [namedTiles] using h

theorem readBound_alone {s : State} (h : s.alone = true) {a : TReg} (hb : boundTo s s.cur.1 s.cur.2 a = none) :
    readBound s a = .unbound := by
  simp [readBound, State.alone_supplied h, State.alone_ownBinds h, State.alone_heldBind h, hb]
theorem writeBound_alone {s : State} (h : s.alone = true) {a : TReg} (hb : boundTo s s.cur.1 s.cur.2 a = none) :
    writeBound s a = .unbound := by
  simp [writeBound, State.alone_ownBinds h, State.alone_heldBind h, hb]

theorem boundOf_alone {s : State} (h : s.alone = true) {r w : List TReg} (hc : s.clear (r ++ w) = true) :
    boundOf s r w = { pops := [], pushes := [], stalls := false, trap := none } := by
  obtain ⟨hr, hw⟩ := State.clear_append hc
  have er : (namedTiles r).map (fun a => (a, readBound s a)) = (namedTiles r).map fun a => (a, Pop.unbound) :=
    List.map_congr_left fun a ha => by
      obtain ⟨h1, h2⟩ := mem_namedTiles ha
      rw [readBound_alone h (State.clear_unbound hr h1 h2)]
  have ew : (namedTiles w).map (fun a => (a, writeBound s a)) = (namedTiles w).map fun a => (a, Push.unbound) :=
    List.map_congr_left fun a ha => by
      obtain ⟨h1, h2⟩ := mem_namedTiles ha
      rw [writeBound_alone h (State.clear_unbound hw h1 h2)]
  unfold boundOf
  rw [er, ew]
  have hn (l : List TReg) : List.findSome? (fun _ => (none : Option (Option Word64))) l = none := by
    rw [List.findSome?_eq_none_iff]; intros; rfl
  simp [List.findSome?_map, List.filterMap_map, Function.comp_def, hn]

theorem noteResidues_sound {s : State} {l : List TReg} (h : s.sound l = true) : noteResidues s l [] = s := by
  have : ((namedTiles l).filter fun a => !(s.me.tileRaw a).residueOk) = [] := by
    rw [List.filter_eq_nil_iff]
    intro a ha
    have := List.all_eq_true.mp h a (mem_namedTiles ha).1
    simp [this]
  simp [noteResidues, this]

/-- What a result that is written at once leaves: tiles, mask, LFSR, the ALU's time and credits, the next word. -/
theorem issueAlu_alone {s : State} (h : s.alone = true) {r w : List TReg} (hc : s.clear (r ++ w) = true) (hs : s.sound r = true)
    {f : AluIn → AluRes} {o : AluOut} (hf : f (aluIn s []) = .ok o) (hl : aluFree s o = true) (a : TReg) :
    issueAlu s a r w f = commit s o [] a := by
  have hbusy : ¬ (o.cycles ≠ 0 ∧ s.clk.cycle < (s.core s.cur.1).aluUntil) := by
    simp only [aluFree, Bool.or_eq_true, beq_iff_eq, decide_eq_true_eq] at hl
    omega
  have hpoor : ¬ (o.cycles ≠ 0 ∧ creditsOf s (clusterOf s.cur.1) < creditsFor o) := by
    simp only [aluFree, Bool.or_eq_true, beq_iff_eq, decide_eq_true_eq] at hl
    omega
  unfold issueAlu issueCost
  rw [issue_alone h hc]
  simp only [boundOf_alone h hc, hf, Option.isNone_none, Bool.true_and, Bool.false_eq_true, if_false, hbusy, hpoor,
    List.foldl_nil, noteResidues_sound hs]

theorem fold_keep {β : Type} (g : Slot → β) (hg : ∀ x a t, g (Slot.setTile x a t) = g x) (l : List (TReg × Tile)) :
    ∀ x : Slot, g (l.foldl (fun x p => x.setTile p.1 p.2) x) = g x := by
  induction l with
  | nil => intro; rfl
  | cons p l ih => intro x; simp [ih, hg]
theorem wrote_keep {β : Type} (g : Slot → β) (h1 : ∀ x a t, g (Slot.setTile x a t) = g x) (h2 : ∀ x a t, g (Slot.setMask x a t) = g x)
    (h3 : ∀ (x : Slot) v, g { x with lfsr := v } = g x) (x : Slot) (o : AluOut) : g (x.wrote o) = g x := by
  unfold Slot.wrote
  cases o.lfsr <;> cases o.mask <;> simp [h2, h3, fold_keep g h1]
theorem wrote_uid (x : Slot) (o : AluOut) : (x.wrote o).uid = x.uid :=
  wrote_keep (·.uid) (fun x a t => by unfold Slot.setTile; split <;> rfl) (fun x a t => by unfold Slot.setMask; split <;> rfl) (fun _ _ => rfl) x o
theorem wrote_trailing (x : Slot) (o : AluOut) : (x.wrote o).trailing = x.trailing :=
  wrote_keep (·.trailing) (fun x a t => by unfold Slot.setTile; split <;> rfl) (fun x a t => by unfold Slot.setMask; split <;> rfl) (fun _ _ => rfl) x o
theorem wrote_pc (x : Slot) (o : AluOut) : (x.wrote o).pc = x.pc :=
  wrote_keep (·.pc) (fun x a t => by unfold Slot.setTile; split <;> rfl) (fun x a t => by unfold Slot.setMask; split <;> rfl) (fun _ _ => rfl) x o
theorem wrote_ctx (x : Slot) (o : AluOut) : (x.wrote o).ctx = x.ctx :=
  wrote_keep (·.ctx) (fun x a t => by unfold Slot.setTile; split <;> rfl) (fun x a t => by unfold Slot.setMask; split <;> rfl) (fun _ _ => rfl) x o

theorem alone_congr {s t : State} (hc : t.cur = s.cur) (hp : t.pairs = s.pairs) (ht : t.me.trailing = s.me.trailing)
    (hu : t.me.uid = s.me.uid) : t.alone = s.alone := by
  simp [State.alone, leadPair, hc, hp, ht, hu]

/-- credits taken and the ALU busy -/
def aluTaken (s : State) (o : AluOut) : State :=
  if o.cycles = 0 then s else
    ({ s with power := { s.power with credits := s.power.credits.put (clusterOf s.cur.1).toNat (creditsOf s (clusterOf s.cur.1) - creditsFor o) } } : State).updCore
      s.cur.1 fun q => { q with aluUntil := s.clk.cycle + o.cycles }

theorem aluTaken_me (s : State) (o : AluOut) : (aluTaken s o).me = s.me := by
  unfold aluTaken; split
  · rfl
  · simp [State.me, State.slot]; rfl

theorem commit_alone {s : State} (h : s.alone = true) (o : AluOut) (hu : o.ue = false) (a : TReg) :
    commit s o [] a = retire (aluTaken (s.updMe fun x => x.wrote o) o) := by
  have h2 : (aluTaken (s.updMe fun x => x.wrote o) o).alone = true := by
    rw [alone_congr (s := s)] 
    · exact h
    · unfold aluTaken; split <;> rfl
    · unfold aluTaken; split <;> rfl
    · simp [aluTaken_me, wrote_trailing]
    · simp [aluTaken_me, wrote_uid]
  unfold commit
  simp only [State.alone_injectOut h, pushAll, List.foldl_nil, hu, Bool.false_eq_true, if_false]
  change retire (clearInject (aluTaken (s.updMe fun x => x.wrote o) o)) = _
  rw [State.alone_clearInject h2]

theorem wrote_eq (s : State) (o : AluOut) : wroteSlot s o = (s.me.wrote o).retired (s.me.pc+4) s.myCtx.job s.instant := rfl

theorem retire_me (s : State) : (retire s).me = s.me.retired (s.me.pc + 4) s.myCtx.job s.instant := by
  simp [retire, retireTo]; rfl

theorem aluTaken_ctxAt (s : State) (o : AluOut) (c : CoreId) (i : BitVec 2) : (aluTaken s o).ctxAt c i = s.ctxAt c i := by
  unfold aluTaken; split
  · rfl
  · by_cases hc : c = s.cur.1
    · subst hc; rw [State.ctxAt, State.core_updCore_same]; rfl
    · simp only [State.ctxAt]
      rw [State.core_updCore_other]
      · rfl
      · exact hc
theorem aluTaken_slot (s : State) (o : AluOut) (c : CoreId) (i : BitVec 2) : (aluTaken s o).slot c i = s.slot c i := by
  unfold aluTaken; split
  · rfl
  · by_cases hc : c = s.cur.1
    · subst hc; rw [State.slot, State.core_updCore_same]; rfl
    · simp only [State.slot]
      rw [State.core_updCore_other]
      · rfl
      · exact hc
theorem aluTaken_core_other (s : State) (o : AluOut) {c : CoreId} (hc : c ≠ s.cur.1) : (aluTaken s o).core c = s.core c := by
  unfold aluTaken; split
  · rfl
  · rw [State.core_updCore_other]
    · rfl
    · exact hc
theorem aluTaken_core (s : State) (o : AluOut) : (aluTaken s o).core s.cur.1 =
    { s.core s.cur.1 with aluUntil := if o.cycles = 0 then (s.core s.cur.1).aluUntil else s.clk.cycle + o.cycles } := by
  unfold aluTaken; split
  · rfl
  · rw [State.core_updCore_same]; rfl
@[simp] theorem aluTaken_cur (s : State) (o : AluOut) : (aluTaken s o).cur = s.cur := by unfold aluTaken; split <;> rfl
@[simp] theorem aluTaken_clk (s : State) (o : AluOut) : (aluTaken s o).clk = s.clk := by unfold aluTaken; split <;> rfl
theorem aluTaken_myCtx (s : State) (o : AluOut) : (aluTaken s o).myCtx = s.myCtx := by
  unfold State.myCtx; rw [aluTaken_me, aluTaken_cur, aluTaken_ctxAt]

theorem updMe_core (s : State) (f : Slot → Slot) : (s.updMe f).core s.cur.1 = (s.core s.cur.1).setSlot s.cur.2 (f s.me) := by
  simp [State.updMe, State.updSlot]; rfl
theorem updMe_core_other (s : State) (f : Slot → Slot) {c : CoreId} (h : c ≠ s.cur.1) : (s.updMe f).core c = s.core c := by
  simp [State.updMe, State.updSlot, State.core_updCore_other _ _ h]
theorem updMe_myCtx (s : State) (f : Slot → Slot) (h : (f s.me).ctx = s.me.ctx) : (s.updMe f).myCtx = s.myCtx := by
  simp [State.myCtx, h]

theorem aluWrote_commit {s : State} (h : s.alone = true) (o : AluOut) (hu : o.ue = false) (a : TReg) : AluWrote s (commit s o [] a) o := by
  rw [commit_alone h o hu]
  refine ⟨?_, ⟨?_, ?_, ?_, ?_, ?_⟩, ?_, ?_⟩
  · rw [retire_me, aluTaken_me, wrote_eq, aluTaken_myCtx, updMe_myCtx _ _ (wrote_ctx _ _)]
    simp [wrote_pc, State.instant, State.now]
  · unfold aluTaken; split <;> rfl
  · intro c hc
    rw [retire, retireTo, updMe_core_other _ _ (by simpa using hc), aluTaken_core_other _ _ (by simpa using hc), updMe_core_other _ _ hc]
  · have := updMe_core (aluTaken (s.updMe fun x => x.wrote o) o)
    simp only [aluTaken_cur, State.updMe_cur] at this
    rw [retire, retireTo, this]
    have e := aluTaken_core (s.updMe fun x => x.wrote o) o
    simp only [State.updMe_cur] at e
    rw [e, updMe_core]
    rfl
  · intro i hi
    have := State.slot_updSlot_slot (aluTaken (s.updMe fun x => x.wrote o) o) s.cur.1 (i := s.cur.2) (j := i)
    rw [retire, retireTo, State.updMe, aluTaken_cur, State.updMe_cur, this _ hi, aluTaken_slot]
    exact State.slot_updSlot_slot _ _ _ hi
  · intro k hk
    have : (clusterOf s.cur.1).toNat ≠ k.toNat := fun e => hk (BitVec.eq_of_toNat_eq e.symm)
    unfold aluTaken; split
    · rfl
    · simp only [creditsOf, State.retire_power, State.updCore_power]
      simp only [State.updMe_cur, State.updMe_power]
      rw [SMap.look_put_other _ _ _ _ this]
  · have := updMe_core (aluTaken (s.updMe fun x => x.wrote o) o)
    simp only [aluTaken_cur, State.updMe_cur] at this
    rw [retire, retireTo, this]
    have e := aluTaken_core (s.updMe fun x => x.wrote o) o
    simp only [State.updMe_cur] at e
    rw [e, updMe_core]
    rfl
  · unfold aluTaken; split
    · rfl
    · simp only [creditsOf, State.retire_power, State.updCore_power]
      simp only [State.updMe_cur, State.updMe_power]
      rw [SMap.look_put_same]
      rfl
end Sys2Proof.Machine
end

