-- ==== Sys2Proof/Certificates/Slice0/Obligations.lean ====
section
/-! DEFINITION. The statements for the provers, from the numbered rules of spec/. -/

open Sys2Proof Sys2Proof.Machine

/-- For each constructor that aluForm lists (integer, logic, shift, MAD, CMP, immediate, movement, shape, mask, float,
fused, FCMP, approximate, conversion and reduction groups, and SEED): if the slot issues alone, its tiles are owed
nothing and bound to no stream, the tiles it reads match their residues, its operands are allowed (aluAllowed:
formats, shapes, mask and rounding field as the rules ask, no tagged operand where the result has no tag) and the tile
ALU and its allowance serve the result, then the instruction has a result o, exec answers the next state with o's
tiles, mask and LFSR written in the slot, the slot READY at the next word, the tile ALU busy for o's cycles and the
cluster's credits taken; every other slot, core, context, engine and byte of memory is unchanged. (R14, R118, R325,
R326, R327, R328, R329, R353, R354, R368) -/
def Obligations.AluCompletes : Prop :=
  ∀ (i : Instr) (s : State) (f : AluForm), aluForm i = some f → s.aluReady i = true →
    ∃ o t, f.f (aluIn s []) = .ok o ∧ exec i s = .next t ∧ AluWrote s t o

/-- For each constructor of aluForm, if the slot issues alone with its tiles owed nothing and bound to no stream, its
context handles its traps, and the instruction's meaning answers a cause c on the tiles (SHAPE, ILLEGAL or POISON),
then exec answers the next state in which the slot is TRAPPED with c, TRAPADDR its own address, the budget set aside,
and a fault event sent; tiles, masks, memory and every other slot are unchanged. And a cause is answered on no
operands that aluAllowed allows. (R233, R235, R241, R327, R328, R346, R347) -/
def Obligations.AluTraps : Prop :=
  ∀ (i : Instr) (s : State) (f : AluForm) (c : Cause), aluForm i = some f → s.alone = true →
    s.clear (f.reads ++ f.writes) = true → s.handles = true → f.f (aluIn s []) = .error c → c ≠ .brk →
    aluAllowed i (aluIn s []) = false
      ∧ ∃ t tile, exec i s = .next t ∧ Traps s t c (s.me.pc.setWidth 64) s.me.pc tile

/-- ADD to AVGU, AND to CTZ, MAD, MOVI, MOVK, ADDI, MULI, ANDI, ORI, XORI and SHI complete on ready operands
(aluReady); when the destination is not T0 it keeps its shape, and every element of its storage is what
IntForm.element says: 0 outside the valid region, the old element where the mask is 0 or a source is absent, else the
result of intForm, which states the tables of R342 to R345 on bit vectors of the reference width (a 1×1 source is
extended by its own format first, a shift amount is read as 64 bits). T0 as destination changes no tile. (R117, R119,
R121, R327, R342, R343, R344, R345) -/
def Obligations.IntegerResults : Prop :=
  ∀ (i : Instr) (s : State) (f : IntForm), intForm i = some f → s.aluReady i = true →
    ∃ t, exec i s = .next t ∧ t.me.pc = s.me.pc + 4 ∧ OnlyMeAlu s t
      ∧ (f.a = 0 → t.me.tiles = s.me.tiles)
      ∧ (f.a ≠ 0 →
          let x := aluIn s []
          let u := t.me.tileRaw f.a
          let v := x.tile f.a
          u.fmt = v.fmt ∧ u.rows = v.rows ∧ u.cols = v.cols ∧ u.vrows = v.vrows ∧ u.vcols = v.vcols
            ∧ ∀ e, (e + 1) * fmtBits u.fmt ≤ 512 → u.raw e = f.element x e)
      ∧ ∀ n, n ≠ f.a → t.me.tileRaw n = s.me.tileRaw n

/-- FADD to FSCL (FCLASS apart), FMA, FMS, FNMA, FRCP, FRSQ, FEXP2 and FLOG2 complete on ready operands; when the
destination is not T0 it keeps its shape and every element of its storage is what FloatForm.element says: 0 outside
the valid region, the old element where masked or absent, else floatForm's pattern: the exact value of R356 rounded
once under RM, the sign changed for FABS, FNEG and FCPYS, or the function of R360 rounded to 11 significant bits and
then to nearest. (R119, R327, R353, R356, R357, R360) -/
def Obligations.FloatResults : Prop :=
  ∀ (i : Instr) (s : State) (f : FloatForm) (p : FloatSpec), floatForm i = some f → s.aluReady i = true →
    floatSpec ((aluIn s []).tile f.a).fmt = some p →
    ∃ t, exec i s = .next t ∧ t.me.pc = s.me.pc + 4 ∧ OnlyMeAlu s t
      ∧ (f.a = 0 → t.me.tiles = s.me.tiles)
      ∧ (f.a ≠ 0 →
          let x := aluIn s []
          let u := t.me.tileRaw f.a
          let v := x.tile f.a
          u.fmt = v.fmt ∧ u.rows = v.rows ∧ u.cols = v.cols ∧ u.vrows = v.vrows ∧ u.vcols = v.vcols
            ∧ ∀ e, (e + 1) * fmtBits u.fmt ≤ 512 → u.raw e = f.element x p e)
      ∧ ∀ n, n ≠ f.a → t.me.tileRaw n = s.me.tileRaw n

/-- For finite values a and b, the value that FADD, FSUB, FMUL and the fused instructions round is exactly a + b and a
× b as rational numbers, whatever the rounding mode; negation negates it. So their results are rounded once, from the
exact value. (R195, R356) -/
def Obligations.FloatSumsAndProductsAreExact : Prop :=
  ∀ (md : RMode) (a b : FVal) (x y : ℚ), a.exact = some x → b.exact = some y →
    (addVal md a b).exact = some (x + y) ∧ (mulVal a b).exact = some (x * y) ∧ (negVal a).exact = some (-x)

/-- TRN, BROW, BCOL, XTR, SLC, SHE, ROTE, PERM, LUT16, PERM8, FCLASS, GSHAPE, MPOP, MFST, MST, CVT, CVTQ and CVTD
complete on ready operands; when the destination is not T0 it takes the shape S of shapedForm and every element of its
storage is what ShapedForm.element says: 0 outside the valid region and beyond S, the old element where the mask is 0,
else the value shapedForm gives (element (j, i) of Tb for TRN, row r for BROW, the slice of SLC, the table entry of
PERM, and so on). (R328, R332, R335, R336, R337, R338, R339, R340, R347, R358, R362, R365) -/
def Obligations.ShapingResults : Prop :=
  ∀ (i : Instr) (s : State) (f : ShapedForm), shapedForm i (aluIn s []) = some f → s.aluReady i = true →
    ∃ t, exec i s = .next t ∧ t.me.pc = s.me.pc + 4 ∧ OnlyMeAlu s t
      ∧ (f.a = 0 → t.me.tiles = s.me.tiles)
      ∧ (f.a ≠ 0 →
          let u := t.me.tileRaw f.a
          let v := f.shape
          u.fmt = v.fmt ∧ u.rows = v.rows ∧ u.cols = v.cols ∧ u.vrows = v.vrows ∧ u.vcols = v.vcols
            ∧ ∀ e, (e + 1) * fmtBits u.fmt ≤ 512 → u.raw e = f.element (aluIn s []) e)
      ∧ ∀ n, n ≠ f.a → t.me.tileRaw n = s.me.tileRaw n

/-- On ready operands whose source shapes are legal (R116), RSUM, SCAN, CSUM and DOT of integer formats complete; when
the destination is not T0 it takes the shape of sumForm, and each valid element is the integer sum that sumForm gives
(all leaves in the whole form, the row in the row form, the prefix of the row for SCAN, the column for CSUM; products
for DOT) cut to the element's width, whatever order the tree of R206 adds in; other elements are 0. (R206, R207, R368,
R369, R371, R372, R373) -/
def Obligations.IntegerSums : Prop :=
  ∀ (i : Instr) (s : State) (a b : TReg) (sh : Tile) (g : Nat → Int), sumForm i (aluIn s []) = some (a, sh, g) →
    (aluForm i).map (·.reads.head?) = some (some b) → ((aluIn s []).tile b).legal = true → s.aluReady i = true →
    ∃ t, exec i s = .next t ∧ t.me.pc = s.me.pc + 4 ∧ OnlyMeAlu s t
      ∧ (a ≠ 0 →
          let u := t.me.tileRaw a
          u.fmt = sh.fmt ∧ u.rows = sh.rows ∧ u.cols = sh.cols ∧ u.vrows = sh.vrows ∧ u.vcols = sh.vcols
            ∧ ∀ e, (e + 1) * fmtBits u.fmt ≤ 512 →
                u.raw e = if e < sh.count ∧ sh.validE e = true then (BitVec.ofInt (fmtBits sh.fmt) (g e)).toNat else 0)
      ∧ ∀ n, n ≠ a → t.me.tileRaw n = s.me.tileRaw n

/-- On ready integer operands of a legal shape, RMAX, RMIN and RAMX complete, and for each row or for the whole tile
(R368): if some leaf is present, the element is the value of a present leaf and no present leaf is greater (RMIN:
less), and RAMX's index is the lowest whose leaf has that value (the column in row form, the element index in whole
form); if none is present, it is the format's minimum (RMIN: maximum), and the index is −1. (R368, R369, R370) -/
def Obligations.IntegerExtremes : Prop :=
  ∀ (i : Instr) (a b c : TReg) (k : MReg) (s : State),
    (i = .rmax a b k ∨ i = .rmin a b k ∨ i = .ramx a b c k) → s.aluReady i = true →
    ((aluIn s []).tile b).legal = true → isInt ((aluIn s []).tile b).fmt = true →
    let x := aluIn s []
    let u := x.tile b
    let whole := (x.tile a).scalar
    let leaves (j : Nat) : List Nat := (leavesOf (x.tile a) u j).filter fun e => u.validE e && x.bit k e
    let val (e : Nat) : Int := intOf u.fmt (u.raw e)
    ∃ t, exec i s = .next t ∧ t.me.pc = s.me.pc + 4 ∧ OnlyMeAlu s t
      ∧ ∀ j, j < (if whole then 1 else u.vrows) →
        let got : Int := intOf u.fmt ((t.me.tileRaw a).raw j)
        let at_ : Int := intOf .int64 ((t.me.tileRaw c).raw j)
        (a ≠ 0 → (t.me.tileRaw a).fmt = u.fmt
          ∧ (leaves j = [] → got = if i = .rmin a b k then intMax u.fmt else intMin u.fmt)
          ∧ (leaves j ≠ [] → (∃ e ∈ leaves j, val e = got)
              ∧ ∀ e ∈ leaves j, if i = .rmin a b k then got ≤ val e else val e ≤ got))
        ∧ (i = .ramx a b c k → c ≠ 0 → (leaves j = [] → at_ = -1)
            ∧ (leaves j ≠ [] → ∃ e ∈ leaves j, at_ = ((if whole then e else e % u.cols : Nat) : Int)
                ∧ (∀ d ∈ leaves j, val d ≤ val e) ∧ ∀ d ∈ leaves j, val d = val e → e ≤ d))

/-- On ready operands: MOV without a mask copies Tb's storage, shape and tag, with the residue of the bytes written;
ZERO without a mask clears all 64 B and the tag and keeps the shape; under a mask, MOV and ZERO write only unmasked
valid elements (MOV only where Tb is present); SEL takes Tb's element where the mask bit is 1 and Tc's where it is 0,
if the chosen operand is present; INS writes Tb's one element at the index of Tc if that element is valid and
unmasked, and no other. T0 as destination changes no tile. (R327, R334, R337, R341) -/
def Obligations.MoveResults : Prop :=
  ∀ (a b c : TReg) (k : MReg) (s : State),
    let x := aluIn s []
    let ta := x.tile a
    let one (t : Tile) (e : Nat) : Nat := t.raw (if t.scalar then 0 else e)
    let gives (i : Instr) (g : Nat → Nat) : Prop := ∃ t, exec i s = .next t ∧ t.me.pc = s.me.pc + 4 ∧ OnlyMeAlu s t
      ∧ (a = 0 → t.me.tiles = s.me.tiles)
      ∧ (a ≠ 0 →
          let u := t.me.tileRaw a
          u.fmt = ta.fmt ∧ u.rows = ta.rows ∧ u.cols = ta.cols ∧ u.vrows = ta.vrows ∧ u.vcols = ta.vcols
            ∧ ∀ e, (e + 1) * fmtBits u.fmt ≤ 512 →
                u.raw e = if e < ta.count ∧ ta.validE e = true then g e else 0)
    (s.aluReady (.mov a b 0) = true →
      ∃ t, exec (.mov a b 0) s = .next t ∧ t.me.pc = s.me.pc + 4 ∧ OnlyMeAlu s t ∧ (a = 0 → t.me.tiles = s.me.tiles)
        ∧ (a ≠ 0 → t.me.tileRaw a = (s.me.tileRaw b).withBytes (s.me.tileRaw b).bytes))
    ∧ (k ≠ 0 → s.aluReady (.mov a b k) = true →
        gives (.mov a b k) fun e => if x.bit k e && (x.tile b).presentAt e then one (x.tile b) e else ta.raw e)
    ∧ (s.aluReady (.zero a 0) = true → gives (.zero a 0) (fun _ => 0)
        ∧ ∀ t, exec (.zero a 0) s = .next t → a ≠ 0 → (t.me.tileRaw a).bytes = 0 ∧ (t.me.tileRaw a).tag = false)
    ∧ (k ≠ 0 → s.aluReady (.zero a k) = true → gives (.zero a k) fun e => if x.bit k e then 0 else ta.raw e)
    ∧ (s.aluReady (.sel a b c k) = true →
        gives (.sel a b c k) fun e =>
          if x.bit k e then (if (x.tile b).presentAt e then one (x.tile b) e else ta.raw e)
          else (if (x.tile c).presentAt e then one (x.tile c) e else ta.raw e))
    ∧ (s.aluReady (.ins a b c k) = true →
        gives (.ins a b c k) fun e => if (x.tile c).ctlInt = (e : Int) ∧ x.bit k e = true then (x.tile b).raw 0 else ta.raw e)

/-- On ready operands with a destination other than T0, SHAPEI, RAGGEDI, SHAPE and RAGGED complete; the destination
has the new rows, columns, format and valid region (SHAPEI: the whole shape valid), its tag is kept, or also set by a
tagged control tile, every valid element has the bits the storage held there, every other element of the shape is 0,
and every byte beyond the shape keeps its value. With T0 as destination no tile changes. (R117, R118, R119, R331) -/
def Obligations.ShapeGroupResults : Prop :=
  ∀ (a b : TReg) (f : BitVec 5) (r : BitVec 3) (c : BitVec 6) (s : State),
    let x := aluIn s []
    let ta := x.tile a
    let tb := x.tile b
    let d : BitVec 64 := BitVec.ofNat 64 tb.ctlNat
    let gives (i : Instr) (n : Option Fmt) (rows cols vrows vcols : Nat) (tag : Bool) : Prop :=
      s.aluReady i = true → ∃ t, exec i s = .next t ∧ t.me.pc = s.me.pc + 4 ∧ OnlyMeAlu s t
        ∧ (a = 0 → t.me.tiles = s.me.tiles)
        ∧ (a ≠ 0 →
            let u := t.me.tileRaw a
            some u.fmt = n ∧ u.rows = rows ∧ u.cols = cols ∧ u.vrows = vrows ∧ u.vcols = vcols ∧ u.tag = tag ∧ u.residueOk = true
              ∧ (∀ e, e < u.count → u.raw e = if u.validE e then
                  (ta.bytes.toNat / 2 ^ (e * fmtBits u.fmt)) % 2 ^ fmtBits u.fmt else 0)
              ∧ u.bytes.toNat / 2 ^ (u.count * fmtBits u.fmt) = ta.bytes.toNat / 2 ^ (u.count * fmtBits u.fmt))
    gives (.shapei a f r c) (fmtOf f.toNat) (r.toNat + 1) (c.toNat + 1) (r.toNat + 1) (c.toNat + 1) ta.tag
    ∧ gives (.raggedi a r c) (some ta.fmt) ta.rows ta.cols (r.toNat + 1) (c.toNat + 1) ta.tag
    ∧ gives (.shape a b) (fmtOf (d.extractLsb' 18 5).toNat) ((d.extractLsb' 15 3).toNat + 1) ((d.extractLsb' 9 6).toNat + 1)
        ((d.extractLsb' 6 3).toNat + 1) ((d.extractLsb' 0 6).toNat + 1) (ta.tag || tb.tag)
    ∧ gives (.ragged a b) (some ta.fmt) ta.rows ta.cols ((d.extractLsb' 6 3).toNat + 1) ((d.extractLsb' 0 6).toNat + 1) (ta.tag || tb.tag)

/-- On ready operands, CMP and FCMP complete, write mask register Ma and no tile, and bit e of Ma is: false outside
the reference's shape or valid region, the old bit where masked or an operand is absent, else the comparison: for CMP
EQ, NE, LT, LE (signed), LTU, LEU on the operands at the reference width; for FCMP EQ, LT, LE and UN on the values,
every comparison but UN false beside a NaN. (R192, R302, R346, R359) -/
def Obligations.CompareResults : Prop :=
  ∀ (a : MReg) (b c : TReg) (k : MReg) (f : BitVec 3) (g : BitVec 2) (s : State),
    let x := aluIn s []
    let tb := x.tile b
    let tc := x.tile c
    let ref := cmpRef tb tc
    let n := fmtBits ref.fmt
    let old (e : Nat) : Bool := (s.me.mask a).getLsbD e
    let gives (i : Instr) (p : Nat → Bool) : Prop := ∃ t, exec i s = .next t ∧ t.me.pc = s.me.pc + 4 ∧ OnlyMeAlu s t
      ∧ t.me.tiles = s.me.tiles
      ∧ (∀ m, m ≠ a → t.me.mask m = s.me.mask m)
      ∧ ∀ e, e < 64 → (t.me.mask a).getLsbD e =
          (if e < ref.count ∧ ref.validE e = true then
            (if x.bit k e && tb.presentAt e && tc.presentAt e then p e else old e) else false)
    (a ≠ 0 → f.toNat ≤ 5 → s.aluReady (.cmp a b c k f) = true →
      gives (.cmp a b c k f) fun e =>
        let u := tb.intAt n e
        let v := tc.intAt n e
        match f.toNat with
        | 0 => u == v
        | 1 => u != v
        | 2 => u.slt v
        | 3 => u.sle v
        | 4 => u.ult v
        | _ => u.ule v)
    ∧ (∀ p, a ≠ 0 → floatSpec ref.fmt = some p → s.aluReady (.fcmp a b c k g) = true →
      gives (.fcmp a b c k g) fun e =>
        let u := valFloat p (tb.raw (if tb.scalar then 0 else e))
        let v := valFloat p (tc.raw (if tc.scalar then 0 else e))
        match g.toNat with
        | 0 => u != .nan && v != .nan && !ltVal u v && !ltVal v u
        | 1 => ltVal u v
        | 2 => u != .nan && v != .nan && !ltVal v u
        | _ => u == .nan || v == .nan)

/-- With Ma not M0: MAND, MOR, MXOR and MNOT write the bitwise result of whole registers, M0 reading as all ones; MLD
takes the valid elements of a MASK1 tile of at most 64 elements, or a 1×1 integer's 64-bit value; MSET gives 0 for q
at most 0, all ones for q at least 64, else 2^q − 1; SEED sets the LFSR to the low 32 bits of its control value, or to
1 if they are zero. Each completes on ready operands and changes no tile, no other mask register and nothing outside
its slot. (R120, R123, R347, R417) -/
def Obligations.MaskResults : Prop :=
  ∀ (a b c : MReg) (r : TReg) (s : State),
    let m (n : MReg) : BitVec 64 := if n = 0 then BitVec.allOnes 64 else s.me.mask n
    let u := (aluIn s []).tile r
    let gives (i : Instr) (v : BitVec 64) : Prop := a ≠ 0 → s.aluReady i = true →
      ∃ t, exec i s = .next t ∧ t.me.pc = s.me.pc + 4 ∧ OnlyMe s t ∧ t.me.tiles = s.me.tiles ∧ t.me.lfsr = s.me.lfsr
        ∧ t.me.mask a = v ∧ ∀ n, n ≠ a → t.me.mask n = s.me.mask n
    gives (.mand a b c) (m b &&& m c) ∧ gives (.mor a b c) (m b ||| m c) ∧ gives (.mxor a b c) (m b ^^^ m c)
    ∧ gives (.mnot a b) (~~~(m b))
    ∧ (u.fmt = .mask1 → u.count ≤ 64 →
        gives (.mld a r) (BitVec.ofNat 64 (((List.range 64).filter fun e => decide (e < u.count) && u.validE e && u.raw e == 1).foldl (fun n e => n + 2 ^ e) 0)))
    ∧ (u.scalar = true → isInt u.fmt = true → gives (.mld a r) (BitVec.ofInt 64 u.ctlInt))
    ∧ gives (.mset a r) (if u.ctlInt ≤ 0 then 0 else if 64 ≤ u.ctlInt then BitVec.allOnes 64 else BitVec.ofInt 64 (2 ^ u.ctlInt.toNat - 1))
    ∧ (s.aluReady (.seed r) = true → ∃ t, exec (.seed r) s = .next t ∧ t.me.pc = s.me.pc + 4 ∧ OnlyMe s t
        ∧ t.me.tiles = s.me.tiles ∧ t.me.masks = s.me.masks
        ∧ t.me.lfsr = if BitVec.ofInt 32 u.ctlInt = 0 then 1 else BitVec.ofInt 32 u.ctlInt)

/-- If the residue of each tile of the slot matches its storage, it does so after any tile-ALU, shape or mask
instruction that completes: a result's residue is formed afresh from its storage. If every tile of the slot has a
shape that R116 allows, every tile has one after any tile-ALU, shape or mask instruction that completes. (R116, R263,
R265, R266, R328, R331, R374) -/
def Obligations.WrittenTilesStayLegalAndMatchTheirResidues : Prop :=
  (∀ (i : Instr) (s : State), s.aluReady i = true → (∀ n, (s.me.tileRaw n).residueOk = true) →
     ∃ t, exec i s = .next t ∧ ∀ n, (t.me.tileRaw n).residueOk = true)
  ∧ (∀ (i : Instr) (s : State), s.aluReady i = true → (∀ n, (s.me.tileRaw n).legal = true) →
     ∃ t, exec i s = .next t ∧ ∀ n, (t.me.tileRaw n).legal = true)

/-- If the slot issues alone an ADD whose operands are allowed as read (a mismatched tile counts as tagged), the tile
ALU free, with Tb not T0, Tb ≠ Ta, Tb's residue not matching its storage and Tc's matching, then after it Tb carries
the tag, the cluster's residue count is one higher (saturating at 0xFFFF), and Ta (not T0) carries the tag. (R266,
R269) -/
def Obligations.ResidueMismatchTags : Prop :=
  ∀ (a b c : TReg) (k : MReg) (s : State) (o : AluOut), s.alone = true → s.clear [b, c, a] = true →
    aluInt2 opAdd a b c k (aluIn s []) = .ok o → aluFree s o = true → a ≠ 0 → b ≠ 0 → b ≠ a → b ≠ c →
    (s.me.tileRaw b).residueOk = false → (s.me.tileRaw c).residueOk = true →
    ∃ t, exec (.add a b c k) s = .next t ∧ (t.me.tileRaw b).tag = true ∧ (t.me.tileRaw a).tag = true
      ∧ (t.cluster (clusterOf s.cur.1)).residue = Nat.min 0xFFFF ((s.cluster (clusterOf s.cur.1)).residue + 1)
      ∧ t.mem = s.mem ∧ ∀ n, n ≠ a → n ≠ b → t.me.tileRaw n = s.me.tileRaw n

/-- CVTS completes on ready operands, its destination (not T0) takes Tb's rows, columns and valid region in its own
format, and the LFSR is stepped as often as there are valid elements with mask bit 1, a zero state replaced by 1.
(R123, R197, R364) -/
def Obligations.StochasticRoundingDraws : Prop :=
  ∀ (a b : TReg) (k : MReg) (s : State), s.aluReady (.cvts a b k) = true →
    let x := aluIn s []
    let u := x.tile b
    ∃ t, exec (.cvts a b k) s = .next t ∧ t.me.pc = s.me.pc + 4 ∧ OnlyMeAlu s t
      ∧ t.me.lfsr = lfsrFix (lfsrStep^[(u.cells.filter (x.bit k)).length] s.me.lfsr)
      ∧ (a ≠ 0 → (t.me.tileRaw a).fmt = (x.tile a).fmt ∧ (t.me.tileRaw a).rows = u.rows ∧ (t.me.tileRaw a).cols = u.cols
          ∧ (t.me.tileRaw a).vrows = u.vrows ∧ (t.me.tileRaw a).vcols = u.vcols)

/-- On a slot that issues alone: MOV Ta, Tb without a mask, where a read stream with a queued tile binds Tb, its
engine context is not parked, and nothing binds Ta, takes the first tile of the queue into Tb and into Ta, and the
stream's queue loses it and its count of tiles grows by one. Where nothing binds Tb and an open write stream with
fewer than 8 queued tiles, tiles still to come, no tile to be written again and an engine context that is not parked
binds Ta, MOV appends the written tile to that stream's queue and its count grows by one. With the read stream's queue
empty and more to come, or a queued tile in a parked engine context, the slot waits instead, unretired. (R159, R330)
-/
def Obligations.BoundTilesPopAndPush : Prop :=
  ∀ (a b : TReg) (s : State) (p : Ectx × Stream), s.alone = true → a ≠ 0 → b ≠ 0 → a ≠ b →
    owedTile s.me a = false → owedTile s.me b = false → s.me.popped = [] → (s.me.tileRaw b).residueOk = true →
    (s.core s.cur.1).aluUntil ≤ s.clk.cycle → 8 ≤ creditsOf s (clusterOf s.cur.1) →
    (boundTo s s.cur.1 s.cur.2 b = some p → boundTo s s.cur.1 s.cur.2 a = none → p.2.isWrite = false → p.2.st ≠ .closing →
      (∀ u l, p.2.queue = u :: l → p.1.usable = true → u.residueOk = true → u.validBytes ≤ 64 →
        ∃ t, exec (.mov a b 0) s = .next t ∧ t.me.pc = s.me.pc + 4 ∧ t.me.tileRaw a = u.withBytes u.bytes ∧ t.me.tileRaw b = u.withBytes u.bytes ∧ t.mem = s.mem
          ∧ t.cluster (clusterOf s.cur.1) = { s.cluster (clusterOf s.cur.1) with
              ectxs := (s.cluster (clusterOf s.cur.1)).ectxs.map fun e => { e with
                streams := e.streams.map fun r => if r.uid = p.2.uid then { r with queue := r.queue.drop 1, moved := r.moved + 1 } else r } })
      ∧ ((p.2.queue = [] ∧ p.2.moved < p.2.tiles ∧ p.2.st = .open_) ∨ (p.2.queue ≠ [] ∧ p.1.usable = false) →
        ∃ t, exec (.mov a b 0) s = .next t ∧ t.me.st = .stalled .stream ∧ t.me.pc = s.me.pc ∧ t.me.tiles = s.me.tiles ∧ t.mem = s.mem))
    ∧ (boundTo s s.cur.1 s.cur.2 a = some p → boundTo s s.cur.1 s.cur.2 b = none → p.2.isWrite = true → p.2.st = .open_ →
        p.2.moved < p.2.tiles → p.2.queue.length < 8 → p.2.redo = none → p.1.usable = true → (s.me.tileRaw b).validBytes ≤ 64 →
        ∃ t, exec (.mov a b 0) s = .next t ∧ t.me.pc = s.me.pc + 4 ∧ t.me.tileRaw a = (s.me.tileRaw b).withBytes (s.me.tileRaw b).bytes ∧ t.mem = s.mem
          ∧ t.cluster (clusterOf s.cur.1) = { s.cluster (clusterOf s.cur.1) with
              ectxs := (s.cluster (clusterOf s.cur.1)).ectxs.map fun e => { e with
                streams := e.streams.map fun r => if r.uid = p.2.uid then { r with queue := r.queue ++ [(s.me.tileRaw b).withBytes (s.me.tileRaw b).bytes], moved := r.moved + 1 } else r } })

/-- On a slot that issues alone: NOP and CKPT retire at the next word; BR retires at its target, 4 × the signed offset
from its own address; BR ANY, ALL, NONE and FIRST retire at the target if their condition holds on all 64 bits of Mk
and at the next word if not; CALL with fewer than 8 entries pushes the address of the next word and retires at its
target; RET pops the top entry and retires there. With Tc not T0 and a 1×1 integer tile, untagged, on a ready slot,
LOOP writes the counter less 1 modulo 2^n (0 becomes 2^n − 1) and retires at its target, or at the next word if the
new counter is 0; other tiles, masks and everything outside the slot stay. A tagged counter traps POISON, one of
another shape or format traps SHAPE, tiles unchanged. (R122, R233, R295, R348, R349, R350, R407, R416) -/
def Obligations.ControlFlow : Prop :=
  (∀ s : State, s.alone = true →
     exec .nop s = .next s.goesOn
     ∧ exec .ckpt s = .next s.goesOn
     ∧ (∀ o, exec (.br o) s = .next (s.goesTo (s.target o)))
     ∧ (∀ k o, let m := s.me.mask k
         exec (.brCond 1 k o) s = .next (s.goesTo (if m ≠ 0 then s.target o else s.me.pc + 4))
         ∧ exec (.brCond 2 k o) s = .next (s.goesTo (if m = BitVec.allOnes 64 then s.target o else s.me.pc + 4))
         ∧ exec (.brCond 3 k o) s = .next (s.goesTo (if m = 0 then s.target o else s.me.pc + 4))
         ∧ exec (.brCond 4 k o) s = .next (s.goesTo (if m.getLsbD 0 = true then s.target o else s.me.pc + 4)))
     ∧ (∀ o, s.me.rstack.length < 8 →
         exec (.call o) s = .next ((s.updMe fun x => { x with rstack := (s.me.pc + 4).extractLsb' 2 46 :: x.rstack }).goesTo (s.target o)))
     ∧ (∀ a l, s.me.rstack = a :: l →
         exec .ret s = .next ((s.updMe fun x => { x with rstack := l }).goesTo (a ++ (0 : BitVec 2)))))
  ∧ (∀ (c : TReg) (o : BitVec 20) (s : State), c ≠ 0 → s.ready [c] [c] = true →
     let u := s.me.tile c
     (u.tag = false → u.scalar = true → isInt u.fmt = true → u.legal = true →
       let v := BitVec.ofNat (fmtBits u.fmt) (u.raw 0) - 1
       ∃ t, exec (.loop c o) s = .next t ∧ OnlyMe s t
         ∧ t.me.pc = (if v = 0 then s.me.pc + 4 else s.target o)
         ∧ (t.me.tileRaw c).raw 0 = v.toNat ∧ (t.me.tileRaw c).fmt = u.fmt ∧ (t.me.tileRaw c).tag = false
         ∧ (∀ n, n ≠ c → t.me.tileRaw n = s.me.tileRaw n) ∧ t.me.masks = s.me.masks ∧ t.me.rstack = s.me.rstack ∧ t.me.lfsr = s.me.lfsr)
     ∧ (s.handles = true → u.tag = true →
         ∃ t tile, exec (.loop c o) s = .next t ∧ Traps s t .poison (s.me.pc.setWidth 64) s.me.pc tile)
     ∧ (s.handles = true → u.tag = false → (u.scalar && isInt u.fmt) = false →
         ∃ t tile, exec (.loop c o) s = .next t ∧ Traps s t .shape (s.me.pc.setWidth 64) s.me.pc tile))

/-- On a slot that issues alone: with no load outstanding, DONE leaves the slot FREE with PROGRESS cleared, no fences
and no bindings; with a load outstanding that is not owed to a write stream, the slot waits for it, PROGRESS cleared.
In both cases, of the streams that the handler bound none is left but write streams that are closing, memory and the
memory events stay, and no other slot of any core changes. (R97, R124, R159, R351) -/
def Obligations.DoneEndsTheHandler : Prop :=
  ∀ s : State, s.alone = true → (s.me.pend.any (·.push)) = false →
    ∃ t, exec .done s = .next t ∧ t.mem = s.mem ∧ t.memq = s.memq ∧ t.cur = s.cur
      ∧ t.me.progress = { live := false, row := 0, tile := 0 } ∧ t.me.tiles = s.me.tiles
      ∧ (endPends s.me.pend s.me.icount = [] → t.me.st = .free ∧ t.me.fences = [] ∧ t.me.binds = [] ∧ t.me.pend = [])
      ∧ (endPends s.me.pend s.me.icount ≠ [] → t.me.st = .stalled .done)
      ∧ (∀ c i, (c, i) ≠ s.cur → t.slot c i = s.slot c i)
      ∧ ∀ p ∈ streamsOn t s.cur.1, p.2.slot = s.cur.2 → p.2.handler = s.me.uid → p.2.isWrite = true ∧ p.2.st = .closing

/-- On a slot that issues alone in a context that handles its traps: TRAP imm takes a TRAP with TRAPADDR the
immediate, to go on at the next word; a word that R297 calls illegal takes ILLEGAL with TRAPADDR and resume address
its own. BRK and FROST in a firmware context take ILLEGAL. The slot is TRAPPED with cause, TRAPADDR, resume address,
budget set aside and a fresh allowance, and a fault event for the fault selector leaves the core. (R233, R235, R236,
R241, R297, R407) -/
def Obligations.TrapWordAndIllegalWord : Prop :=
  ∀ s : State, s.alone = true → s.handles = true →
    (∀ n, ∃ t, exec (.trap n) s = .next t ∧ Traps s t .trap (n.setWidth 64) (s.me.pc + 4) 0)
    ∧ (∀ w, ∃ t tile, exec (.illegalEncoding w) s = .next t ∧ Traps s t .illegal (s.me.pc.setWidth 64) s.me.pc tile)
    ∧ (s.firmware = true → (∃ t, exec .brk s = .next t ∧ Traps s t .illegal (s.me.pc.setWidth 64) s.me.pc 0)
        ∧ ∀ n, ∃ t, exec (.frost n) s = .next t ∧ Traps s t .illegal (s.me.pc.setWidth 64) s.me.pc 0)

/-- On a slot that issues alone outside firmware, not single-stepped, whose job exists and is not freezing: FROST imm
retires and raises a Frost of kind 3 and code imm; BRK leaves cause BRK, resume address the next word, and raises a
Frost of kind 1; TRAP in a fault handler raises a Frost of kind 2 with the trap's code. The slot is FROZEN, the job's
Frost count is one higher, and its cause, origin, time and sequence words name this slot and instant; memory and the
other slots stay. A stepped BRK or FROST only advances. (R237, R247, R248, R249, R252, R407) -/
def Obligations.FrostAndBreakRaiseAFrost : Prop :=
  ∀ (n : BitVec 8) (m : BitVec 12) (s : State), s.alone = true → s.firmware = false → (s.job s.myCtx.job).isSome = true →
    (frostState s s.myCtx.job).1 = false →
    (s.me.stepping = none →
      (∃ t, exec (.frost n) s = .next t ∧ t.me.st = .frozen none false ∧ t.me.pc = s.me.pc + 4 ∧ t.mem = s.mem
        ∧ FrostSet s t s.myCtx.job 3 n s.cur.1 s.cur.2 ∧ t.cores = (s.goesOn.updMe fun x => { x with st := .frozen none false }).cores)
      ∧ ∃ t, exec .brk s = .next t ∧ t.me.st = .frozen none true ∧ t.me.cause = 0x0B ∧ t.me.resumeAt = (s.me.pc + 4).extractLsb' 2 46
        ∧ t.me.taddr = s.me.pc.setWidth 64 ∧ t.mem = s.mem ∧ FrostSet s t s.myCtx.job 1 0x0B s.cur.1 s.cur.2
        ∧ t.me.tiles = s.me.tiles ∧ ∀ c i, (c, i) ≠ s.cur → t.slot c i = s.slot c i)
    ∧ (s.me.stepping.isSome = true → exec (.frost n) s = .next s.goesOn ∧ exec .brk s = .next s.goesOn)
    ∧ (s.me.fhandler = true → ∃ t, exec (.trap m) s = .next t ∧ t.me.st = .frozen none true ∧ t.me.cause = 0x0C
        ∧ FrostSet s t s.myCtx.job 2 0x0C s.cur.1 s.cur.2 ∧ t.mem = s.mem ∧ ∀ c i, (c, i) ≠ s.cur → t.slot c i = s.slot c i)

/-- On a ready slot, Ta unbound: CSRR gives the register's value as a 1×1 INT64 tile; TNOW gives Thyme, CGET the
counter, SSTAT the stream's state word and OPAQ the accumulator's, as 1×1 UINT64 tiles; SLOTRD, in firmware or on a
slot the job may reach and an item the job may name, gives another slot's tile, shape word, mask or register (its tile
not owed by a load); PAIRSIG in firmware with no pair gives 0. Each retires at the next word and writes no other tile,
no other slot and no memory; T0 takes nothing. (R151, R236, R239, R388, R395, R404, R409, R412, R416) -/
def Obligations.ReadsOfRegistersAndEngines : Prop :=
  ∀ (a b : TReg) (n : BitVec 12) (c : BitVec 4) (m : BitVec 3) (i k : BitVec 2) (q : BitVec 8) (s : State), s.ready [] [a] = true →
    (∃ t, exec (.csrr a n) s = .next t ∧ Writes s t a (Tile.ofWord (csrRead s s.cur.1 s.cur.2 n) false))
    ∧ (∃ t, exec (.tnow a) s = .next t ∧ Writes s t a (uwordTile s.clk.thyme false))
    ∧ (∃ t, exec (.cget a c) s = .next t ∧ Writes s t a (uwordTile ((s.myCtx.cvalAt c).setWidth 64) false))
    ∧ (s.me.binds.contains a = false → (a = 0 → boundTo s s.cur.1 s.cur.2 a = none) →
        (∃ t, exec (.sstat a b) s = .next t ∧ Writes s t a (uwordTile (sstatWord s b) false))
        ∧ ∃ t, exec (.opaq a m) s = .next t ∧ Writes s t a (uwordTile (opaqWord s m) false))
    ∧ (((s.firmware && !(k == 3 && !csrAssigned (q.setWidth 12))) || (!s.firmware && jobItem false k q && jobMayReach s i)) = true →
        (k = 0 → (s.slot s.cur.1 i).tileBusy (q.setWidth 4) = false) →
        ∃ t, exec (.slotrd a i k q) s = .next t ∧ Writes s t a (slotItem s i k q))
    ∧ (s.firmware = true → s.pairs = [] → s.sound [a] = true → (s.me.tile a).tag = false → (s.me.tile a).control.isSome = true →
        ∃ t, exec (.pairsig a) s = .next t ∧ Writes s t a (uwordTile 0 false))

/-- On a ready slot with an untagged control operand v: CSRW 0x020 replaces PROGRESS, its zero fields kept; 0x040 sets
the context's default budget for 1 to 2^24, 0x041 its age shift for 4 to 20; in firmware any value sets them (in the
32 and 8 bits that a context image gives them, log 22), 0x042 sets the spill quota, 0x043 the retain quota, and 0x030
TRAPCAUSE. Each then retires, and nothing else changes. In a job's context a write of 0x030, 0x042, 0x043 or any read-
only number traps ILLEGAL, as does a value out of range of 0x040 or 0x041. (R124, R151, R153, R236, R409) -/
def Obligations.CsrWrites : Prop :=
  ∀ (b : TReg) (v : Word64) (s : State), s.ready [b] [] = true → s.ctl b v →
    exec (.csrw b 0x020) s = .next (s.updMe fun x => { x with
        progress := { live := v.getLsbD 15, row := v.extractLsb' 12 3, tile := v.extractLsb' 0 4 } }).goesOn
    ∧ (1 ≤ v.toNat → v.toNat ≤ 2 ^ 24 → exec (.csrw b 0x040) s = .next (s.updMyCtx fun k => { k with budget := v.toNat }).goesOn)
    ∧ (4 ≤ v.toNat → v.toNat ≤ 20 → exec (.csrw b 0x041) s = .next (s.updMyCtx fun k => { k with ageShift := v.toNat }).goesOn)
    ∧ (s.firmware = true →
        exec (.csrw b 0x040) s = .next (s.updMyCtx fun k => { k with budget := v.toNat % 2 ^ 32 }).goesOn
        ∧ exec (.csrw b 0x041) s = .next (s.updMyCtx fun k => { k with ageShift := v.toNat % 2 ^ 8 }).goesOn
        ∧ exec (.csrw b 0x042) s = .next (s.updMyCtx fun k => { k with spillQ := v.setWidth 32 }).goesOn
        ∧ exec (.csrw b 0x043) s = .next (s.updMyCtx fun k => { k with retainQ := v.setWidth 8 }).goesOn
        ∧ exec (.csrw b 0x030) s = .next (s.updMe fun x => { x with
            resumeAt := v.extractLsb' 18 46, fhandler := v.getLsbD 9, causeFrost := v.getLsbD 8, cause := v.extractLsb' 0 8 }).goesOn)
    ∧ (s.handles = true → ∀ n : BitVec 12, n ∉ [0x020, 0x040, 0x041] → (s.firmware = true → n ∉ [0x030, 0x042, 0x043]) →
        ∃ t, exec (.csrw b n) s = .next t ∧ Traps s t .illegal (s.me.pc.setWidth 64) s.me.pc 0)
    ∧ (s.handles = true → s.firmware = false →
        ((v = 0 ∨ 2 ^ 24 < v.toNat) → ∃ t, exec (.csrw b 0x040) s = .next t ∧ Traps s t .illegal (s.me.pc.setWidth 64) s.me.pc 0)
        ∧ ((v.toNat < 4 ∨ 20 < v.toNat) → ∃ t, exec (.csrw b 0x041) s = .next t ∧ Traps s t .illegal (s.me.pc.setWidth 64) s.me.pc 0))

/-- On a ready slot with an untagged control operand v: CSET sets the counter to v's low 32 bits; CARM sets the target
and arms the counter; FCLR clears the flag; TWEN writes a well-formed trigger word and restarts its waiting time; TMR
sets and arms the deadline, or disarms it for all ones. Each then retires. A malformed trigger word traps ILLEGAL or
PRIV (R84), in a context that handles its traps. A tagged operand changes no counter and still retires. (R83, R84,
R86, R87, R93, R395) -/
def Obligations.CountersFlagsAndTimers : Prop :=
  ∀ (b : TReg) (c : BitVec 4) (w : BitVec 1) (q : BitVec 2) (v : Word64) (s : State),
    (s.alone = true → exec (.fclr c) s = .next (s.updMyCtx fun k => { k with flags := k.flags &&& ~~~(1#16 <<< c.toNat) }).goesOn)
    ∧ (s.ready [b] [] = true → s.ctl b v →
      exec (.cset b c) s = .next (s.updMyCtx fun k => { k with cval := k.cval.set c.toNat (v.setWidth 32) c.isLt }).goesOn
      ∧ exec (.carm b c) s = .next (s.updMyCtx fun k => { k with
          ctgt := k.ctgt.set c.toNat (v.setWidth 32) c.isLt, carmed := k.carmed ||| (1#16 <<< c.toNat) }).goesOn
      ∧ (trigBad (v.setWidth 32) = none →
          exec (.twen b c w) s = .next (s.updMyCtx fun k => { k with
            trig := k.trig.set (w ++ c).toNat (v.setWidth 32) (w ++ c).isLt, held := k.held.set (w ++ c).toNat 0 (w ++ c).isLt }).goesOn)
      ∧ (v ≠ BitVec.allOnes 64 →
          exec (.tmr b q) s = .next (s.updMyCtx fun k => { k with
            qdead := k.qdead.set q.toNat v q.isLt, qarmed := k.qarmed ||| (1#4 <<< q.toNat) }).goesOn)
      ∧ (v = BitVec.allOnes 64 →
          exec (.tmr b q) s = .next (s.updMyCtx fun k => { k with qarmed := k.qarmed &&& ~~~(1#4 <<< q.toNat) }).goesOn)
      ∧ (∀ e, s.handles = true → trigBad (v.setWidth 32) = some e →
          ∃ t, exec (.twen b c w) s = .next t ∧ Traps s t e (s.me.pc.setWidth 64) s.me.pc 0))
    ∧ (s.ready [b] [] = true → (s.me.tile b).control.isSome = true → (s.me.tile b).tag = true →
        ∃ t, exec (.cset b c) s = .next t ∧ t.me.pc = s.me.pc + 4 ∧ t.myCtx = s.myCtx ∧ t.mem = s.mem)

/-- In a context of a job other than the management job, on a slot that handles its traps, CTXLD, CTXSV, CTXEV,
RESUME, HARV, TLBI, PAIRSIG, STEP and HDR take PRIV with TRAPADDR and resume address their own; nothing but the trap's
own state changes. (R74, R153, R394, R411, R414, R415, R416, R418) -/
def Obligations.PrivilegedWordsTrap : Prop :=
  ∀ (i : Instr) (a b : TReg) (c k : BitVec 2) (r p : BitVec 1) (s : State), s.alone = true → s.handles = true → s.firmware = false →
    i ∈ [.ctxld b c, .ctxsv b c, .ctxev c, .resume a b, .harv a, .tlbi a b p k, .pairsig a, .step b r c, .hdr b] →
    ∃ t tile, exec i s = .next t ∧ Traps s t .priv (s.me.pc.setWidth 64) s.me.pc tile

/-- On a slot that issues alone (its context not frozen), for another slot t of its core that is TRAPPED with a
handler of the same context and no pair: RFT with action 0 makes t READY at its resume address with the budget set
aside, with action 1 with the launch budget; with action 2, t having no load outstanding and no stream of its own, t
becomes FREE. A t that is not TRAPPED, or is the slot itself, traps PERM in a context that handles its traps. SLOTWR
of tile n (not bound), of a mask or of PROGRESS writes that item of t, whose partly done instruction then goes by the
new state (R126), and nothing else. (R239, R240, R246, R408, R412) -/
def Obligations.ResumeAndRewriteOfATrappedSlot : Prop :=
  ∀ (t : BitVec 2) (s : State), s.alone = true → s.pairs = [] → s.myCtx.frozen = false →
    let y := s.slot s.cur.1 t
    (t ≠ s.cur.2 → y.st = .trapped → y.ctx = s.me.ctx → y.trailing = false → y.cause ≠ causeCode .stream →
      exec (.rft 0 t) s = .next (s.updSlot s.cur.1 t fun x => { x with st := .ready, pc := x.resumeAt ++ (0 : BitVec 2), budget := x.setAside }).goesOn
      ∧ exec (.rft 1 t) s = .next (s.updSlot s.cur.1 t fun x => { x with st := .ready, pc := x.resumeAt ++ (0 : BitVec 2), budget := x.launchBudget }).goesOn
      ∧ (y.pend = [] → (∀ p ∈ streamsOn s s.cur.1, p.2.slot = t → p.2.handler ≠ y.uid) →
          ∃ u, exec (.rft 2 t) s = .next u ∧ (u.slot s.cur.1 t).st = .free ∧ u.me.pc = s.me.pc + 4 ∧ u.mem = s.mem
            ∧ u.clusters = s.clusters ∧ ∀ c i, (c, i) ≠ s.cur → (c, i) ≠ (s.cur.1, t) → u.slot c i = s.slot c i)
      ∧ ∀ (b : TReg) (n : BitVec 8), s.ready [b] [] = true → (s.me.tile b).tag = false → 1 ≤ n.toNat →
          (n.toNat ≤ 15 → boundTo s s.cur.1 t (n.setWidth 4) = none →
            exec (.slotwr b t 0 n) s = .next (s.updSlot s.cur.1 t fun x => ({ x with going := none } : Slot).setTile (n.setWidth 4)
              ((s.me.tile b).withBytes (s.me.tile b).bytes)).goesOn)
          ∧ (∀ v, n.toNat ≤ 3 → s.ctl b v →
            exec (.slotwr b t 2 n) s = .next (s.updSlot s.cur.1 t fun x => ({ x with going := none } : Slot).setMask (n.setWidth 2) v).goesOn)
          ∧ ∀ v, s.ctl b v →
            exec (.slotwr b t 3 0x20) s = .next (s.updSlot s.cur.1 t fun x => { x with going := none, progress := progressOf v }).goesOn)
    ∧ (s.handles = true → s.firmware = false → (t = s.cur.2 ∨ y.st ≠ .trapped) → ∀ k : BitVec 2, k ≠ 3 →
        ∃ u, exec (.rft k t) s = .next u ∧ Traps s u .perm (s.me.pc.setWidth 64) s.me.pc 0)

/-- With no access of the handler outstanding on a slot that issues alone: CINV T0 removes every line of its ASID from
every cluster's code cache, CINV Tb with an untagged GLOBAL pointer the lines it names, and both retire; a line of
another ASID stays. TLBI in firmware leaves its slot waiting, for an ASID of at most 1023 and an untagged GLOBAL
pointer (kind 0), for an ASID alone (kind 1) or for everything (kind 2), its TLBs unchanged until the completion.
(R148, R410, R411) -/
def Obligations.CacheInvalidations : Prop :=
  ∀ (a b : TReg) (l : BitVec 12) (p : BitVec 1) (s : State),
    (s.alone = true → ownEvents s (ownerOf s) = [] →
      exec (.cinv 0 l) s = .next ({ s with clusters := s.clusters.map fun q => (q.1, { q.2 with
        code := q.2.code.filter fun x => x.asid != s.myCtx.asid }) } : State).goesOn)
    ∧ (∀ v, b ≠ 0 → s.ready [b] [] = true → ownEvents s (ownerOf s) = [] → s.ctl b v → v.extractLsb' 48 16 = 0x2000#16 →
      exec (.cinv b l) s = .next ({ s with clusters := s.clusters.map fun q => (q.1, { q.2 with
        code := q.2.code.filter fun x => !(x.asid == s.myCtx.asid && (List.range (l.toNat + 1)).any fun j =>
          x.va == (v.extractLsb' 6 42 ++ (0 : BitVec 6)) + BitVec.ofNat 48 (64 * j)) }) } : State).goesOn)
    ∧ (∀ v w, s.firmware = true → s.ready [a, b] [] = true → (s.me.tile a).control.map (BitVec.ofInt 64) = some v → v.toNat ≤ 1023 →
        s.ctl b w → w.extractLsb' 48 16 = 0x2000#16 →
        exec (.tlbi a b p 0) s = .next (s.waits (.tlbi (some (v.setWidth 16)) (some (w.setWidth 48)) (p == 1))))
    ∧ (∀ v, s.firmware = true → s.ready [a] [] = true → (s.me.tile a).control.map (BitVec.ofInt 64) = some v → v.toNat ≤ 1023 →
        exec (.tlbi a b p 1) s = .next (s.waits (.tlbi (some (v.setWidth 16)) none (p == 1))))
    ∧ (s.firmware = true → s.alone = true → exec (.tlbi a b p 2) s = .next (s.waits (.tlbi none none (p == 1))))

/-- In firmware on a ready slot: CTXLD of a directory entry of its core that is ABSENT or EVICTED, into an empty
context slot, puts the context there RESTORING, marks the entry resident in that slot, and waits; when it is tried
again, its wait over, it retires. CTXSV of a frozen settled context writes the bytes of its image into the save area
of its entry (none for the trailing context of a pair, whose state its counterpart's image holds) and retires. CTXEV
of a context that is ACTIVE and not frozen makes it SAVING with its queue entries at the head of its arrival ring, and
retires. (R80, R108, R109, R413, R414) -/
def Obligations.ContextMoves : Prop :=
  ∀ (b : TReg) (c : BitVec 2) (s : State) (v : Word64) (d : Dir), s.firmware = true → s.ready [b] [] = true →
    ((∃ w, s.me.st = .stalled (.ctxld w)) → exec (.ctxld b c) s = .next s.goesOn)
    ∧ (s.ctl b v → v.extractLsb' 52 12 = 0x500#12 → v.extractLsb' 0 4 = 0 → dirAt s (v.extractLsb' 0 52).toNat = some d →
      ((∀ w, s.me.st ≠ .stalled (.ctxld w)) → (d.st = .absent ∨ d.st = .evicted) → d.core = s.cur.1 → s.ctxAt s.cur.1 c = none →
        (s.core s.cur.1).ctxOf d.job = none → c ≠ s.me.ctx →
        ∃ t, exec (.ctxld b c) s = .next t ∧ t.me.st = .stalled (.ctxld c) ∧ t.me.pc = s.me.pc ∧ t.mem = s.mem
          ∧ (t.ctxAt s.cur.1 c).map (·.st) = some .restoring ∧ (t.ctxAt s.cur.1 c).map (·.job) = some d.job
          ∧ t.dir s.cur.1 d.job = (s.dir s.cur.1 d.job).map fun e => { e with st := .resident, slot := c, asked := false })
      ∧ (∀ k, s.ctxAt s.cur.1 c = some k → k.job = d.job → k.frozen = true → settledCore s s.cur.1 k.job = true →
        exec (.ctxsv b c) s = .next (if d.trailing then s else writeImage s d k).goesOn))
    ∧ (∀ k, s.ctxAt s.cur.1 c = some k → k.st = .active → k.frozen = false →
      ∃ t, exec (.ctxev c) s = .next t ∧ t.me.pc = s.me.pc + 4 ∧ t.mem = s.mem
        ∧ (t.ctxAt s.cur.1 c).map (·.st) = some .saving
        ∧ (t.core s.cur.1).queue = (s.core s.cur.1).queue.filter fun e => e.ctx != c)

/-- In firmware on a ready slot with control operands: RESUME writes status 2 into Ta for an instant less than 4,000
ns ahead, 6 for a job that does not exist or is not frozen, and 0 for a frozen job of this part alone whose wave has
reached every core, whose part has a Thyme source and no power-fail warning in force, whose resume then stands at that
instant; while the warning is in force it writes 6 (log 42); HARV writes status 5 for no such job, 1 while it is
harvesting, and else freezes the job for a harvest and waits; STEP writes status 5 for no such job or a core outside
its region, 6 for a job that is not frozen, and else makes a frozen slot of the job READY for one instruction and
waits; HARV and STEP retire when they are tried again after their wait. (R257, R259, R261, R283, R415, R418) -/
def Obligations.FirmwareActsOnJobs : Prop :=
  ∀ (a b : TReg) (i : BitVec 2) (r : BitVec 1) (j v : Word64) (s : State), s.firmware = true →
    (s.ready [a, b] [a] = true → s.ctl a j → s.ctl b v →
      (v.toNat < s.now.toNat + 4000 → ∃ t, exec (.resume a b) s = .next t ∧ Writes s t a (Tile.ofWord 2 false))
      ∧ (s.now.toNat + 4000 ≤ v.toNat → s.job (j.setWidth 16) = none →
          ∃ t, exec (.resume a b) s = .next t ∧ Writes s t a (Tile.ofWord 6 false))
      ∧ (∀ x, s.now.toNat + 4000 ≤ v.toNat → s.job (j.setWidth 16) = some x → x.frost.active = false →
          x.frost.resumed.contains x.frost.count = false →
          ∃ t, exec (.resume a b) s = .next t ∧ Writes s t a (Tile.ofWord 6 false))
      ∧ (s.now.toNat + 4000 ≤ v.toNat → s.power.warn = true → ∃ t, exec (.resume a b) s = .next t ∧ Writes s t a (Tile.ofWord 6 false))
      ∧ ∀ x, s.now.toNat + 4000 ≤ v.toNat → s.job (j.setWidth 16) = some x → x.frost.active = true → x.frost.waiting = [] →
          x.frost.resume = none → (s.lam.reference || s.lam.path) = true → s.power.warn = false → (x.parts.any fun p => p != s.part) = false →
          ∃ t y, exec (.resume a b) s = .next t ∧ t.me.pc = s.me.pc + 4 ∧ (a ≠ 0 → t.me.tileRaw a = Tile.ofWord 0 false)
            ∧ t.job (j.setWidth 16) = some y ∧ y.frost.resume = some v ∧ t.mem = s.mem)
    ∧ (s.ready [a] [a] = true → (s.me.tile a).control.map (BitVec.ofInt 64) = some j → (∀ w, s.me.st ≠ .stalled (.harv w)) →
      (s.job (j.setWidth 16) = none → ∃ t, exec (.harv a) s = .next t ∧ Writes s t a (uwordTile 5 false))
      ∧ (∀ x, s.job (j.setWidth 16) = some x → x.harvesting = true → ∃ t, exec (.harv a) s = .next t ∧ Writes s t a (uwordTile 1 false))
      ∧ ∀ x, s.job (j.setWidth 16) = some x → x.harvesting = false → uncommitted x = false →
          ∃ t, exec (.harv a) s = .next t ∧ t.me.st = .stalled (.harv (j.setWidth 16)) ∧ t.me.pc = s.me.pc ∧ t.mem = s.mem
            ∧ (t.job (j.setWidth 16)).map (·.harvesting) = some true)
    ∧ ((∃ w, s.me.st = .stalled (.harv w)) → s.alone = true → ∃ t, exec (.harv a) s = .next t ∧ t.me.pc = s.me.pc + 4 ∧ OnlyMe s t)
    ∧ (s.ready [b] [b] = true → (s.me.tile b).control.map (BitVec.ofInt 64) = some v → (∀ c w, s.me.st ≠ .stalled (.step c w)) →
      let c : CoreId := v.extractLsb' 16 20
      let j : JobId := v.setWidth 16
      let refused (n : BitVec 8) : Prop := ∃ t, exec (.step b r i) s = .next t ∧ t.me.pc = s.me.pc + 4 ∧ OnlyMe s t
          ∧ (b ≠ 0 → (t.me.tileRaw b).word.extractLsb' 0 8 = n)
      (s.job j = none → refused 5)
      ∧ (∀ x, s.job j = some x → x.region.contains (clusterOf c) = false → refused 5)
      ∧ (∀ x, s.job j = some x → x.region.contains (clusterOf c) = true → x.frost.active = false → refused 6)
      ∧ ∀ x w, s.job j = some x → x.region.contains (clusterOf c) = true → x.frost.active = true → x.frost.cause.extractLsb' 8 4 ≠ 5 →
          (s.ctxAt c (s.slot c i).ctx).map (·.job) = some j → frozenAt s c j = true → (s.slot c i).st = .frozen none w →
          s.pairs = [] → (c, i) ≠ s.cur →
          exec (.step b r i) s = .next ((s.updSlot c i fun y => { y with
            st := .ready, stepFrom := y.st, stepping := some y.icount, stepStatus := 0, rowOnly := r == 1 }).waits (.step c i)))
    ∧ ((∃ c w, s.me.st = .stalled (.step c w)) → s.alone = true → ∃ t, exec (.step b r i) s = .next t ∧ t.me.pc = s.me.pc + 4 ∧ OnlyMe s t)

/-- On a ready slot with room in the output buffer (SENDAT: and the timed store), an untagged route word of a 1×1
64-bit tile with legal low bits, a priority below 31 outside firmware, and nothing that creditWait names still to wait
for (a reply credit, SENDR's retain record, a place in the return ring where the destination is held): SEND, SENDR and
SENDAT give the NI a kind-0 message with the route's part, core, selector, tag and priority, the control value
(SENDAT: the first element, with the second as its instant) as argument and the payload of R390, SENDR's retained; FWD
the launching message under the new route, or one without payload; REPLY, when a reply is owed, a kind-5 message to
the sender with its tag and sequence number, and nothing when none is; CINC and FSET kinds 1 and 2 with the counter or
flag in aux, to the own core for T0; HDR in firmware the message of its tile. The slot then retires. (R313, R389,
R390, R391, R392, R393, R394, R395) -/
def Obligations.MessagesAreFormed : Prop :=
  ∀ (a b c : TReg) (n : BitVec 2) (m : BitVec 4) (v : BitVec 2) (w : Word64) (s : State),
    let x := aluIn s []
    let r := routeOf w
    let sends (i : Instr) (s' : State) (o : OutMsg) : Prop := exec i s = .next ((sendOut s' s.cur.1 s.cur.2 o m v s.me.icount).goesOn)
    let route : Prop := (x.tile a).isWord = true ∧ (x.tile a).word = w ∧ (x.tile a).tag = false ∧ r.low = 0 ∧ (s.firmware = true ∨ r.prio ≠ 31)
    let fits (p : Payload) : Prop := (c = 0 ∧ p = { bytes := [], aux := 0, tag := false })
      ∨ ∃ f, fmtOf r.pfmt.toNat = some f ∧ r.pfmt.toNat ≤ 16 ∧ payloadOf x c n f = some p
    let pf : BitVec 5 := if c = 0 then 0 else r.pfmt
    (∀ arg p, s.ready ([a, b] ++ payloadTiles c n) [] = true → outFull s = none → route → fits p →
      (x.tile b).control.map (BitVec.ofInt 64) = some arg →
      (let g := newMsg s 0 r p pf arg ((x.tile b).tag || p.tag);
        (creditWait s (outOf s g) = none → sends (.send a b c n m v) s (outOf s g))
        ∧ (creditWait s (outOf s { g with retained := true }) = none →
            sends (.sendr a b c n m v) s (outOf s { g with retained := true }))))
    ∧ (∀ e f l p, s.ready ([a, b] ++ payloadTiles c n) [] = true → timedFull s = none → route → fits p →
        ((x.tile b).fmt = .int64 ∨ (x.tile b).fmt = .uint64) → (x.tile b).cells = e :: f :: l →
        (let g := newMsg s 0 r p pf (BitVec.ofNat 64 ((x.tile b).raw e)) ((x.tile b).tag || p.tag)
          let o := { outOf s g with at_ := some (BitVec.ofNat 64 ((x.tile b).raw f)) };
          creditWait s o = none → sends (.sendat a b c n m v) s o))
    ∧ (∀ arg p, s.ready (b :: payloadTiles c n) [] = true → outFull s = none → (x.tile b).control.map (BitVec.ofInt 64) = some arg →
        payloadOf x c n (x.tile c).fmt = some p →
        ((∀ q, s.me.launch.bind (·.msg) = some q → s.me.replied = true ∨ Msg.expectsReply q = false) →
            exec (.reply b c n m v) s = .next s.goesOn)
        ∧ ∀ q, s.me.launch.bind (·.msg) = some q → s.me.replied = false → Msg.expectsReply q = true →
            (let back : Route := { part := q.srcPart, core := q.srcCore, sel := 0xFFF, tag := q.tag, prio := q.prio, pfmt := 0, low := 0 };
              let g := newMsg s 5 back p (if c = 0 then 0 else BitVec.ofNat 5 (fmtCode (x.tile c).fmt)) arg ((x.tile b).tag || p.tag)
              sends (.reply b c n m v) (s.updMe fun y => { y with replied := true })
                { outOf s (Msg.checked { g with vnet := 1, seq := q.seq, fixed := true }) with route := false, asIs := true }))
    ∧ (∀ arg, s.ready [a, b] [] = true → outFull s = none → route → (x.tile b).control.map (BitVec.ofInt 64) = some arg →
        (s.me.launch.bind (·.msg) = none →
          (let g := newMsg s 0 r { bytes := [], aux := 0, tag := false } 0 arg (x.tile b).tag;
            creditWait s (outOf s g) = none → sends (.fwd a b m v) s (outOf s g)))
        ∧ ∀ q, s.me.launch.bind (·.msg) = some q →
            (let g := newMsg s 0 { r with tag := q.tag } { bytes := q.payload, aux := q.aux, tag := q.etag } q.pfmt
                (if b = 0 then q.arg else arg) ((x.tile b).tag || q.etag);
              creditWait s (outOf s g) = none → sends (.fwd a b m v) s (outOf s g)))
    ∧ (∀ arg, s.ready [a, b] [] = true → outFull s = none → a ≠ 0 → b ≠ 0 → route → (x.tile b).control.map (BitVec.ofInt 64) = some arg →
        sends (.cinc a b c m v) s
          (outOf s (newMsg s 1 { r with sel := 0, tag := 0 } { bytes := [], aux := c.setWidth 8, tag := false } 0
            ((arg.setWidth 32 : BitVec 32).setWidth 64) (x.tile b).tag)))
    ∧ (s.ready [a] [] = true → outFull s = none → a ≠ 0 → route →
        sends (.fset a c m v) s
          (outOf s (newMsg s 2 { r with sel := 0, tag := 0 } { bytes := [], aux := c.setWidth 8, tag := false } 0 0 false)))
    ∧ (s.alone = true → outFull s = none →
        (let own : Route := { part := s.part, core := s.cur.1, sel := 0, tag := 0, prio := 0, pfmt := 0, low := 0 };
          sends (.cinc 0 0 c m v) s { outOf s (newMsg s 1 own { bytes := [], aux := c.setWidth 8, tag := false } 0 1 false) with
              route := false, loop := true }
            ∧ sends (.fset 0 c m v) s { outOf s (newMsg s 2 own { bytes := [], aux := c.setWidth 8, tag := false } 0 0 false) with
              route := false, loop := true }))
    ∧ (s.firmware = true → s.ready [b] [] = true → outFull s = none → (x.tile b).tag = false →
        (let h : BitVec 256 := (x.tile b).bytes.setWidth 256
          let len := (h.extractLsb' 51 5).toNat
          let g := msgOf (h.extractLsb' 0 128) (h.extractLsb' 128 128) ((x.tile b).byteRange 32 (16 * (len - 2)));
          let o := { outOf s (Msg.formed g) with route := false, asIs := true };
          2 ≤ len → len ≤ 4 → g.zeros = 0 → creditWait s o = none →
            exec (.hdr b) s = .next ((sendOut s s.cur.1 s.cur.2 o 0 0 s.me.icount).goesOn)))

/-- For a message of a slot whose context is present and not frozen, without a release scope, not HDR or REPLY: it
takes the context's send sequence number (a retained one the retain number, and a retain record), which then is one
higher; a kind-0 message with a tag and a selector other than 0xFFF takes one reply credit. With an instant it waits
in the timed store; without one, the output buffer and the timed store empty, its destination on another part and not
held after a NACK, it goes onto the mesh at its core as one flight. Memory does not change. (R76, R102, R271, R389,
R392, R393) -/
def Obligations.OutputLeavesInOrder : Prop :=
  ∀ (s : State) (c : CoreId) (i : BitVec 2) (o : OutMsg) (k : Ctx) (mask : BitVec 4) (n : Nat), s.ctxAt c (s.slot c i).ctx = some k →
    o.asIs = false → o.msg.job = k.job →
    let seq := if o.msg.retained then k.retainSeq else k.sendSeq
    let g := Msg.checked { o.msg with seq := seq }
    ∃ t, t = sendOut s c i o mask 0 n ∧ t.mem = s.mem
      ∧ (t.ctxAt c (s.slot c i).ctx).map (·.sendSeq) = some (if o.msg.retained then k.sendSeq else k.sendSeq + 1)
      ∧ (t.ctxAt c (s.slot c i).ctx).map (·.retainSeq) = some (if o.msg.retained then k.retainSeq + 1 else k.retainSeq)
      ∧ (t.ctxAt c (s.slot c i).ctx).map (·.credits) = some (if Msg.expectsReply o.msg then k.credits - 1 else k.credits)
      ∧ (∀ at_, o.at_ = some at_ → (t.core c).timed = (s.core c).timed ++ [{ o with msg := g, evs := [], posts := [], ord := s.nextId }]
          ∧ t.mesh = s.mesh)
      ∧ (o.at_ = none → o.route = true → o.loop = false → o.msg.dstPart ≠ s.part → o.msg.retained = false → (s.core c).out = [] → (s.core c).timed = [] →
          frozenAt s c o.msg.job = false → heldFor s c g = false →
          ∃ f, t.mesh.flights = s.mesh.flights ++ [f] ∧ f.msg = g ∧ f.host = false ∧ f.x = meshX c ∧ f.y = meshY c ∧ f.ring = none
            ∧ (t.core c).out = [])

/-- On a ready slot, Ta not T0 and unbound, with fewer than 8 streams of its context open, an untagged descriptor tile
whose fields R158 accepts (kind 0 STRM, 1 STRMX, 2 STRMS, 3 STRMA) and pointers that pass its checks: the instruction
retires, and Ta is bound to an open stream of that kind with the descriptor's base, strides, counts, index and
operation, no tile moved and an empty queue. Tiles, memory and the other slots are unchanged. On a slot that issues
alone, with nothing owed to Ta: if no stream binds Ta, SCLOSE only retires (Ta no longer counts as bound by the slot);
if a read stream binds it that is not closing, none of the cluster's streams has that stream's number afterwards; if
an open write stream binds it, that stream is closing afterwards with its queue kept. If the stream is closing, the
slot waits. Memory and tiles are unchanged. (R154, R155, R156, R157, R158, R159, R387) -/
def Obligations.StreamsBindAndClose : Prop :=
  (∀ (a b : TReg) (kind : BitVec 2) (s : State),
     let u := s.me.tile b
     let r := streamOf s a kind (s.me.tileRaw a) u.bytes
     let i : Instr := match kind.toNat with
       | 0 => .strm a b
       | 1 => .strmx a b
       | 2 => .strms a b
       | _ => .strma a b
     s.ready [b] [a] = true → a ≠ 0 → s.me.binds.contains a = false → openStreams s < 8 → u.tag = false →
     descriptorOk kind (s.me.tileRaw a).fmt r u.bytes = true → streamOpOk kind (s.me.tileRaw a).fmt r.op = true →
     streamPtr s r (s.me.tileRaw a).fmt = .ok () →
     ∃ t p, exec i s = .next t ∧ t.me.pc = s.me.pc + 4 ∧ t.me.tiles = s.me.tiles ∧ t.mem = s.mem
       ∧ boundTo t s.cur.1 s.cur.2 a = some p ∧ p.2.kind = kind ∧ p.2.base = u.bytes.extractLsb' 0 64 ∧ p.2.st = .open_
       ∧ p.2.queue = [] ∧ p.2.moved = 0 ∧ p.2.handler = s.me.uid ∧ p.2.slot = s.cur.2
       ∧ p.2.rows = ((u.bytes.extractLsb' 192 16).toNat + 1) * ((u.bytes.extractLsb' 208 16).toNat + 1)
           * ((u.bytes.extractLsb' 224 16).toNat + 1) * ((u.bytes.extractLsb' 240 16).toNat + 1)
       ∧ p.2.strides = [(u.bytes.extractLsb' 64 32).toInt, (u.bytes.extractLsb' 96 32).toInt, (u.bytes.extractLsb' 128 32).toInt,
           (u.bytes.extractLsb' 160 32).toInt]
       ∧ ∀ c j, (c, j) ≠ s.cur → t.slot c j = s.slot c j)
  ∧ (∀ (a : TReg) (s : State), s.alone = true → owedTile s.me a = false →
     (boundTo s s.cur.1 s.cur.2 a = none →
       exec (.sclose a) s = .next (s.updMe fun x => { x with binds := x.binds.filter fun t => t != a }).goesOn)
     ∧ ∀ p, boundTo s s.cur.1 s.cur.2 a = some p →
       (p.2.isWrite = false → p.2.st ≠ .closing → ∃ t, exec (.sclose a) s = .next t ∧ t.me.pc = s.me.pc + 4 ∧ t.mem = s.mem
           ∧ t.me.tiles = s.me.tiles ∧ ∀ q ∈ streamsOn t s.cur.1, q.2.uid ≠ p.2.uid)
       ∧ (p.2.isWrite = true → p.2.st = .open_ → ∃ t q, exec (.sclose a) s = .next t ∧ t.me.pc = s.me.pc + 4 ∧ t.mem = s.mem
           ∧ t.me.tiles = s.me.tiles ∧ boundTo t s.cur.1 s.cur.2 a = some q ∧ q.2.st = .closing ∧ q.2.queue = p.2.queue)
       ∧ (p.2.st = .closing → ∃ t, exec (.sclose a) s = .next t ∧ t.me.st = .stalled .stream ∧ t.me.pc = s.me.pc ∧ t.mem = s.mem))

/-- On a ready slot with room in the island queue: POST and POSTH whose operands R174 and R400 accept, ACCZ and ACCRD
on an accumulator of the job, and ACCCFG, append exactly one entry for their accumulator behind the slot's earlier
ones, holding what was captured at issue (the elements of both operands, the row and tiles to read, the new format),
and retire at the next word; ACCCFG waits for the island's answer instead, and retires or traps PERM when it has come.
ACCRD's tiles are owed their data. Memory is unchanged. (R174, R178, R229, R398, R400, R401, R402, R403) -/
def Obligations.MatrixWordsReachTheIsland : Prop :=
  ∀ (a b : TReg) (c : BitVec 3) (n : BitVec 2) (m : BitVec 4) (p z : BitVec 1) (s : State),
    let x := aluIn s []
    let k := clusterOf s.cur.1
    let owns : Prop := ((s.cluster k).acc c).owner = some s.myCtx.job
    let adds (t : State) (op : IslandOp) (mask : BitVec 4) : Prop :=
      (t.cluster k).heldPosts = (s.cluster k).heldPosts ++ [{ entryFor s c op with evs := coveredBy s (ownerOf s) mask 3 s.me.icount }]
        ∧ t.nextId = s.nextId + 1 ∧ t.mem = s.mem ∧ t.me.tiles = s.me.tiles
    (∀ op, s.ready (groupNames a 4 ++ groupNames b (if n = 0 || n = 3 then 4 else 6)) [] = true → islandFull s = none →
        capture s x a (some b) c n (p == 1) (z == 1) = .ok op →
        ∃ t, exec (.post a b c n m p z) s = .next t ∧ t.me.pc = s.me.pc + 4 ∧ adds t op m)
    ∧ (∀ op, s.ready (groupNames a 4) [] = true → islandFull s = none → capture s x a none c n (p == 1) (z == 1) = .ok op →
        ∃ t, exec (.posth a c n m p z) s = .next t ∧ t.me.pc = s.me.pc + 4 ∧ adds t op m)
    ∧ (s.alone = true → islandFull s = none → owns → ∃ t, exec (.accz c) s = .next t ∧ t.me.pc = s.me.pc + 4 ∧ adds t .accz 0)
    ∧ (∀ v : BitVec 2, s.alone = true → (∀ e, s.me.st ≠ .stalled (.accCfg e)) →
        ∃ t, exec (.acccfg c v) s = .next t ∧ t.me.pc = s.me.pc ∧ t.me.st = .stalled (.accCfg none) ∧ adds t (.config v) 0)
    ∧ (∀ v : BitVec 2, s.alone = true → s.me.st = .stalled (.accCfg (some false)) → exec (.acccfg c v) s = .next s.goesOn)
    ∧ (∀ v : BitVec 2, s.alone = true → s.handles = true → s.me.st = .stalled (.accCfg (some true)) →
        ∃ t, exec (.acccfg c v) s = .next t ∧ Traps s t .perm (s.me.pc.setWidth 64) s.me.pc 0)
    ∧ (∀ w, s.ready [b] (groupNames a (n.toNat + 1)) = true → islandFull s = none → owns → a ≠ 0 → a.toNat + n.toNat ≤ 15 →
        (∀ u ∈ groupNames a (n.toNat + 1), s.me.binds.contains u = false) → s.ctl b w →
        w.extractLsb' 13 51 = 0 → w.extractLsb' 5 3 = 0 → w.extractLsb' 0 4 = 0 → (w.extractLsb' 8 5).toNat + n.toNat ≤ 31 →
        ∃ t, exec (.accrd a b c n) s = .next t ∧ t.me.pc = s.me.pc + 4
          ∧ adds t (.accrd (w.extractLsb' 8 5).toNat (w.getLsbD 4) a n false) 0
          ∧ ∀ u ∈ groupNames a (n.toNat + 1), t.me.tileBusy u = true)

/-- On a slot that issues alone: FENCE retires at the next word with a record of the handler's outstanding events in
its classes and scope (reads alone for kind 1), if there are any. FMTTAB with a pointer to 1,024 bytes in reach sends
reads of exactly those bytes and waits; tried again with every byte there, untagged and a legal table, it makes the
table its context's and retires. COPY with an accepted descriptor and pointers, a place free, adds one copy with that
length and retires. None of them changes memory or a tile. (R181, R199, R219, R384, R385, R386) -/
def Obligations.FenceTableAndCopy : Prop :=
  ∀ (a b c : TReg) (q k : BitVec 2) (m : BitVec 4) (s : State),
    (s.alone = true →
      (let l := ((ownEvents s (ownerOf s)).filter fun e => decide (e.n < s.me.icount) && m.getLsbD e.cls.toNat && decide (e.near.toNat ≤ q.toNat) && (k != 1 || e.reads)).map (·.id)
        ∃ t, exec (.fence q m k) s = .next t ∧ t.me.pc = s.me.pc + 4 ∧ OnlyMe s t ∧ t.me.tiles = s.me.tiles
          ∧ (l ≠ [] → (∃ f ∈ t.me.fences, f.before = l ∧ f.mask = m ∧ f.kind = k))
          ∧ ∀ f ∈ t.me.fences, f ∈ s.me.fences ∨ (f.before = l ∧ f.mask = m ∧ f.kind = k)))
    ∧ (∀ tr g, s.ready [b] [] = true → (∀ l, s.me.st ≠ .stalled (.memory l)) → (s.me.tile b).tag = false → (s.me.tile b).isWord = true →
        accessChecks s (s.me.tile b).word [{ n := 0, off := 0, len := 1024 }] 16 (fun _ => false) false = .ok tr →
        locate s tr { n := 0, off := 0, len := 1024 } false = .keys g →
        ∃ t evs, exec (.fmttab b q k) s = .next t ∧ t.memq = s.memq ++ evs ∧ t.mem = s.mem ∧ t.me.tiles = s.me.tiles ∧ t.me.pc = s.me.pc
          ∧ t.me.st = .stalled (.memory (evs.map (·.id)))
          ∧ (∀ e ∈ evs, e.kind = .read ∧ e.cls = q ∧ e.scope = k)
          ∧ ∀ key, (∃ e ∈ evs, ∃ d ∈ e.bytes, e.key + d = key) ↔ ∃ j, j < 1024 ∧ g j = key)
    ∧ (∀ ids, s.alone = true → s.me.st = .stalled (.memory ids) → (s.rems.filter fun r => ids.contains r.id) = [] →
        (∀ r ∈ s.rets, ids.contains r.id = true → r.tag = false) →
        (let data := (s.rets.filter fun r => ids.contains r.id).flatMap (·.bytes)
          let img : BitVec 8192 := data.foldl (fun v d => v ||| ((d.2.setWidth 8192 : BitVec 8192) <<< (8 * d.1))) 0
          code8Ok img = true →
          ∃ t, exec (.fmttab b q k) s = .next t ∧ t.me.pc = s.me.pc + 4 ∧ t.mem = s.mem ∧ t.me.tiles = s.me.tiles
            ∧ (∀ y, s.ctxAt s.cur.1 s.me.ctx = some y → (t.ctxAt s.cur.1 s.me.ctx).map (·.code8) = some (some img))))
    ∧ (s.ready [a, b, c] [] = true →
        (let u := (s.me.tile a).bytes
          let dst := (s.me.tile b).word
          let src := (s.me.tile c).word
          let len := (u.extractLsb' 256 40).toNat
          let win (w : Word64) : Option Word64 := (ptrOf w).bind (resolve s s.myCtx.job s.cur.1)
          (s.me.tile a).tag = false → (s.me.tile b).tag = false → (s.me.tile c).tag = false →
          (s.me.tile b).isWord = true → (s.me.tile c).isWord = true →
          u.extractLsb' 496 16 = 0 → u.extractLsb' 484 4 = 0 → u.extractLsb' 448 28 = 0 → u.extractLsb' 296 24 = 0 → u.extractLsb' 0 256 = 0 →
          u.extractLsb' 490 2 ≠ 3 → len ≠ 0 →
          checkRows dst s.firmware (win dst) [{ n := 0, off := 0, len := len }] 16 (fun _ => true) = none →
          checkRows src s.firmware (win src) [{ n := 0, off := 0, len := len }] 16 (fun _ => true) = none →
          copiesTaken s (clusterOf s.cur.1) < Config.copyPlaces →
          ∃ t d, exec (.copy a b c) s = .next t ∧ t.me.pc = s.me.pc + 4 ∧ t.mem = s.mem ∧ t.me.tiles = s.me.tiles
            ∧ (t.cluster (clusterOf s.cur.1)).copies = (s.cluster (clusterOf s.cur.1)).copies ++ [d]
            ∧ d.dst = dst ∧ d.src = src ∧ d.length = len ∧ d.job = s.myCtx.job ∧ d.core = s.cur.1 ∧ d.sectors = 0))

/-- On a slot that issues alone, its tiles clear and matching their residues, no load of this instruction complete and
none of its rows remote or missing a translation: if the checks of R377 pass, or the instruction is partly done and
goes by what it kept at its issue (R128), and row r is located at the keys f, LD sends read events whose bytes are
exactly f of each byte of the row's unmasked valid elements, each to its byte of the tile (LDB: reversed within the
element), with the instruction's class and scope; then PROGRESS names the next row and the instruction stays, or after
the last row it is cleared and the slot is at the next word. Memory does not change. (R124, R125, R130, R135, R138,
R212, R325, R375, R376, R377, R379) -/
def Obligations.LoadRowsReadTheirBytes : Prop :=
  ∀ (rev : Bool) (a b c : TReg) (k q v : BitVec 2) (s : State) (tr : Transfer) (x : AluIn) (r : Row) (f : Nat → Nat),
    s.alone = true → s.clear [a, b, c] = true → s.sound [b, c] = true → (∀ n, s.me.st ≠ .stalled (.remote n)) → myPend s a = none →
    GoesBy s (transferCheck true a b c k) tr x → tr.rows[firstRow s]? = some r → locate s tr r false = .keys f →
    let bytes := (rowElems x k (x.tile a) r.n).flatMap (elemBytes rev)
    ∃ t evs, exec (if rev then .ldb a b c k q v else .ld a b c k q v) s = .next t ∧ t.mem = s.mem ∧ t.memq = s.memq ++ evs
      ∧ (∀ e ∈ evs, e.kind = .read ∧ e.owner = ownerOf s ∧ e.cls = q ∧ e.scope = v ∧ e.dst = a)
      ∧ (∀ key pos, (∃ e ∈ evs, ∃ d ∈ e.map, e.key + d.1 = key ∧ d.2 = pos) ↔ ∃ d ∈ bytes, f d.1 = key ∧ d.2 = pos)
      ∧ (firstRow s + 1 < tr.rows.length → t.me.pc = s.me.pc ∧ t.me.st = .ready
          ∧ t.me.progress = { live := true, row := BitVec.ofNat 3 (firstRow s + 1), tile := a })
      ∧ (tr.rows.length ≤ firstRow s + 1 → t.me.pc = s.me.pc + 4 ∧ t.me.progress = { live := false, row := 0, tile := 0 })
      ∧ (∀ n, n ≠ a → t.me.tileRaw n = s.me.tileRaw n) ∧ ∀ d i, (d, i) ≠ s.cur → t.slot d i = s.slot d i

/-- On a slot that issues alone, its tiles clear and matching their residues: if the checks of R377 pass, or the
instruction is partly done and goes by what it kept at its issue (R128), the data are untagged and row r is located at
the keys f, ST sends write events that hold exactly, for each byte of the row's unmasked valid elements, that byte of
the tile for the key f gives its offset; then PROGRESS names the next row, or after the last it is cleared and the
slot retires. With tagged data it writes nothing, raises the UE event and retires. Memory itself changes when the
events are performed, and no tile changes. (R124, R125, R130, R138, R212, R270, R375, R376, R377, R379) -/
def Obligations.StoreRowsWriteTheirBytes : Prop :=
  ∀ (a b c : TReg) (k q v : BitVec 2) (s : State) (tr : Transfer) (x : AluIn), s.alone = true → s.clear [a, b, c] = true → s.sound [a, b, c] = true →
    (∀ n, s.me.st ≠ .stalled (.remote n)) → GoesBy s (transferCheck false a b c k) tr x →
    let u := x.tile a
    (goingOf s = none → tr.sink = u.tag) ∧
    (∀ r f, tr.sink = false → tr.rows[firstRow s]? = some r → locate s tr r true = .keys f →
      let bytes := (rowElems x k u r.n).flatMap (elemBytes false)
      ∃ t evs, exec (.st a b c k q v) s = .next t ∧ t.mem = s.mem ∧ t.memq = s.memq ++ evs ∧ t.me.tiles = s.me.tiles
        ∧ (∀ e ∈ evs, e.owner = ownerOf s ∧ e.cls = q ∧ e.scope = v ∧ ∃ l, e.kind = .write l)
        ∧ (∀ key y, (∃ e ∈ evs, ∃ l, e.kind = .write l ∧ ∃ d ∈ l, e.key + d.1 = key ∧ d.2 = y) ↔ ∃ d ∈ bytes, f d.1 = key ∧ u.byte d.2 = y)
        ∧ (firstRow s + 1 < tr.rows.length → t.me.pc = s.me.pc ∧ t.me.st = .ready
            ∧ t.me.progress = { live := true, row := BitVec.ofNat 3 (firstRow s + 1), tile := a })
        ∧ (tr.rows.length ≤ firstRow s + 1 → t.me.pc = s.me.pc + 4 ∧ t.me.progress = { live := false, row := 0, tile := 0 })
        ∧ ∀ d i, (d, i) ≠ s.cur → t.slot d i = s.slot d i)
    ∧ (tr.sink = true → ∃ t, exec (.st a b c k q v) s = .next t ∧ t.mem = s.mem ∧ t.memq = s.memq ∧ t.me.pc = s.me.pc + 4
        ∧ t.me.tiles = s.me.tiles)

/-- For AADD, AMIN, AMAX, AMINU, AMAXU, AAND, AOR, AXOR, ASWP, ACAS, AINCB and AFADD on a slot that issues alone, its
tiles clear and matching their residues: if the checks of R377 and R380 pass, or the instruction is partly done and
goes by what it kept at its issue (R128), Tc untagged, and row r is located at the keys f, the instruction sends one
atomic event for each unmasked valid element of the row, at the key of that element, with the function, operand (for
ACAS also the compare value), size and .ORD of the instruction; then PROGRESS names the next row, or after the last it
is cleared and the slot retires. Memory changes when the events are performed. (R124, R125, R130, R138, R375, R377,
R380, R381) -/
def Obligations.AtomRowsSendTheirOperations : Prop :=
  ∀ (fn : BitVec 5) (a b c : TReg) (k q v : BitVec 2) (o : BitVec 1) (s : State) (tr : Transfer) (x : AluIn) (r : Row) (f : Nat → Nat) (i : Instr),
    (fn, i) ∈ [(0, Instr.aadd a b c k q v o), (1, .amin a b c k q v o), (2, .amax a b c k q v o), (3, .aminu a b c k q v o),
      (4, .amaxu a b c k q v o), (5, .aand a b c k q v o), (6, .aor a b c k q v o), (7, .axor a b c k q v o), (8, .aswp a b c k q v o),
      (9, .acas a b c k q v o), (10, .aincb a b c k q v o), (11, .afadd a b c k q v o)] →
    s.alone = true → s.clear [a, b, c] = true → s.sound [a, b, c] = true → (∀ n, s.me.st ≠ .stalled (.remote n)) → myPend s a = none →
    GoesBy s (atomCheck { fn := fn, ord := o == 1 } a b c k) tr x → tr.sink = false → tr.rows[firstRow s]? = some r →
    locate s tr r true = .keys f →
    let els := rowElems x k (x.tile c) r.n
    ∃ t evs, exec i s = .next t ∧ t.mem = s.mem ∧ t.memq = s.memq ++ evs ∧ evs.length = els.length
      ∧ (∀ (j : Nat) (e : MemEv) (d : Elem), evs[j]? = some e → els[j]? = some d → e.owner = ownerOf s ∧ e.cls = q ∧ e.scope = v ∧ e.key = f d.off / 16 * 16
          ∧ ∃ op, e.kind = .atom (f d.off % 16) op ∧ op.fn = fn ∧ op.v = (x.tile c).raw d.e ∧ op.size = fmtBits (x.tile c).fmt
            ∧ op.ord = (o == 1) ∧ (fn = 9 → op.a = (x.tile a).raw d.e) ∧ op.tag = false)
      ∧ (firstRow s + 1 < tr.rows.length → t.me.pc = s.me.pc ∧ t.me.st = .ready
          ∧ t.me.progress = { live := true, row := BitVec.ofNat 3 (firstRow s + 1), tile := a })
      ∧ (tr.rows.length ≤ firstRow s + 1 → t.me.pc = s.me.pc + 4 ∧ t.me.progress = { live := false, row := 0, tile := 0 })
      ∧ (∀ n, n ≠ a → t.me.tileRaw n = s.me.tileRaw n) ∧ ∀ d j, (d, j) ≠ s.cur → t.slot d j = s.slot d j

/-- For every well-formed instruction that has a word (all 174 encoded constructors, every operand at every value its
encoding admits), the decoder reads the encoder's word as that instruction, and so does decodeTableWord on the word's
32 bits; every well-formed instruction whose constructor has a word gets one. (R294, R297, R298, R299, R300, R301,
R302, R305, R306, R309, R310, R312) -/
def Obligations.EncodedInstructionsDecode : Prop :=
  ∀ (i : Instr) (w : BitVec 32), WellFormed i = true → encode i = some w →
    decode w = .ok i ∧ decodeTableWord 32 w.toNat = some i

/-- For every 32-bit word: if the decoder reads an instruction, the instruction is well formed and the encoder gives
back this very word. So no bit of an accepted word is ignored, no two words stand for one instruction, and an
unassigned or must-be-zero bit that is set makes the word illegal. (R294, R296, R297) -/
def Obligations.DecodedWordsEncodeBack : Prop :=
  ∀ (w : BitVec 32) (i : Instr), decode w = .ok i → WellFormed i = true ∧ encode i = some w

/-- 0x0CCD_1020 is ADDS T3, T3, T4 ?M1; 0x38C9_2040 is RAMX T3, T4, T2 ?M2; 0x1F10_C0B0 is PERM8 T12, T4, T3;
0x09C0_0910 is RAGGEDI T7, 1, 10; 0x09C4_4F00 is SHAPEI T7, INT16, 2, 16; 0x2959_C000 is FMA T5, T6, T7; 0x0400_1000
is DONE; and 0x0000_0000 is illegal. The decoder refuses every word whose major opcode bits [31:26] are assigned by
none of the group tables, 0x00 among them, for its major opcode, whatever its other bits are; issued, it is the event
ILLEGAL_ENCODING of that word. (R294, R297, R298, R299, R300, R305, R308, R312) -/
def Obligations.WrittenWordsDecode : Prop :=
  (decode 0x0CCD1020 = .ok (.adds 3 3 4 1) ∧ decode 0x38C92040 = .ok (.ramx 3 4 2 2) ∧ decode 0x1F10C0B0 = .ok (.perm8 12 4 3 0)
     ∧ decode 0x09C00910 = .ok (.raggedi 7 0 9) ∧ decode 0x09C44F00 = .ok (.shapei 7 2 1 15) ∧ decode 0x2959C000 = .ok (.fma 5 6 7 0 0)
     ∧ decode 0x04001000 = .ok .done ∧ decode 0 = .error .major)
  ∧ (∀ w : BitVec 32, w.extractLsb' 26 6 ∉ ([0x01, 0x02, 0x03, 0x04, 0x05, 0x06, 0x07, 0x08, 0x09, 0x0A, 0x0B, 0x0C, 0x0D, 0x0E, 0x10, 0x11, 0x12, 0x13, 0x14, 0x15, 0x16, 0x17, 0x20, 0x21, 0x22, 0x23, 0x24, 0x25, 0x26, 0x28, 0x29, 0x2A, 0x2B, 0x30, 0x31, 0x32] : List (BitVec 6)) →
     decode w = .error .major ∧ instrOf w = .illegalEncoding w)

/-- If no scheduled occurrence is due, nothing happens of itself (log 2), the slots offered before this one come to
nothing, the slot's code line is in its cluster's cache, and the word at its pc decodes to j, then step is exec of j
on the state with this slot current and the core's round behind it (beginIssue changes nothing else), followed by
afterStep, which is the identity unless the slot is single-stepped (R257); a fault or refusal of exec is the step's. A
word of no instruction runs ILLEGAL_ENCODING of it, a tagged line ILLEGAL_ENCODING of 0; without the line the slot
asks for it and waits. That an issue which changes nothing lets the next slot issue is the model's choice (log 2).
(R97, R114, R150, R293, R297) -/
def Obligations.AStepRunsTheDecodedInstruction : Prop :=
  ∀ (s : State) (c : CoreId) (i : BitVec 2) (pre l : List (CoreId × BitVec 2)),
    dueSched s = none → ownStep s = none → issuable s = pre ++ (c, i) :: l →
    (∀ p ∈ pre, ∃ u, issueSlot s p.1 p.2 = .next u ∧ idle s u = true) →
    let b := beginIssue s c i
    let x := s.slot c i
    let w (n : CodeLine) : BitVec 32 := (n.bytes >>> (8 * (x.pc.toNat % 64))).setWidth 32
    (b.cur = (c, i) ∧ b.me = x ∧ b.mem = s.mem ∧ { b with cur := s.cur, cores := s.cores } = s)
    ∧ (∀ n, codeLine s (clusterOf c) (ctxOfSlot s c i).asid x.pc = some n → n.tag = false → ∀ j, decode (w n) = .ok j →
        (∀ t, exec j b = .next t → idle s (afterStep t c i) = false →
          step s = .next (afterStep t c i) ∧ ((t.slot c i).stepping = none → step s = .next t))
        ∧ (∀ r, exec j b = .fault r → step s = .fault r) ∧ ∀ r, exec j b = .refused r → step s = .refused r)
    ∧ (∀ n e t, codeLine s (clusterOf c) (ctxOfSlot s c i).asid x.pc = some n → n.tag = false → decode (w n) = .error e →
        exec (.illegalEncoding (w n)) b = .next t → idle s (afterStep t c i) = false → step s = .next (afterStep t c i))
    ∧ (∀ n t, codeLine s (clusterOf c) (ctxOfSlot s c i).asid x.pc = some n → n.tag = true →
        exec (.illegalEncoding 0) b = .next t → idle s (afterStep t c i) = false → step s = .next (afterStep t c i))
    ∧ (fetch s c i = .miss → idle s (fetchMiss b) = false → step s = .next (fetchMiss b)
        ∧ ((fetchMiss b).slot c i).st = .stalled (.code (ctxOfSlot s c i).asid (x.pc &&& ~~~(0x3F : BitVec 48))))

/-- From every state whose memory list is canonical (keys strictly rising, no entry equal to what an unlisted byte
reads as), whatever the step is (an instruction, an event inside the part, a command of firmware, a scheduled
occurrence, the passing of a cycle), the next state's memory list is canonical. So equal memories are equal data in
every state. The form is the model's (log 1). (R130, R138, R143, R182, R284) -/
def Obligations.EveryStepKeepsMemoryCanonical : Prop :=
  ∀ s t : State, s.Inv → step s = .next t → t.Inv

/-- Thyme is 0 (R52), the power status register 0 (R20), WEAR_LIFE of every chiplet 0 (R25), the status register of
every port 0 (R48), no memory event or message is under way, and no slot holds a handler. Reset memory lists nothing,
so the invariant that every step keeps holds at reset. What an unlisted byte reads as is the model's choice (log 1).
(R20, R25, R48, R52, R130, R138) -/
def Obligations.ResetLeavesTheStatedValues : Prop :=
  (State.reset.now = 0 ∧ State.reset.power.supply = 0 ∧ State.reset.power.stretch = 0 ∧ State.reset.power.warn = false
     ∧ (∀ k, (State.reset.chiplet k).wearLife = 0)
     ∧ (∀ p ∈ State.reset.lam.ports.toList, p.st = 0 ∧ p.partner = 0 ∧ p.partnerPort = 0 ∧ p.lanes = 0 ∧ p.far = false)
     ∧ State.reset.memq = [] ∧ State.reset.mesh.flights = [] ∧ (∀ c i, (State.reset.slot c i).st = .free))
  ∧ (State.reset.Inv ∧ State.reset.mem = [])

/-- For every canonical memory, key and byte: after the write, reading that key gives the byte and reading any other
key gives what it gave, and the memory is canonical; storing n bytes from a key changes exactly those n keys; two
canonical memories in which every key reads alike are equal. The canonical form is the model's (log 1). (R138, R212)
-/
def Obligations.MemoryReadsWhatWasWritten : Prop :=
  ∀ m : List Host.Cell, Memory.wf m = true →
    (∀ k v j, memRead (memWrite m k v) j = (if j = k then v else memRead m j)) ∧ (∀ k v, Memory.wf (memWrite m k v) = true)
    ∧ (∀ k l j, memRead (memStore m k l) j = if k ≤ j ∧ j < k + l.length then l.getD (j - k) 0 else memRead m j)
    ∧ ∀ n, Memory.wf n = true → (∀ k, memRead m k = memRead n k) → m = n

/-- For every number below 2^512 stored little-endian, residueOf is the sum of its 64 bytes modulo 255, a value from 0
to 254, so never 0xFF, and it equals the number modulo 255 (so an element read as an unsigned integer has its value
modulo 255 as residue). A checker accepts a tile exactly when its residue and that of its bytes agree modulo 255, so a
stored 0xFF is equal to 0. (R263) -/
def Obligations.ResidueIsTheSumOfTheBytes : Prop :=
  (∀ b : Storage, (residueOf b.toNat).toNat = (∑ i ∈ Finset.range 64, (b.extractLsb' (8 * i) 8).toNat) % 255)
    ∧ (∀ l : List Byte, (residueOf (natOf l)).toNat = (l.map (·.toNat)).sum % 255)
    ∧ (∀ x, (residueOf x).toNat ≤ 254 ∧ (residueOf x).toNat = x % 255)
    ∧ (∀ t : Tile, t.residueOk = true ↔ (if t.residue = 0xFF then 0 else t.residue) = residueOf t.bytes.toNat)

/-- On a slot that issues alone with its tiles clear and its traps handled, TRN of a tile with more than 8 columns
traps SHAPE and changes no tile. On ready operands it completes, and for a destination other than T0 the result has
Tb's format with rows and columns exchanged, and each valid unmasked element (i, j) is element (j, i) of Tb. (R335) -/
def Obligations.TransposeMirrorsTheTile : Prop :=
  ∀ (a b : TReg) (k : MReg) (s : State),
    let x := aluIn s []
    let u := x.tile b
    (s.alone = true → s.clear [b, a] = true → s.handles = true → 8 < u.cols →
      ∃ t tile, exec (.trn a b k) s = .next t ∧ Traps s t .shape (s.me.pc.setWidth 64) s.me.pc tile ∧ t.me.tiles = s.me.tiles)
    ∧ (s.aluReady (.trn a b k) = true → u.legal = true → ∃ t, exec (.trn a b k) s = .next t
        ∧ (a ≠ 0 →
            let r := t.me.tileRaw a
            r.fmt = u.fmt ∧ r.rows = u.cols ∧ r.cols = u.rows ∧ r.vrows = u.vcols ∧ r.vcols = u.vrows
              ∧ ∀ i j, i < r.vrows → j < r.vcols → x.bit k (i * r.cols + j) = true → r.raw (i * r.cols + j) = u.raw (j * u.cols + i)))

/-- On a slot that issues alone: CALL with fewer than 8 entries pushes bits [47:2] of the next word's address, so the
stack never exceeds 8; RET pops the newest entry and continues there. With its traps handled, CALL on 8 entries and
RET on none trap STACK and leave the stack unchanged. A handler that HANDLER_LAUNCH sets up (a slot LAUNCHING for no
trailer's record) has an empty stack. (R122) -/
def Obligations.TheReturnStackHoldsEight : Prop :=
  (∀ (o : BitVec 20) (s : State), s.alone = true → s.me.rstack.length < 8 →
      ∃ t, exec (.call o) s = .next t ∧ t.me.rstack = (s.me.pc + 4).extractLsb' 2 46 :: s.me.rstack ∧ t.me.rstack.length ≤ 8)
    ∧ (∀ (s : State) a l, s.alone = true → s.me.rstack = a :: l →
      ∃ t, exec .ret s = .next t ∧ t.me.rstack = l ∧ t.me.pc = a ++ (0 : BitVec 2))
    ∧ (∀ (o : BitVec 20) (s : State), s.alone = true → s.handles = true → 8 ≤ s.me.rstack.length →
      ∃ t, exec (.call o) s = .next t ∧ Traps s t .stack (s.me.pc.setWidth 64) s.me.pc 0 ∧ t.me.rstack = s.me.rstack)
    ∧ (∀ s : State, s.alone = true → s.handles = true → s.me.rstack = [] →
      ∃ t, exec .ret s = .next t ∧ Traps s t .stack (s.me.pc.setWidth 64) s.me.pc 0 ∧ t.me.rstack = [])
    ∧ ∀ (c : CoreId) (i : BitVec 2) (s : State) n l, (s.slot c i).st = .launching n → (s.slot c i).launch = some l →
      n + 4 ≤ s.clk.cycle → gated s (clusterOf c) = false → (s.slot c i).trailing = false → ∃ t, exec (.handlerLaunch c i) s = .next t ∧ (t.slot c i).rstack = []

/-- On a slot that issues alone with room in the island queue and an accumulator of its job, ACCZ adds one entry and
retires. The entry at the island is performed only when it is first for its accumulator; then, in a cluster whose
clock is not gated, every cell is 0, the error tag is clear, and format, owner and held B are kept. Until then the
island does not change. (R402) -/
def Obligations.AccumulatorZeroingIsAQueueEntry : Prop :=
  (∀ (c : BitVec 3) (s : State), s.alone = true → islandFull s = none →
      ((s.cluster (clusterOf s.cur.1)).acc c).owner = some s.myCtx.job →
      ∃ t e, exec (.accz c) s = .next t ∧ t.me.pc = s.me.pc + 4 ∧ e.op = .accz ∧ e.acc = c
        ∧ (t.cluster (clusterOf s.cur.1)).heldPosts = (s.cluster (clusterOf s.cur.1)).heldPosts ++ [e])
    ∧ ∀ (k : ClusterId) (n : Nat) (e : IslandEntry) (s : State), (s.cluster k).island[n]? = some e → e.op = .accz →
      let x := (s.cluster k).acc e.acc
      (islandFirst (s.cluster k) e = false → exec (.islandEntryFire k n) s = .next s)
      ∧ (islandFirst (s.cluster k) e = true → gated s k = false → e.lost = false → x.owner = some e.job → ∃ t, exec (.islandEntryFire k n) s = .next t
          ∧ (∀ i j, i < 32 → j < 32 → ((t.cluster k).acc e.acc).cell i j = 0) ∧ ((t.cluster k).acc e.acc).tag = false
          ∧ ((t.cluster k).acc e.acc).heldB = x.heldB ∧ ((t.cluster k).acc e.acc).fp32 = x.fp32
          ∧ ((t.cluster k).acc e.acc).owner = x.owner ∧ ∀ m, m ≠ e.acc → (t.cluster k).acc m = (s.cluster k).acc m)

/-- The seed 0x9E37_79B9 xor CORE_ID shifted left by 4 xor SLOT is not zero for any core and slot; a step of the LFSR
takes a nonzero state to a nonzero state, and two different states to different states. In every state, T0 of every
slot reads as a 1×1 INT64 zero with residue 0 and no tag, the mask register M0 as all ones, and writing a tile to T0
leaves the slot as it was. (R118, R120, R123) -/
def Obligations.TheFixedRegistersAndTheLfsr : Prop :=
  ((∀ (c : CoreId) (i : BitVec 2), lfsrSeed c i = (0x9E3779B9 : BitVec 32) ^^^ ((c.setWidth 32 : BitVec 32) <<< 4) ^^^ (i.setWidth 32 : BitVec 32)
       ∧ lfsrSeed c i ≠ 0)
     ∧ (∀ v : BitVec 32, v ≠ 0 → lfsrStep v ≠ 0) ∧ ∀ v w : BitVec 32, lfsrStep v = lfsrStep w → v = w)
  ∧ ((∀ x : Slot, x.tile 0 = Tile.zero ∧ (x.tile 0).residue = 0 ∧ (x.tile 0).tag = false ∧ x.mask 0 = BitVec.allOnes 64)
     ∧ (∀ (x : Slot) (v : Tile), x.setTile 0 v = x))

/-- ROUTER_FORWARD moves a message one place, along X first, into a free unmarked buffer, where no earlier message of
its flow is before it. At its core, with a matching header and residue: a kind-0 message of a job enters the queue of
its ACTIVE context if one of the 16 entries is free; the arrival ring of an evicted context below its quota, with the
cycle as stamp; and goes back as UNDELIVERABLE where the core has no directory entry. A management record of a proxy
reaches firmware of 0.0.0 as a command in order of receipt. COUNTER_ADD adds the 32-bit argument, FLAG_SET sets the
flag. A completion, a topology event and a fault event enter the queue of an ACTIVE context (a reply gives its credit
back first). HOST_MESSAGE puts a kind-0 message into mailbox [35:28] of its job as a record of type 2. SENDAT_INJECT
takes the message of the earliest instant that has come, the first issued among equals, where its release is met and
its slot holds no earlier message. INITIAL_MESSAGE_INJECT sends record n at its instant, once no earlier record with a
smaller or equal delay waits. None of these changes memory. (R64, R87, R89, R92, R99, R101, R105, R241, R267, R291,
R324, R392) -/
def Obligations.ArrivalsReachTheirContext : Prop :=
  ∀ (s : State) (id : Nat) (m : Msg),
    (∀ f t plus, flightOf s id = some f → f.host = false → targetOf s f.msg = some t → Msg.headerOk f.msg = true →
      (f.x ≠ meshX t → f.msg.srcPart = s.part → f.y = meshY f.msg.srcCore) → (f.x ≠ meshX t ∨ f.y ≠ meshY t) → f.ring = none →
      (let d := f.x == meshX t
        let next := (f.pos d + (if plus then 1 else 1023)) % 1024
        bufferFree s d plus (f.line d) next f.vn = true → blockedBy s f (some (d, plus)) = false → markOf s (ringNo d plus (f.line d) f.vn) ≠ next →
        exec (.routerForward id plus) s = .next { s with mesh := { s.mesh with flights := s.mesh.flights.map fun h =>
          if h.id = id then (if d then { f with y := next, ring := some (true, plus) } else { f with x := next, ring := some (false, plus) }) else h } }))
    ∧ (s.atNi id m → m.kind = 0 → m.job = 0 → m.dstCore = 0 → isProxy m.srcCore = true → m.srcPart = s.part →
        ∃ t, exec (.handlerMessageArrival id) s = .next t ∧ t.mem = s.mem ∧ t.mesh.flights = s.without id ∧ t.fw.orders = s.fw.orders + 1
          ∧ t.fw.cmds = s.fw.cmds ++ [{ order := s.fw.orders, window := m.seq.toNat, sel := m.sel, tag := m.tag, arg := m.arg, payload := m.payload }])
    ∧ (∀ i k d, s.atNi id m → s.serves m.dstCore m.job i k d → m.retained = false →
      (let queued (e : Instr) (s' : State) : Prop := (s.core m.dstCore).queue.length < 16 → ∃ t, exec e s = .next t ∧ t.mem = s.mem
          ∧ t.mesh.flights = s.without id ∧ (t.core m.dstCore).queue = (s.core m.dstCore).queue ++ [s.entry m.dstCore i m s.clk.cycle 0 false]
          ∧ (t.core m.dstCore).ctxs = (s'.core m.dstCore).ctxs ∧ ∀ c, c ≠ m.dstCore → t.core c = s.core c;
        (m.kind = 0 → m.job ≠ 0 → queued (.handlerMessageArrival id) s)
        ∧ (m.kind = 5 → isProxy m.dstCore = false → queued (.completion id) (if m.sel = 0xFFF then
            s.updCtx m.dstCore i fun k => { k with credits := Nat.min 256 (k.credits + 1) } else s))
        ∧ (m.kind = 6 → queued (.topologyEvent id) s)
        ∧ (m.kind = 7 → queued (.faultEvent id) s)
        ∧ (m.kind = 1 → m.aux.toNat < 16 → m.etag = false →
            exec (.counterAdd id) s = .next ((dropFlight s id).updCtx m.dstCore i fun k =>
              k.setCval (m.aux.setWidth 4) (k.cvalAt (m.aux.setWidth 4) + m.arg.setWidth 32)))
        ∧ (m.kind = 2 → m.aux.toNat < 16 → m.etag = false →
            exec (.flagSet id) s = .next ((dropFlight s id).updCtx m.dstCore i fun k => { k with flags := k.flags ||| (1#16 <<< m.aux.toNat) }))))
    ∧ (∀ d, s.atNi id m → m.kind = 0 → m.job ≠ 0 → m.retained = false → orphaned s m.dstCore m.job = false → (s.core m.dstCore).leadOf m.job = none →
        (s.dir m.dstCore m.job = none → ∃ t, exec (.handlerMessageArrival id) s = .next t ∧ Sent s t (s.without id) m.dstCore (Msg.back m 10))
        ∧ (s.dir m.dstCore m.job = some d → d.st = .evicted → d.outside < d.spillQ →
            ∃ t, exec (.handlerMessageArrival id) s = .next t ∧ t.mem = s.mem ∧ t.mesh.flights = s.without id
              ∧ (t.dir m.dstCore m.job).map (·.ring) = some (d.ring ++ [{ msg := m, stamp := s.clk.cycle, w := 0, evict := false }])))
    ∧ (∀ f win, flightOf s id = some f → f.msg = m → f.host = true → Msg.headerOk m = true → Msg.netOk m = true → Msg.residueOk m = true →
        m.kind = 0 → m.etag = false → ((s.job m.job).bind fun x => x.windows[(m.dstCore.extractLsb' 0 8).toNat]?) = some win →
        exec (.hostMessage id) s = .next (toMailbox (dropFlight s id) win.toNat (mailboxRec 2 0 m.job m.sel m.tag m.arg m.payload)))
    ∧ (∀ (c : CoreId) (o : OutMsg) (l r : List OutMsg) (a : Word64), (s.core c).timed = l ++ o :: r → o.at_ = some a → a.toNat ≤ s.now.toNat →
        released s c o = true → behindHeld s c o = false → frozenAt s c o.msg.job = false →
        (∀ p ∈ l, a.toNat < (p.at_.getD 0).toNat) → (∀ p ∈ r, a.toNat ≤ (p.at_.getD 0).toNat) →
        exec (.sendatInject c) s = .next (emit (s.updCore c fun k => { k with timed := l ++ r }) c o))
    ∧ ∀ (j : JobId) (n : Nat) (x : Job) (r : HostRec), s.job j = some x → x.initial[n]? = some r → x.started = true → x.injected.contains n = false →
        (∀ i < n, x.injected.contains i = true ∨ ∀ q, x.initial[i]? = some q → r.seq.toNat < q.seq.toNat) →
        x.startAt.toNat + r.seq.toNat ≤ s.now.toNat →
        (∀ h ∈ x.fwHolds, h.part = (routeOf r.route).part → h.word ≠ (routeOf r.route).core) →
        ∃ t, exec (.initialMessageInject j n) s = .next t ∧ t.mem = s.mem ∧ (t.job j).map (·.injected) = some (x.injected ++ [n])
          ∧ ((routeOf r.route).part ≠ s.part → ∃ g, Sent s t s.mesh.flights 0 g ∧ g.dstPart = (routeOf r.route).part ∧ g.dstCore = (routeOf r.route).core
              ∧ g.sel = (routeOf r.route).sel ∧ g.tag = (routeOf r.route).tag ∧ g.prio = (routeOf r.route).prio ∧ g.job = j ∧ g.arg = r.arg
              ∧ g.payload = r.payload.take r.plen.toNat ∧ g.srcCore = 0 ∧ g.srcPart = s.part)

/-- NACK: the message joins the sender's return ring and its destination is held from this cycle; a proxy's window
stops. SPACE_NOTICE, and NACK_HOLD_TIMEOUT 65,536 cycles after the last NACK, end the hold and send the kept message.
RETAIN_ACKNOWLEDGEMENT with aux 0 frees the record, with aux 1 it sends it again up to three times, where the record
can be read; RETAIN_TIMEOUT after 2^22 cycles frees it and puts a UE event into the context's queue. UNDELIVERABLE
gives the credit of an expected reply back and puts a fault event 0x44 for the fault selector, element 0 the message's
argument, into the queue. BUILTIN_REPLY brings status, tag and data to the row that waits. ARRIVAL_RING_DRAIN takes
the oldest record of a diverting context: kind 1 and 2 are applied, kind 0 enters the queue with the wait that it has
kept, and an empty ring gives way to the folded adds and flags; the sources of refused messages are then invited once
the ring is below half its quota. UNCLAIMED_TAG_TIMEOUT after 2^20 cycles replaces an unclaimed message by a fault
event. Memory stays. (R42, R92, R95, R100, R102, R103, R242, R272, R273, R274, R393, R461) -/
def Obligations.ReturnsAndResends : Prop :=
  ∀ (s : State) (id : Nat) (m : Msg) (c : CoreId) (j : JobId) (d : Dir), s.dir c j = some d →
    let kept (t : State) (f : Dir → Dir) : Prop := t.mem = s.mem ∧ t.dir c j = some (f d)
    let event (t : State) (q : List QEntry) (k : Ctx) (aux : BitVec 8) (g : Msg) : Prop := ∃ e : QEntry, (t.core c).queue = q ++ [e] ∧ e.msg.kind = 7
      ∧ e.msg.aux = aux ∧ e.msg.sel = k.faultSel ∧ e.msg.prio = 30 ∧ (aux = 0x44 → e.msg.payload = bytesOf 8 g.arg.toNat ++ bytesOf 8 s.now.toNat) ∧ t.mem = s.mem;
    (s.atNi id m → m.kind = 3 → m.dstCore = c → m.job = j →
      (isProxy c = false → d.st ≠ .absent → d.ret.length < d.spillQ → d.overflow = [] →
        let g := Msg.again m (if m.srcPart = s.part then none else d.sentTo.look (sentNo m))
        ∃ t, exec (.nack id) s = .next t ∧ t.mesh.flights = s.without id ∧ kept t fun d => { d with
          ret := d.ret ++ [g], holds := (d.holds.filter fun h => !(h.part == m.srcPart && h.core == m.srcCore && h.word == g.dstCore)) ++
            [{ part := m.srcPart, core := m.srcCore, word := g.dstCore, since := s.clk.cycle }] })
      ∧ (∀ w, isProxy c = true → windowAt s m.seq.toNat = some w → ∃ t g, exec (.nack id) s = .next t ∧ t.mem = s.mem
          ∧ (m.srcPart = s.part → g = Msg.again m none) ∧ g.payload = m.payload ∧ g.dstPart = m.srcPart ∧ g.kind = 0
          ∧ windowAt t m.seq.toNat = some { w with
              nacked := (w.nacked.map fun p => if p.1.dstPart = m.srcPart ∧ p.2.1 = m.srcCore then (p.1, m.srcCore, s.clk.cycle) else p)
                ++ [(g, m.srcCore, s.clk.cycle)], stopped := true }))
    ∧ (∀ (part : PartId) (dst : CoreId) (g : Msg), d.ret = [g] → d.overflow = [] → g.job = j → g.dstPart = part → g.kind = 0 → g.vnet = 0 →
        (∀ h ∈ d.holds, h.part = part ∧ h.core = dst) → (∃ h ∈ d.holds, h.word = g.dstCore) → (s.core c).out = [] → frozenAt s c g.job = false →
        isProxy c = false →
        let sent (d : Dir) : Dir := { d with
          ret := [], rHead := (d.rHead + 1) % Nat.max 1 d.spillQ, holds := []
          retained := if g.retained then d.retained.map fun r => if r.msg.seq = g.seq then { r with sent := true, age := 0 } else r else d.retained
          sentTo := if part = s.part then d.sentTo else d.sentTo.put (sentNo g) g.dstCore };
        (s.atNi id m → m.kind = 4 → m.dstCore = c → m.job = j → m.srcPart = part → m.srcCore = dst →
          ∃ t, exec (.spaceNotice id) s = .next t ∧ Sent s t (s.without id) c g ∧ kept t sent)
        ∧ ((∃ h ∈ d.holds, h.since + 65536 ≤ s.clk.cycle) →
          ∃ t, exec (.nackHoldTimeout c j part dst) s = .next t ∧ Sent s t s.mesh.flights c g ∧ kept t sent))
    ∧ (∀ r, (d.retained.find? fun r => r.msg.seq == m.seq) = some r →
        (s.atNi id m → m.kind = 9 → m.etag = false → m.dstCore = c → m.job = j →
          (m.aux = 0 → ∃ t, exec (.retainAcknowledgement id) s = .next t ∧ t.mesh.flights = s.without id
            ∧ kept t fun d => { d with retained := d.retained.filter fun x => x.msg.seq != m.seq })
          ∧ (m.aux = 1 → r.tries < 3 → (s.core c).out = [] → r.msg.job = j → r.msg.retained = true → r.msg.kind = 0 → r.msg.vnet = 0 →
              frozenAt s c j = false → r.msg.dstPart ≠ s.part → heldFor s c r.msg = false →
              badAt s ((List.range 320).map (d.retainKey + 320 * r.place + ·)) = false →
              ∃ t, exec (.retainAcknowledgement id) s = .next t ∧ Sent s t (s.without id) c r.msg
                ∧ kept t fun d => { d with
                  sentTo := d.sentTo.put (sentNo r.msg) r.msg.dstCore
                  retained := d.retained.map fun x => if x.msg.seq = m.seq then { x with tries := x.tries + 1, sent := true, age := 0 } else x }))
        ∧ ∀ i k, s.serves c j i k d → (s.core c).queue.length < 16 → r.msg.job = j → 2 ^ 22 ≤ r.age → niFree s c = true →
            ∃ t, exec (.retainTimeout c j m.seq) s = .next t ∧ event t (s.core c).queue k 0x41 m
              ∧ (t.dir c j).map (·.retained) = some (d.retained.filter fun x => x.msg.seq != m.seq))
    ∧ (∀ i k, s.serves c j i k d → s.atNi id m → m.kind = 10 → m.dstCore = c → m.job = j → isProxy c = false → m.retained = false →
        ¬ (m.srcCore = 0 ∧ (m.sel = 1 ∨ m.sel = 2 ∨ m.sel = 3)) → (s.core c).queue.length < 16 →
        ∃ t, exec (.undeliverable id) s = .next t ∧ event t (s.core c).queue k 0x44 m
          ∧ (t.ctxAt c i).map (·.credits) = some (if m.tag ≠ 0 ∧ m.sel ≠ 0xFFF then Nat.min 256 (k.credits + 1) else k.credits))
    ∧ (∀ r, s.atNi id m → m.kind = 11 → m.vnet = 1 → requestOf s m.dstCore m = some r →
        ∃ t, exec (.builtinReply id) s = .next t ∧ t.mem = s.mem ∧ t.mesh.flights = s.without id
          ∧ t.rems = s.rems.map fun q => if q.id = r.id then { q with reply := some (m.aux.toNat, m.etag, m.payload) } else q)
    ∧ (∀ i k, s.ctxAt c i = some k → k.job = j → k.st = .active → k.frozen = false → k.trailing = false → d.diverting = true →
        (d.ring = [] → ∃ t, exec (.arrivalRingDrain c i) s = .next t ∧ t.mem = s.mem
          ∧ t.ctxAt c i = some { k with cval := Vector.ofFn fun (n : Fin 16) => k.cval[n] + d.pendAdd[n], flags := k.flags ||| d.pendFlags }
          ∧ (t.dir c j).map (fun d => (d.ring, d.pendAdd, d.pendFlags)) = some ([], Vector.replicate 16 0, 0)
          ∧ (d.refusing = true → 0 < d.spillQ → (t.mesh.flights.drop s.mesh.flights.length).map (fun f => (f.msg.kind, f.msg.dstPart, f.msg.dstCore))
              = d.refused.map fun p => (4, p.1, p.2)))
        ∧ ∀ r l, d.ring = r :: l → d.refusing = false →
            (r.msg.kind = 1 → exec (.arrivalRingDrain c i) s = .next ((s.updCtx c i fun k =>
              k.setCval (r.msg.aux.setWidth 4) (k.cvalAt (r.msg.aux.setWidth 4) + r.msg.arg.setWidth 32)).updDir c j fun e => { e with ring := l, aHead := (e.aHead + 1) % (d.spillQ + 288) }))
            ∧ (r.msg.kind = 0 → (s.core c).queue.length < 16 → ((s.core c).queue.filter fun e => e.ctx == i && e.drained).length < 4 →
                niFree s c = true →
                ∃ t, exec (.arrivalRingDrain c i) s = .next t ∧ kept t (fun e => { e with ring := l, aHead := (e.aHead + 1) % (d.spillQ + 288) })
                  ∧ (t.core c).queue = (s.core c).queue ++ [s.entry c i r.msg r.stamp (if r.msg.vnet = 0 then r.w else 0) true]))
    ∧ ∀ i k n e, s.serves c j i k d → (s.core c).queue[n]? = some e → (s.core c).queue.length ≤ 16 → e.ctx = i → e.msg.job = j → e.msg.sel = 0xFFF →
        2 ^ 20 ≤ e.w → niFree s c = true → (∀ w ∈ k.trig.toList, trigOn w = true → trigKind w = 2 → trigIndex w ≠ e.msg.tag) →
        ∃ t, exec (.unclaimedTagTimeout c n) s = .next t ∧ event t ((s.core c).queue.eraseIdx n) k 0x44 e.msg

/-- DISPATCH with a FREE slot takes a candidate that no other exceeds in effective priority: a message leaves the
queue, a flag trigger clears its flag, and the slot is LAUNCHING with the entry's code, budget and format and T1's
value; a kind-0 message with an invalid entry goes back. HANDLER_LAUNCH, four cycles later, makes the slot READY
(FROZEN in a frozen context) at the entry's code: T1 the argument, T2 to T11 zero, masks zero, stack empty, the LFSR's
seed, MSGINFO, SKID and TRAPADDR kept. BUDGET_EXHAUSTED at a boundary traps BUDGET; TRAP_ALLOWANCE_EXPIRY freezes the
slot and raises a Frost of kind 2. TIMER_DEADLINE changes nothing: an armed timer's condition holds from its deadline
on. LOAD_DATA_RETURN writes a return's bytes into its tile, the last one ends what the load owes and sets its tag; a
frozen job's return is held. Memory stays. (R79, R85, R88, R94, R96, R98, R123, R129, R133, R237, R255, R325) -/
def Obligations.HandlersLaunchAndEnd : Prop :=
  ∀ (s : State) (c : CoreId) (i : BitVec 2),
    (∀ (l : List Choice) x, bestOf (choiceKey s c) l = some x → x ∈ l ∧ ∀ y ∈ l, (choiceKey s c y).eff ≤ (choiceKey s c x).eff)
    ∧ (∀ x k, slotIds.find? (slotFree s (s.core c)) = some i → bestOf (choiceKey s c) (candidates s c) = some x →
        gated s (clusterOf c) = false → (s.core c).dispatched ≤ s.clk.cycle →
        (let launched (u : State) (l : Launch) : Prop := u.mem = s.mem ∧ (u.slot c i).st = .launching s.clk.cycle ∧ (u.slot c i).ctx = l.ctx
            ∧ (u.slot c i).launch = some l ∧ (u.core c).dispatched = s.clk.cycle + 1 ∧ ∀ d j, (d, j) ≠ (c, i) → u.slot d j = s.slot d j;
          (∀ e, x = .entry e → s.ctxAt c e.ctx = some k →
            (∀ en, readEntry s c k e.msg.sel = .found en → receivable e.msg en.fmt = true → ∃ u, exec (.dispatch c) s = .next u
              ∧ (u.core c).queue = ((s.core c).queue.filter fun y => y.ord != e.ord)
              ∧ launched u { ctx := e.ctx, sel := e.msg.sel, code := en.code, fmt := en.fmt, budget := en.budget, arg := e.msg.arg, msg := some e.msg,
                             origin := .message, index := e.msg.tag, trailer := none })
            ∧ (readEntry s c k e.msg.sel = .invalid → e.msg.kind = 0 → ∃ u, exec (.dispatch c) s = .next u
              ∧ (u.core c).queue = ((s.core c).queue.filter fun y => y.ord != e.ord) ∧ Sent s u s.mesh.flights c (Msg.back e.msg 10)))
          ∧ ∀ q w en, x = .trigger q w → s.ctxAt c q = some k → trigKind (k.trigAt w) = 0 → readEntry s c k (trigSel (k.trigAt w)) = .found en →
              ∃ u, exec (.dispatch c) s = .next u
                ∧ (u.ctxAt c q).map (·.flags) = some (k.flags &&& ~~~(1#16 <<< (trigIndex (k.trigAt w)).toNat))
                ∧ launched u { ctx := q, sel := trigSel (k.trigAt w), code := en.code, fmt := en.fmt, budget := en.budget, arg := 0, msg := none,
                               origin := .flag, index := trigIndex (k.trigAt w), trailer := none }))
    ∧ (∀ n l k, (s.slot c i).st = .launching n → (s.slot c i).launch = some l → n + 4 ≤ s.clk.cycle → gated s (clusterOf c) = false →
        (s.slot c i).trailing = false → s.ctxAt c l.ctx = some k → k.pair.getLsbD 37 = false →
        ∃ t y, exec (.handlerLaunch c i) s = .next t ∧ t.slot c i = y ∧ t.mem = s.mem ∧ y.st = (if k.frozen then .frozen none false else .ready)
          ∧ y.uid = s.nextId ∧ t.nextId = s.nextId + 1 ∧ y.ctx = l.ctx ∧ y.pc = l.code
          ∧ y.tileRaw 1 = Tile.ofWord l.arg ((l.msg.map (·.etag)).getD false) ∧ (∀ n : TReg, 2 ≤ n.toNat → n.toNat ≤ 11 → y.tileRaw n = Tile.zero)
          ∧ y.masks = Vector.replicate 4 0 ∧ y.rstack = [] ∧ y.lfsr = lfsrSeed c i ∧ y.progress = { live := false, row := 0, tile := 0 }
          ∧ y.budget = (if l.budget = 0 then k.budget else l.budget) ∧ y.fhandler = ((l.msg.map fun m => m.kind == 7).getD false)
          ∧ y.skid = (s.slot c i).skid ∧ y.taddr = (s.slot c i).taddr ∧ y.icount = 0 ∧ y.pend = [] ∧ y.fences = []
          ∧ y.msginfo.extractLsb' 16 12 = l.sel ∧ y.msginfo.extractLsb' 12 4 = l.index
          ∧ y.msginfo.extractLsb' 28 36 = (match l.msg with
            | some m => m.srcCore ++ m.srcPart
            | none => c ++ s.part)
          ∧ ∀ d j, (d, j) ≠ (c, i) → t.slot d j = s.slot d j)
    ∧ (let s' : State := { s with cur := (c, i) };
        (s.slot c i).budget = 0 → (s.slot c i).st = .ready → (s.slot c i).trailing = false → (s.slot c i).stepping = none →
        (s.slot c i).progress.live = false → gated s (clusterOf c) = false → s'.handles = true →
        ∃ t, exec (.budgetExhausted c i) s = .next t ∧ Traps s' t .budget ((s.slot c i).pc.setWidth 64) (s.slot c i).pc 0)
    ∧ (∀ k, (s.slot c i).st = .trapped → (s.slot c i).allowance = 0 → (s.slot c i).trailing = false → s.ctxAt c (s.slot c i).ctx = some k →
        k.frozen = false → (s.job k.job).isSome = true → (frostState s k.job).1 = false →
        ∃ t, exec (.trapAllowanceExpiry c i) s = .next t ∧ (t.slot c i).st = .frozen none true ∧ (t.slot c i).causeFrost = true ∧ t.mem = s.mem
          ∧ FrostSet s t k.job 2 (s.slot c i).cause c i)
    ∧ (∀ (q n : BitVec 2) (k : Ctx) (w : BitVec 32), exec (.timerDeadline c q n) s = .next s
        ∧ (trigKind w = 3 → (conditionHolds s c q k w = true ↔
            k.qarmed.getLsbD ((trigIndex w).toNat % 4) = true ∧ (k.qdeadAt ((trigIndex w).setWidth 2)).toNat ≤ s.now.toNat)))
    ∧ ∀ (id : Nat) (r : Ret) (p : Pend) (uid : Nat), (s.rets.find? fun r => r.id == id) = some r → r.owner = .slot c i uid → (s.slot c i).uid = uid →
        (s.slot c i).st ≠ .free → keptFor (s.slot c i) id = false → (s.slot c i).stepping = none →
        (frozenAt s c (((s.ctxAt c (s.slot c i).ctx).map (·.job)).getD 0) = true → ((s.core c).replies.any fun h => h.id == id && h.slot == i) = false →
          exec (.loadDataReturn id) s = .next (s.updCore c fun k => { k with replies := k.replies ++ [{ slot := i, id := id }] }))
        ∧ (frozenAt s c (((s.ctxAt c (s.slot c i).ctx).map (·.job)).getD 0) = false → (s.slot c i).st = .ready → (s.slot c i).pend = [p] → p.tile = r.dst →
            r.dst ≠ 0 → r.shape = none → p.evs.contains id = true → (r.bytes.map (·.1)).Nodup → (∀ b ∈ r.bytes, b.1 < 64) →
            ∃ t, exec (.loadDataReturn id) s = .next t ∧ t.mem = s.mem ∧ t.rets = (s.rets.filter fun x => x != r)
              ∧ (∀ n, n ≠ r.dst → (t.slot c i).tileRaw n = (s.slot c i).tileRaw n)
              ∧ (p.evs.filter (· != id) ≠ [] → ((t.slot c i).tileBusy r.dst) = true
                  ∧ ∀ n, n < 64 → ((t.slot c i).tileRaw r.dst).byte n = match r.bytes.find? fun b => b.1 == n with
                    | some b => b.2
                    | none => ((s.slot c i).tileRaw r.dst).byte n)
              ∧ (p.evs.filter (· != id) = [] → p.sent = true → p.push = false →
                  (t.slot c i).pend = [] ∧ ((t.slot c i).tileRaw r.dst).tag = (p.tag || r.tag || p.keep) ∧ ((t.slot c i).tileRaw r.dst).residueOk = true))

/-- With memory canonical, no ECC unit bad and no pair: MEMORY_EVENT_PERFORM of a ready read returns the bytes at its
keys, of a ready write changes exactly the bytes it lists, of a ready operation gives it its place of arrival at its
Sorrel or atomic unit; an event with an earlier one outstanding stays; a write to device addresses goes to their
registers, and one for which the spec gives no register is the fault noRegister (log 20). SORREL_APPLY of the
operation whose turn it is, and HBM_ATOMIC_APPLY, replace exactly the element's bytes by f of R381 (atomForm) and
return the old value if it is wanted. COPY_SECTOR of a copy whose source and destination lie in the part puts read
events for every byte of the next sector, takes their bytes once all are performed, puts the write events for those
bytes, and counts the sector once they are performed; after the last sector the copy leaves the engine and its
completion is formed. Every other byte stays. (R143, R169, R170, R181, R182, R183, R213, R214, R325, R381, R382) -/
def Obligations.MemoryEventsTakeEffect : Prop :=
  ∀ (s : State), s.Inv → s.hbm.bad = [] → s.pairs = [] →
    (∀ (id : Nat) (e : MemEv), (s.memq.find? fun e => e.id == id) = some e →
      (let left (t : State) : Prop := t.memq = s.memq.filter fun x => x.id != id;
        (ready s e = false → exec (.memoryEventPerform id) s = .next s)
        ∧ (ready s e = true → isDevice e.key = false →
          (e.kind = .read → (∀ p ∈ e.map, p.1 ∈ e.bytes) → ∃ t r, exec (.memoryEventPerform id) s = .next t ∧ t.mem = s.mem ∧ left t
            ∧ t.rets = s.rets ++ [r] ∧ r.id = e.id ∧ r.owner = e.owner ∧ r.dst = e.dst ∧ r.tag = false
            ∧ r.bytes = e.map.map fun p => (p.2, s.byteAt (e.key + p.1)))
          ∧ (∀ bs, e.kind = .write bs → (bs.map (·.1)).Nodup → ∃ t, exec (.memoryEventPerform id) s = .next t ∧ left t ∧ t.rets = s.rets
            ∧ (∀ p ∈ bs, memRead t.mem (e.key + p.1) = p.2) ∧ ∀ k, (∀ p ∈ bs, k ≠ e.key + p.1) → memRead t.mem k = memRead s.mem k)
          ∧ (∀ off op, e.kind = .atom off op → e.arrived = none → (e.key < vaultBase ∨ sorrelAccepts s e = true) →
            exec (.memoryEventPerform id) s = .next { s with
              nextId := s.nextId + 1, memq := s.memq.map fun x => if x.id = e.id then { x with arrived := some s.nextId } else x }))
        ∧ (∀ bs, ready s e = true → isDevice e.key = true → e.kind = .write bs → e.key ≠ Config.frostControl →
            ((∃ p ∈ bs, regAt (e.key + p.1) = none) → exec (.memoryEventPerform id) s = .fault .noRegister)
            ∧ ((∀ p ∈ bs, (regAt (e.key + p.1)).isSome = true) → ∃ t, exec (.memoryEventPerform id) s = .next t ∧ left t ∧ t.mem = s.mem ∧ t.rets = s.rets))
        ∧ (∀ off op, e.kind = .atom off op → e.arrived.isSome = true → op.tag = false → op.size % 8 = 0 → 0 < op.size → (op.fn = 11 → op.size = 32) →
            op.fn.toNat ≤ 11 → op.v < 2 ^ op.size → op.a < 2 ^ op.size →
            (let n := op.size / 8
              let k := e.key + off
              let old := BitVec.ofNat op.size (natOf (memBytes s.mem k n))
              let new := atomForm op.fn op.size op.signed old (BitVec.ofNat op.size op.v) (BitVec.ofNat op.size op.a)
              let applied (i : Instr) : Prop := ∃ t, exec i s = .next t ∧ left t ∧ natOf (memBytes t.mem k n) = new.toNat
                ∧ (∀ a, a < k ∨ k + n ≤ a → memRead t.mem a = memRead s.mem a)
                ∧ (op.wants = false → t.rets = s.rets)
                ∧ (op.wants = true → (∀ p ∈ e.map, off ≤ p.1 ∧ p.1 < off + n) → ∃ r, t.rets = s.rets ++ [r] ∧ r.id = e.id ∧ r.owner = e.owner
                    ∧ r.dst = e.dst ∧ r.tag = false ∧ r.bytes = e.map.map fun p => (p.2, memRead s.mem (e.key + p.1)));
              (vaultBase ≤ e.key → sorrelNext s e = true → applied (.sorrelApply id []))
              ∧ (e.key < vaultBase → (∀ x ∈ s.memq, x.arrived.isSome = true → x.key < vaultBase → hbmStack x.key = hbmStack e.key → e.place ≤ x.place) →
                  applied (.hbmAtomicApply id))))))
    ∧ ∀ (k : ClusterId) (uid : Nat) (d : Copy), findCopy s k uid = some d → d.faulted = false → (∀ i ∈ d.waits, outstanding s i = false) → d.parked = false →
        gated s k = false → atWork s k uid = true → (∀ m ∈ (s.cluster k).misses, m.who ≠ .copy uid) →
        (d.length ≤ d.start →
            exec (.copySector k uid) s = .next (copyCompletion (dropCopy s k uid) d (if d.ue then 0x41 else 0) d.fin.arg))
        ∧ (d.start < d.length → d.reqs = [] →
          (let asid := ((s.ctxAt d.core d.ctx).map (·.asid)).getD 0
            let mine (t : State) (l : List Nat) (o : Nat) (at_ : Nat) (does : MemEv → Nat → Prop) : Prop :=
              ∃ e ∈ t.memq, e.id ∈ l ∧ e.owner = .copy k uid ∧ ∃ b, e.key + b = at_ ∧ (b, o) ∈ e.map ∧ does e b;
            (∀ f, d.evs = [] → d.taken = none → engineAt s k (.copy uid) asid d.src d.srcWindow (d.start : Nat) d.size false = .keys f →
              ∃ t l, exec (.copySector k uid) s = .next t ∧ t.mem = s.mem ∧ t.cores = s.cores ∧ findCopy t k uid = some { d with evs := l }
                ∧ ∀ o < d.size, mine t l o (f o) fun e _ => e.kind = .read)
            ∧ (d.evs ≠ [] → (∀ i ∈ d.evs, outstanding s i = false) → d.taken = none → (∀ r ∈ s.rets, r.id ∈ d.evs → r.tag = false) →
                ∃ t l, exec (.copySector k uid) s = .next t ∧ t.mem = s.mem ∧ findCopy t k uid = some { d with evs := [], taken := some l } ∧ l.length = d.size
                  ∧ t.rets = (s.rets.filter fun r => !d.evs.contains r.id)
                  ∧ ∀ r ∈ s.rets, r.id ∈ d.evs → ∀ p ∈ r.bytes, (∀ r' ∈ s.rets, r'.id ∈ d.evs → ∀ p' ∈ r'.bytes, p'.1 = p.1 → p' = p) →
                      p.1 < d.size → l[p.1]? = some (p.2, false))
            ∧ (∀ l g, d.evs = [] → d.taken = some l → l.length = d.size → (∀ b ∈ l, b.2 = false) →
                engineAt s k (.copy uid) asid d.dst d.dstWindow (d.start : Nat) d.size true = .keys g →
                ∃ t n, exec (.copySector k uid) s = .next t ∧ t.mem = s.mem ∧ findCopy t k uid = some { d with evs := n }
                  ∧ ∀ o < d.size, mine t n o (g o) fun e b => ∃ bs, e.kind = .write bs ∧ (b, (l.getD o (0, false)).1) ∈ bs)
            ∧ (∀ l, d.evs ≠ [] → (∀ i ∈ d.evs, outstanding s i = false) → d.taken = some l →
                exec (.copySector k uid) s = .next (updCopy s k uid fun d => { d with sectors := d.sectors + 1, evs := [], reqs := [], taken := none }))))

/-- PAGE_WALK gives a waiting pair a place in its chiplet's miss table of 256, then one of 16 walkers, which reads one
level a step; a leaf's translation goes into the TLBs of the chiplet and the waiting cluster, A (and D) is set in the
entry, and the page's reads are to be tried again; a faulting walk keeps its cause for each access that waited.
COPY_ON_WRITE of a committed page gives its frame to a free one: same bytes, the leaf names it with C cleared and D
set, and no translation of the page is left. CODE_CACHE_FILL puts the 64 bytes of a translated line into the cluster's
cache. TLBI_COMPLETE, no translated access outstanding, removes the named translations everywhere, has faulted copies
tried again and retires the instruction. RESIDENCY_REQUEST makes an evicted context RESTORING in a free context slot;
EVICTION_DRAINED parks the engine work of a SAVING context that no slot holds; EVICTION_COMPLETE writes the image and
frees the context slot; RESTORE_COMPLETE makes the context ACTIVE as its image in memory says, its engine work back,
or LOST with an unreadable image. (R80, R108, R109, R110, R142, R144, R145, R146, R148, R150, R284) -/
def Obligations.TranslationAndResidency : Prop :=
  ∀ (s : State), s.Inv →
    (∀ (k : ClusterId) (asid : BitVec 16) (vpn : BitVec 32), ((s.cluster k).misses.any fun m => !m.served && m.asid == asid && m.vpn == vpn) = true →
      (let ch := chipletOf k
        let va : BitVec 48 := vpn ++ (0 : BitVec 16)
        let q := s.chiplet ch
        let next (f : Chiplet → Chiplet) : Prop := exec (.pageWalk k asid vpn) s = .next (s.updChiplet ch f)
        let run := q.walks.find? fun w => w.asid == asid && w.vpn == vpn
        let fails (c : Cause) (a : Nat) : Prop := ∃ t, exec (.pageWalk k asid vpn) s = .next t ∧ t.mem = s.mem
          ∧ (∀ m ∈ (t.cluster k).misses, m.served = false → ¬ (m.asid = asid ∧ m.vpn = vpn))
          ∧ ∀ m ∈ (s.cluster k).misses, m.served = false → m.asid = asid → m.vpn = vpn →
              { who := m.who, asid := asid, vpn := vpn, cause := c, addr := BitVec.ofNat 52 a } ∈ (t.cluster k).faults;
        ((asid, vpn) ∉ q.table → q.table.length < 256 → next fun q => { q with table := q.table ++ [(asid, vpn)] })
        ∧ ((asid, vpn) ∈ q.table → run = none → q.walks.length < 16 →
            ((asidEntry s asid).valid = false → fails .xlate (asidEntry s asid).root.toNat)
            ∧ ((asidEntry s asid).valid = true → next fun q => { q with walks := q.walks ++
                [{ asid := asid, vpn := vpn, level := (walkStart s ch asid va).1, table := (walkStart s ch asid va).2, seen := [] }] }))
        ∧ ∀ w, (asid, vpn) ∈ q.table → run = some w →
            (let a := w.table + 8 * levelIndex w.level va
              let p := pteOf (entryAt s.mem a);
              (badAt s ((List.range 8).map (a + ·)) = true → fails .xlateUe a)
              ∧ (badAt s ((List.range 8).map (a + ·)) = false →
                ((p.valid = false ∨ pteBad w.level p = true) → fails .xlate a)
                ∧ (p.valid = true → pteBad w.level p = false → p.leaf = false → next fun q => { q with
                    walks := q.walks.map fun x => if x = w then
                      { w with level := w.level + 1, table := (pteNext p).toNat, seen := w.seen ++ [(w.level, (pteNext p).toNat)] } else x })
                ∧ (p.valid = true → pteBad w.level p = false → p.leaf = true → ∃ t v, exec (.pageWalk k asid vpn) s = .next t
                  ∧ (v = p.raw ||| 0x10 ∨ v = (p.raw ||| 0x10) ||| 0x20) ∧ (v.getLsbD 5 = true → p.raw.getLsbD 5 = true ∨ p.raw.getLsbD 2 = true)
                  ∧ entryAt t.mem a = v ∧ (∀ b, b < a ∨ a + 8 ≤ b → memRead t.mem b = memRead s.mem b)
                  ∧ tlbOf asid va w.level v ∈ (t.chiplet ch).tlb ∧ tlbOf asid va w.level v ∈ (t.cluster k).tlb
                  ∧ (asid, vpn) ∉ (t.chiplet ch).table
                  ∧ ∀ m ∈ (t.cluster k).misses, m.asid = asid → m.vpn = vpn → m.served = true ∨ m.write = true)))))
    ∧ (∀ (asid : BitVec 16) (vpn : BitVec 32) (frame : BitVec 52) (x : Job) (l a : Nat) (p : Pte) (seen : List (Nat × Nat)),
        let q := tlbOf asid (vpn ++ (0 : BitVec 16)) l p.raw
        let w := (p.raw &&& 0xFFF000000000FFBF) ||| frame.setWidth 64 ||| 0x20
        (s.clusters.any fun y => y.2.misses.any fun m => m.asid == asid && m.vpn == vpn && m.write) = true → jobOfAsid s asid = some x →
        walkFrom s (vpn ++ (0 : BitVec 16)) 4 1 (asidEntry s asid).root.toNat [] = .leaf l a p seen → q.w = true → q.c = true →
        (asidEntry s asid).harvest = true → x.frames.contains frame = true → frameFree s x frame.toNat q.size = true → (a + 8 ≤ frame.toNat ∨ frame.toNat + q.size ≤ a) →
        ∃ t, exec (.copyOnWrite asid vpn frame) s = .next t ∧ (∀ i < q.size, memRead t.mem (frame.toNat + i) = memRead s.mem (q.frame.toNat + i))
          ∧ entryAt t.mem a = w
          ∧ (∀ b, (b < a ∨ a + 8 ≤ b) → (b < frame.toNat ∨ frame.toNat + q.size ≤ b) → memRead t.mem b = memRead s.mem b)
          ∧ (∀ k, ∀ u ∈ (t.cluster k).tlb, u.asid = asid → u.va.toNat + u.size ≤ q.va.toNat ∨ q.va.toNat + q.size ≤ u.va.toNat)
          ∧ ∀ y, t.job x.id = some y → frame ∉ y.frames)
    ∧ (∀ (k : ClusterId) (asid : BitVec 16) (line : BitVec 48) (pa : Nat), (asid, line, none) ∈ (s.cluster k).codeWaits →
        mayRetry s k .code asid (vpnOf line) = true → xlate s k .code asid line false true = .ok pa → ∃ t, exec (.codeCacheFill k asid line) s = .next t ∧ t.mem = s.mem ∧ t.cores = s.cores
          ∧ { asid := asid, va := line, bytes := BitVec.ofNat 512 (natOf (memBytes s.mem pa 64)), tag := badAt s ((List.range 64).map (pa + ·)) }
              ∈ (t.cluster k).code
          ∧ ∀ x ∈ (t.cluster k).codeWaits, ¬ (x.1 = asid ∧ x.2.1 = line))
    ∧ (∀ (c : CoreId) (i : BitVec 2) (a : Option (BitVec 16)) (v : Option (BitVec 48)) (b : Bool), (s.slot c i).st = .stalled (.tlbi a v b) →
        (s.slot c i).trailing = false → translatedOut s = false →
        ∃ t, exec (.tlbiComplete c i) s = .next t ∧ t.mem = s.mem ∧ (t.slot c i).st = .ready ∧ (t.slot c i).pc = (s.slot c i).pc + 4
          ∧ (∀ k, ∀ u ∈ (t.cluster k).tlb, u ∈ (s.cluster k).tlb ∧ tlbiHits a v u = false)
          ∧ (∀ k, ∀ u ∈ (t.chiplet k).tlb, u ∈ (s.chiplet k).tlb ∧ tlbiHits a v u = false)
          ∧ (a = none → ∀ k, ∀ d ∈ (t.cluster k).copies, d.faulted = false))
    ∧ (∀ (c : CoreId) (j : JobId) (i q : BitVec 2) (d : Dir), s.fw.requests.contains (c, j) = true → s.dir c j = some d → d.st = .evicted →
        (slotIds.find? fun n => ((s.core c).ctx n).isNone) = some i →
        ∃ t, exec (.residencyRequest c j q) s = .next t ∧ t.mem = s.mem ∧ t.ctxAt c i = some (restoringCtx s d)
          ∧ t.dir c j = some { d with st := .resident, slot := i, asked := false } ∧ t.fw.requests = s.fw.requests.erase (c, j))
    ∧ ∀ (c : CoreId) (i : BitVec 2) (x : Ctx), s.ctxAt c i = some x →
        (x.st = .saving → x.evicting = false → x.frozen = false → (∀ n, (s.slot c n).holds i = false) →
          ∃ t, exec (.evictionDrained c i) s = .next t ∧ t.mem = s.mem ∧ t.ctxAt c i = some { x with evicting := true }
            ∧ (∀ e ∈ (t.cluster (clusterOf c)).ectxs, e.core = c → e.ctx = i → e.st = .parking ∨ e.st = .parked)
            ∧ ∀ e ∈ (t.cluster (clusterOf c)).copies, e.core = c → e.ctx = i → e.parked = true)
        ∧ (∀ d, x.st = .saving → x.evicting = true → x.trailing = false → s.dir c x.job = some d →
            (∀ e ∈ (s.cluster (clusterOf c)).ectxs, e.core = c → e.ctx = i → e.st = .parked) →
            (∀ e ∈ (s.cluster (clusterOf c)).copies, e.core = c → e.ctx = i → e.busy = false) →
            ∃ t, exec (.evictionComplete c i) s = .next t ∧ t.ctxAt c i = none ∧ imageOf t d = x.imageBytes
              ∧ (∀ a, a < d.saveKey 0 ∨ d.saveKey 0 + 2048 ≤ a → memRead t.mem a = memRead s.mem a)
              ∧ t.dir c x.job = some { d with
                  st := .evicted
                  parked := (s.cluster (clusterOf c)).ectxs.filter fun e => e.core == c && e.ctx == i
                  copies := (s.cluster (clusterOf c)).copies.filter fun e => e.core == c && e.ctx == i })
        ∧ (∀ d, x.st = .restoring → x.trailing = false → s.dir c x.job = some d →
            (let k := Ctx.ofImage x (imageOf s d);
              (imageLost s d k = false → x.evictAsked = false → (frostState s x.job).1 = false →
                ∃ t, exec (.restoreComplete c i) s = .next t ∧ t.mem = s.mem ∧ t.ctxAt c i = some { k with st := .active, frozen := false, evicting := false }
                  ∧ t.dir c x.job = some { d with parked := [], copies := [] } ∧ (d.parked ≠ [] → (c, i) ∈ (t.cluster (clusterOf c)).wants)
                  ∧ (t.cluster (clusterOf c)).ectxs = (s.cluster (clusterOf c)).ectxs ++ (d.parked.map fun e =>
                      { e with ctx := i, st := .parked, forEviction := false, frozen := false, asleep := false })
                  ∧ (t.cluster (clusterOf c)).copies = (s.cluster (clusterOf c)).copies ++ d.copies.map fun e =>
                      { e with ctx := i, parked := false, faulted := false })
              ∧ (imageLost s d k = true → ∃ t, exec (.restoreComplete c i) s = .next t ∧ t.mem = s.mem ∧ t.ctxAt c i = none
                  ∧ t.dir c x.job = some { d with st := .lost })))

/-- FENNEL_ROW_REQUEST of the stream whose turn it is, its range in the part, sends reads of exactly the row's bytes
into their places of the tile, or (STRMS) writes of exactly the bytes of the pushed tile's row. STREAM_ROW_RETURN ends
the row: a write stream's tile leaves with its last row, a read stream's tile joins the queue with its last row,
holding the returned bytes; bad data make the stream FAULTED. WRITE_STREAM_COMPLETION unbinds a closed write stream
and sends its completion. DRAIN_ALLOWANCE_EXPIRY after 512 cycles, PARK_IMAGE_WRITTEN, PARK_IMAGE_READ and
FENNEL_SERVICE_GRANT change an engine context's state as R165 and R166 say. POST_ACCEPT moves a slot's oldest entry
into the island queue and takes over its B group with its tag (an ACCCFG to be performed empties the held B);
ISLAND_ENTRY_FIRE of a dense integer post adds the K products to every cell modulo 2^32, of an ACCRD returns its rows;
ACCCFG_ANSWER performs the change in order and answers the slot. Memory stays. (R157, R160, R163, R164, R165, R166,
R176, R177, R178, R229, R401, R403) -/
def Obligations.EnginesServeStreamsAndMatrices : Prop :=
  ∀ (s : State) (k : ClusterId),
    (∀ (uid : Nat) (e : Ectx) (r : Stream), findStream s k uid = some (e, r) →
      (let now (t : State) : Option Stream := (findStream t k uid).map (·.2)
        let n := r.nextRow
        let i := n % r.shape.vrows
        let tile := n / r.shape.vrows
        let out (t : State) (evs : List MemEv) : Prop := t.mem = s.mem ∧ t.memq = s.memq ++ evs
          ∧ (now t).map (fun x => (x.flying, x.nextRow)) = some (r.flying ++ [{ row := n, evs := evs.map (·.id), index := false }], n + 1);
        (∀ f, Stream.work s e r = some (.row n) → gated s k = false → fennelRoom s k = true → fennelTurn s k = some uid →
          (∀ m ∈ (s.cluster k).misses, m.who ≠ .stream uid) →
          engineAt s k (.stream uid) (((s.ctxAt e.core e.ctx).map (·.asid)).getD 0) r.base r.window (rowOffset r n) r.rowBytes r.isWrite = .keys f →
          (r.isWrite = false → ∃ t evs, exec (.fennelRowRequest k uid) s = .next t ∧ out t evs
            ∧ (∀ x ∈ evs, x.kind = .read ∧ x.owner = .stream k uid ∧ x.cls = r.cls ∧ x.scope = r.scope)
            ∧ (∀ key pos, (∃ x ∈ evs, ∃ d ∈ x.map, x.key + d.1 = key ∧ d.2 = pos)
                ↔ ∃ o < r.rowBytes, f o = key ∧ i * r.shape.cols * fmtSize r.shape.fmt + o = pos)
            ∧ (now t).map (·.filling) = some (if r.filling.any (fun q => q.t == tile) then r.filling
                else r.filling ++ [{ t := tile, tile := freshTile r tile, left := r.rowsIn tile }]))
          ∧ (∀ u l, r.kind = 2 → r.queue = u :: l → u.tag = false → ∃ t evs, exec (.fennelRowRequest k uid) s = .next t ∧ out t evs
            ∧ (∀ key x, (∃ v ∈ evs, ∃ bs, v.kind = .write bs ∧ ∃ d ∈ bs, v.key + d.1 = key ∧ d.2 = x)
                ↔ ∃ o < r.rowBytes, f o = key ∧ u.byte (i * u.cols * fmtSize r.shape.fmt + o) = x)))
        ∧ (∀ q, r.flying.find? (flyDone s) = some q → q.index = false → gated s k = false → (∀ x ∈ s.rems, q.evs.contains x.id = false) →
          (let mine := s.rets.filter fun x => q.evs.contains x.id
            let data := mine.flatMap (·.bytes)
            let tile := q.row / r.shape.vrows
            let last : Prop := q.row % r.shape.vrows + 1 = r.rowsIn tile
            (r.isWrite = true → ∃ t, exec (.streamRowReturn k uid) s = .next t ∧ t.mem = s.mem ∧ t.rets = (s.rets.filter fun x => !q.evs.contains x.id)
              ∧ (last → now t = some { r with flying := r.flying.filter fun x => x != q, queue := r.queue.drop 1,
                                              redo := if r.redo = some tile then none else r.redo })
              ∧ (¬ last → now t = some { r with flying := r.flying.filter fun x => x != q }))
            ∧ (∀ g, r.isWrite = false → r.filling = [g] → g.t = tile → (∀ x ∈ mine, x.tag = false) → (data.map (·.1)).Nodup → (∀ p ∈ data, p.1 < 64) →
                ∃ t w, exec (.streamRowReturn k uid) s = .next t ∧ t.mem = s.mem ∧ (∀ p ∈ data, w.byte p.1 = p.2)
                  ∧ now t = some { r with flying := r.flying.filter fun x => x != q
                                          filling := if g.left ≤ 1 then [] else [{ g with tile := w, left := g.left - 1 }]
                                          queue := if g.left ≤ 1 then r.queue ++ [w] else r.queue })
            ∧ (r.isWrite = false → (∃ x ∈ mine, x.tag = true) → r.st ≠ .closing → ∃ t, exec (.streamRowReturn k uid) s = .next t ∧ t.mem = s.mem
                ∧ (now t).map (fun x => (x.st, x.nextRow, x.queue)) = some (.faulted, Nat.min r.nextRow (tile * r.shape.vrows), r.queue))))
        ∧ (r.isWrite = true → r.st = .closing → r.flying = [] → r.queue = [] → e.frozen = false → gated s k = false →
            ∃ t, exec (.writeStreamCompletion k uid) s = .next t ∧ t.mem = s.mem ∧ findStream t k uid = none
              ∧ (r.fin.done = 1 → (routeOf r.fin.route).part ≠ s.part → ∃ g, Sent s t s.mesh.flights e.core g ∧ g.kind = 5 ∧ g.vnet = 1
                  ∧ g.aux = r.faultSub ∧ g.arg = r.fin.arg ∧ g.sel = (routeOf r.fin.route).sel ∧ g.dstCore = (routeOf r.fin.route).core ∧ g.job = e.job))))
    ∧ (∀ (c : CoreId) (i : BitVec 2) (e : Ectx), ectxOf s k c i = some e → gated s k = false →
        (let goes (a : Instr) (v : Ectx) : Prop := ∃ t, exec a s = .next t ∧ t.mem = s.mem ∧ ectxOf t k c i = some v;
          (∀ n, e.st = .draining n → e.asleep = false → n + 512 ≤ s.clk.cycle → goes (.drainAllowanceExpiry k c i) { e with st := .parking })
          ∧ (e.st = .parking → (∀ r ∈ e.streams, r.flying = [] ∧ Stream.work s e r = none) → goes (.parkImageWritten k c i) { e with st := .parked })
          ∧ (e.st = .restoring → goes (.parkImageRead k c i) { e with st := .resident, since := s.clk.cycle })
          ∧ (∀ l, (s.cluster k).wants = (c, i) :: l → e.st = .parked → ((s.cluster k).ectxs.filter Ectx.holds).length < 2 →
              ∃ v : EctxSt, (v = .resident ∨ v = .restoring) ∧ goes (.fennelServiceGrant k) { e with st := v, since := s.clk.cycle })
          ∧ (∀ w l, (s.cluster k).wants = w :: l → (ectxOf s k w.1 w.2).map (·.st) = some .parked → 2 ≤ ((s.cluster k).ectxs.filter Ectx.holds).length →
              (∀ x ∈ (s.cluster k).ectxs, x.st ≠ .parking ∧ ∀ n, x.st ≠ .draining n) → oldestResident (s.cluster k).ectxs = some e → e.core = c → e.ctx = i →
              e.since + 4096 ≤ s.clk.cycle → goes (.fennelServiceGrant k) { e with st := .draining s.clk.cycle })))
    ∧ (∀ (c : CoreId) (i : BitVec 2) (e : IslandEntry), clusterOf c = k → ((s.cluster k).heldPosts.find? fun e => e.core == c && e.slot == i) = some e →
        (∀ n ∈ e.evs, outstanding s n = false) → ((s.cluster k).island.filter IslandEntry.counts).length < 16 → frozenAt s c e.job = false →
        gated s k = false →
        (let x := (s.cluster k).acc e.acc
          let into (t : State) (v : IslandEntry) : Prop := t.mem = s.mem ∧ (t.cluster k).island = (s.cluster k).island ++ [v]
            ∧ (t.cluster k).heldPosts = ((s.cluster k).heldPosts.filter fun h => h.id != e.id);
          (e.op = .accz → ∃ t, exec (.postAccept c i) s = .next t ∧ into t { e with lost := !(x.owner == some e.job) } ∧ (t.cluster k).acc e.acc = x)
          ∧ (∀ a af maps b bf sp tr zf tag, e.op = .post a af maps (some (b, bf)) sp tr zf tag → x.owner = some e.job →
              ∃ t, exec (.postAccept c i) s = .next t ∧ into t { e with lost := false }
                ∧ (t.cluster k).acc e.acc = { x with heldB := some (b, bf, postK ((postClass af).getD 0) sp, tag) })
          ∧ (∀ v, e.op = .config v → v ≠ 2 → x.owner = none → ∃ t, exec (.postAccept c i) s = .next t ∧ into t { e with op := .answered false }
              ∧ (t.cluster k).acc e.acc = { owner := some e.job, fp32 := v == 1, cells := 0, tag := false, heldB := none })
          ∧ (∀ v, e.op = .config v → v ≠ 2 → x.owner = some e.job → ∃ t, exec (.postAccept c i) s = .next t ∧ into t e
              ∧ (t.cluster k).acc e.acc = { x with heldB := none })))
    ∧ (∀ (n : Nat) (e : IslandEntry), (s.cluster k).island[n]? = some e → islandFirst (s.cluster k) e = true → e.lost = false → gated s k = false →
        (let x := (s.cluster k).acc e.acc;
          x.owner = some e.job →
          (∀ a af maps b bf tr zf tag, e.op = .post a af maps (some (b, bf)) 0 tr zf tag → postClass af = some 0 → x.fp32 = false →
            ∃ t y, exec (.islandEntryFire k n) s = .next t ∧ t.mem = s.mem ∧ (t.cluster k).acc e.acc = y ∧ y.tag = (x.tag || tag) ∧ y.heldB = x.heldB
              ∧ y.owner = x.owner ∧ ∀ m j, m < 32 → j < 32 → BitVec.ofNat 32 (y.cell m j) = (if zf then 0 else BitVec.ofNat 32 (x.cell m j)) +
                  BitVec.ofInt 32 (((List.range (postK 0 0)).map fun q =>
                    intOf af (a.getD (if tr then 32 * q + m else postK 0 0 * m + q) 0) * intOf bf (b.getD (32 * q + j) 0)).sum))
          ∧ (∀ row half a w tag, e.op = .accrd row half a w tag → ∃ t, exec (.islandEntryFire k n) s = .next t ∧ t.mem = s.mem
              ∧ (t.cluster k).acc e.acc = x
              ∧ t.rets = s.rets ++ (List.range (w.toNat + 1)).map fun q =>
                  { id := e.id, owner := .slot e.core e.slot e.uid, dst := a + BitVec.ofNat 4 q, tag := tag || x.tag
                    bytes := ((List.range 16).flatMap fun j => bytesOf 4 (x.cell (row + q) ((if half then 16 else 0) + j))).zipIdx.map fun p => (p.2, p.1)
                    shape := some (if x.fp32 then .fp32 else .int32) })))
    ∧ ∀ (c : CoreId) (i : BitVec 2) (e : IslandEntry), clusterOf c = k →
        ((s.cluster k).island.find? fun e => e.core == c && e.slot == i && !e.counts) = some e → (s.slot c i).uid = e.uid →
        (s.slot c i).st = .stalled (.accCfg none) → gated s k = false →
        (∀ p, e.op = .answered p → ∃ t, exec (.acccfgAnswer c i) s = .next t ∧ t.mem = s.mem ∧ (t.slot c i).st = .stalled (.accCfg (some p))
          ∧ (t.cluster k).accs = (s.cluster k).accs)
        ∧ ∀ v, e.op = .config v → islandFirst (s.cluster k) e = true → ∃ t, exec (.acccfgAnswer c i) s = .next t ∧ t.mem = s.mem
            ∧ (t.slot c i).st = .stalled (.accCfg (some false))
            ∧ (t.cluster k).acc e.acc = if v = 2 then Acc.reset else
                { (s.cluster k).acc e.acc with fp32 := v == 1, cells := 0, tag := false }

/-- CLOCK_GATE gates the origin's cluster for 16 cycles (16,384 in debug mode) and freezes the job's cores in it;
CLOCK_GATE_END ends the gate. FROST_WAVE_ARRIVAL freezes a core's slots and shows the registers there.
FROST_WORD_RECEIVE takes a new count, adopts a word of higher rank with merged set, and discards a seen one.
RESUME_WORD_RECEIVE sets the instant and pending, late if it has passed; RESUME_INSTANT then makes every core go on
whose frozen-arrival buffer is empty. A Frost control command 4, or a relayed FROST, is a Frost of kind 4, command 5
one of kind 5 with its code. TRAILER_LAUNCH takes the trailer's free slot for the leader's record, and four cycles
later sets it up with it; SIGNATURE_COMPARE performs the leader's oldest effect on a match, and sets both slots back
to their checkpoint at the first mismatch. Memory stays. (R249, R250, R251, R252, R254, R259, R260, R277, R278, R280,
R415) -/
def Obligations.FrostAndPairEvents : Prop :=
  ∀ (s : State),
    (∀ (k : ClusterId) (a : Nat) (j : JobId), (s.cluster k).gateAt = some (a, j) → a ≤ s.clk.cycle → (s.job j).isSome = true →
      ∃ t, exec (.clockGate k) s = .next t ∧ t.mem = s.mem ∧ (t.cluster k).gateAt = none
        ∧ (t.cluster k).gate = some { endAt := s.clk.cycle + (if s.fw.debugMode then 16384 else 16), job := j }
        ∧ ∀ c x, clusterOf c = k → s.job j = some x → x.frost.waiting.contains c = true → ((s.core c).ctxOf j).isSome = true → frozenAt t c j = true)
    ∧ (∀ (k : ClusterId) (g : Gate), (s.cluster k).gate = some g → (s.fw.debugMode = false → g.endAt ≤ s.clk.cycle) →
        ∃ t, exec (.clockGateEnd k) s = .next t ∧ t.mem = s.mem ∧ t.cores = s.cores ∧ (t.cluster k).gate = none
          ∧ (s.fw.debugMode = false → (t.cluster k).capture = (s.cluster k).capture)
          ∧ (s.fw.debugMode = true → (t.cluster k).capture.map (fun x => (x.2.1, x.2.2.1)) = some (s.now, g.job)))
    ∧ (∀ (c : CoreId) (j : JobId) (x : Job) (i : BitVec 2), s.job j = some x → x.frost.waiting.contains c = true →
        (x.frost.origin.extractLsb' 48 16 = s.part → x.frost.detected + 12 ≤ s.clk.cycle) → (s.core c).ctxOf j = some i → frozenAt s c j = false →
        ∃ t, exec (.frostWaveArrival c j) s = .next t ∧ t.mem = s.mem ∧ frozenAt t c j = true
          ∧ (t.job j).map (·.frost.waiting) = some (x.frost.waiting.filter fun d => d != c)
          ∧ (t.ctxAt c i).map (fun k => (k.frostCause, k.frostOrigin, k.frostTime, k.frostSeq)) = some (x.frost.cause, x.frost.origin, x.frost.time, x.frost.seq)
          ∧ ∀ n, (s.slot c n).holds i = true → (t.slot c n).pc = (s.slot c n).pc ∧ (t.slot c n).tiles = (s.slot c n).tiles
            ∧ ((s.slot c n).st = .ready → (t.slot c n).st = .frozen none false)
            ∧ (∀ w, (s.slot c n).st = .stalled w → (t.slot c n).st = .frozen (some w) false)
            ∧ ((s.slot c n).st = .trapped → (t.slot c n).st = .trapped))
    ∧ (∀ (p : BitVec 4) (w : FrostWord) (x : Job),
        let q := seqWord w.count w.part w.core w.slot
        (s.lam.frostSeen.contains (w.job, q) = true → exec (.frostWordReceive p w) s = .next s)
        ∧ (s.lam.frostSeen.contains (w.job, q) = false → s.job w.job = some x →
          (countBelow w.count x.frost.count = false → w.count ≠ x.frost.count → ∃ t y, exec (.frostWordReceive p w) s = .next t ∧ t.mem = s.mem
            ∧ t.job w.job = some y ∧ y.frost.count = w.count ∧ y.frost.cause = causeWord w.kind w.code ∧ y.frost.origin = originWord w.part w.core w.slot
            ∧ y.frost.time = w.time ∧ y.frost.seq = q ∧ y.frost.active = true ∧ y.frost.resume = none)
          ∧ (w.count = x.frost.count → outranks w x.frost = true → ∃ t y, exec (.frostWordReceive p w) s = .next t ∧ t.mem = s.mem
            ∧ t.job w.job = some y ∧ y.frost.count = w.count ∧ y.frost.origin = originWord w.part w.core w.slot ∧ y.frost.time = w.time
            ∧ y.frost.seq = q ∧ y.frost.cause.getLsbD 4 = true ∧ y.frost.cause.extractLsb' 8 4 = w.kind ∧ y.frost.cause.extractLsb' 32 8 = w.code)
          ∧ ((countBelow w.count x.frost.count = true ∨ (w.count = x.frost.count ∧ outranks w x.frost = false)) →
              exec (.frostWordReceive p w) s = .next { s with lam := { s.lam with frostSeen := s.lam.frostSeen ++ [(w.job, q)] } })))
    ∧ (∀ (j : JobId) (x : Job), s.job j = some x →
        (∀ (p : BitVec 4) (v : Word64), x.frost.active = true → x.frost.resumed.contains x.frost.count = false → x.frost.resume = none →
          ∃ t y, exec (.resumeWordReceive p j x.frost.count v) s = .next t ∧ t.mem = s.mem ∧ t.job j = some y ∧ y.frost.resume = some v
            ∧ y.frost.active = true ∧ y.frost.cause = (if v.toNat < s.now.toNat then x.frost.cause ||| 8 else x.frost.cause) ||| 4)
        ∧ (∀ v, x.frost.resume = some v → v.toNat ≤ s.now.toNat → x.frost.active = true → x.frost.waiting = [] → x.frost.resuming = [] →
            (∀ d ∈ s.fw.dirs, d.fbuf = []) →
            ∃ t y, exec (.resumeInstant j) s = .next t ∧ t.mem = s.mem ∧ t.job j = some y ∧ y.frost.active = false ∧ y.frost.resume = none
              ∧ y.frost.resumed = x.frost.resumed ++ [x.frost.count] ∧ y.frost.resuming = [] ∧ ∀ c, frozenAt t c j = false)
        ∧ (x.region ≠ [] → x.frost.active = false → ∀ (c : CoreId) (i : BitVec 2) (code : BitVec 8),
            (∃ t, exec (.frostControlDebug j c i) s = .next t ∧ t.mem = s.mem ∧ FrostSet s t j 4 0 c i)
            ∧ (∃ t, exec (.frostControlQuiesce j code c i) s = .next t ∧ t.mem = s.mem ∧ FrostSet s t j 5 code c i)
            ∧ ∃ t, exec (.frostControlMessage (.frost j)) s = .next t ∧ t.mem = s.mem ∧ FrostSet s t j 4 0 0 0)
        ∧ exec (.frostControlMessage (.read j)) s = .next { s with fw := { s.fw with relays := s.fw.relays.erase (.read j) } })
    ∧ ∀ (c : CoreId) (i : BitVec 2) (p : Pair), s.pairs = [p] → p.core = c → p.slot = i →
        (∀ r n q k, s.launches = [r] → r.core = c → r.slot = i → r.uid = p.uid → (s.core p.tcore).ctxOf p.job = some q → s.ctxAt p.tcore q = some k →
          gated s (clusterOf p.tcore) = false →
          (r.into = none → slotIds.find? (slotFree s (s.core p.tcore)) = some n → (s.core p.tcore).dispatched ≤ s.clk.cycle →
            ∃ t, exec (.trailerLaunch c i) s = .next t ∧ t.mem = s.mem ∧ (t.slot p.tcore n).st = .launching s.clk.cycle ∧ (t.slot p.tcore n).ctx = q
              ∧ (t.slot p.tcore n).trailing = true ∧ t.launches = [{ r with into := some n }] ∧ (t.core p.tcore).dispatched = s.clk.cycle + 1)
          ∧ (∀ m, r.into = some n → (s.slot p.tcore n).st = .launching m → m + 4 ≤ s.clk.cycle →
            ∃ t y, exec (.trailerLaunch c i) s = .next t ∧ t.mem = s.mem ∧ t.slot p.tcore n = y ∧ y.trailing = true ∧ y.ctx = q ∧ y.pc = r.launch.code
              ∧ y.tiles = r.tiles ∧ y.lfsr = r.lfsr ∧ y.msginfo = r.info ∧ y.st = (if k.frozen then .frozen none false else .ready)
              ∧ t.launches = [] ∧ t.pairs = [{ p with tslot := some n, snapT := y }]))
        ∧ ∀ n sig u e m l us, p.tslot = some n → p.buf = (sig, e, m) :: l → p.sigs = u :: us → (∀ a r w, e ≠ .ue a r w) →
            (p.state ≠ 2 → p.replaySigs = [] → sig = u → exec (.signatureCompare c i) s = .next (performEff { s with
              pairs := [{ p with buf := l, sigs := us, logSigs := p.logSigs ++ [sig], lastSig := sig }] } c i m e))
            ∧ (p.state = 0 → sig ≠ u → returnsDue s (.slot c i p.uid) = false → (p.tcore, n) ≠ (c, i) →
                ∃ t, exec (.signatureCompare c i) s = .next t ∧ t.mem = s.mem ∧ t.pairs.map (fun q => (q.state, q.buf, q.sigs)) = [(1, [], [])]
                  ∧ (t.slot c i).pc = p.snapL.pc ∧ (t.slot c i).tiles = p.snapL.tiles ∧ (t.slot c i).masks = p.snapL.masks
                  ∧ (t.slot p.tcore n).pc = p.snapT.pc ∧ (t.slot p.tcore n).tiles = p.snapT.tiles)

/-- LAMCON_PACKET_SEND at its gateway puts a message for another part into the next packet (R39, R46), and a built-in
request for the own part among those accepted. LAMCON_PACKET_RECEIVE of an intact packet in link order acknowledges
it, accepts its path_seq once and puts its message on the mesh, or forwards it with one hop more; one that fails its
check only notes a tag failure. LINK_ACKNOWLEDGEMENT and END_TO_END_ACKNOWLEDGEMENT free packets, HELD_PACKET_RELEASE
ends a hold, LINK_REPLAY sends the retry buffer again, LINK_RETRAIN and RETRAIN_END take the link through state 3,
PORT_SET_CHANGE sets the ports of a part, LINK_BRING_UP begins training. REMOTE_LOAD puts read events for the bytes at
its address, REMOTE_STORE write events of its payload, REMOTE_ATOMIC its operation on one element; once they are
performed the request is answered, with the bytes that came back. (R32, R33, R35, R36, R39, R40, R41, R46, R47, R48,
R53, R264) -/
def Obligations.LamconCarriesPackets : Prop :=
  ∀ (s : State),
    (∀ (id : Nat) (f : Flight) (g : Nat), flightOf s id = some f → f.host = false → forGateway s f.msg = true → gatewayOf s f.msg = some g →
      f.x = meshX (Config.gatewayCore g) → f.y = meshY (Config.gatewayCore g) → Msg.headerOk f.msg = true → Msg.netOk f.msg = true → Msg.residueOk f.msg = true →
      blockedBy s f none = false →
      (f.msg.dstPart = s.part → exec (.lamconPacketSend id) s = .next { dropFlight s id with
          nextId := s.nextId + 1
          lam := { s.lam with requests := s.lam.requests ++
            [{ msg := { f.msg with dstCore := Config.gatewayCore g }, id := s.nextId, begun := false, evs := [] }] } })
      ∧ (∀ o x, outAt s (BitVec.ofNat 6 g) f.msg.dstPart = o → f.msg.dstPart ≠ s.part → o.waiting = [] → o.unacked.length < 256 →
          (∀ q ∈ s.lam.outs, q.part = f.msg.dstPart → q.held = false) → o.held = false → portAt s (g / 4) = x → x.st = 2 → x.queue = [] →
          x.credit (channelOf s f.msg) = true →
          ∃ t k, exec (.lamconPacketSend id) s = .next t ∧ t.mem = s.mem ∧ t.mesh.flights = s.without id ∧ t.lam.sent = s.lam.sent ++ [(BitVec.ofNat 4 (g / 4), k)]
            ∧ k = packetOf x (BitVec.ofNat 4 (g / 4)) o.next (BitVec.ofNat 8 g) 1 (channelOf s f.msg) f.msg
            ∧ (Packet.head k).pathSeq = o.next ∧ (Packet.head k).linkSeq = x.sendSeq ∧ (Packet.head k).hops = 1 ∧ (Packet.head k).srcGw = BitVec.ofNat 8 g
            ∧ (Packet.head k).vc = channelOf s f.msg ∧ (Packet.head k).mode = modeOf x (channelOf s f.msg)
            ∧ (portAt t (g / 4)).retry = x.retry ++ [k] ∧ (portAt t (g / 4)).sendSeq = x.sendSeq + 1
            ∧ (outAt t (BitVec.ofNat 6 g) f.msg.dstPart).next = o.next + 1
            ∧ (outAt t (BitVec.ofNat 6 g) f.msg.dstPart).unacked.map (fun u => (u.1, u.2.2)) = o.unacked.map (fun u => (u.1, u.2.2)) ++ [(o.next, f.msg)]))
    ∧ (∀ (port : BitVec 4) (p : Packet),
        let n := port.toNat
        let x := portAt s n
        let h := Packet.head p
        let s1 := updPort s n fun x => { x with captured := fit 16 p.bytes }
        let d := (h.linkSeq - x.recvSeq).toNat
        x.st = 2 → h.mode ≠ 3 → h.mode = modeOf x h.vc →
        (Packet.intact p x = false → (h.mode = 0 ∨ d < 2048) →
          exec (.lamconPacketReceive port p) s = .next (updPort s1 n fun x => { x with tagFail := x.tagFail || h.mode != 0 }))
        ∧ (∀ m, Packet.intact p x = true → (h.mode = 0 ∨ h.epoch = x.recvEpoch) → Packet.message p x = some m →
          (2048 ≤ d → exec (.lamconPacketReceive port p) s = .next (ackLink s1 port h.linkSeq))
          ∧ (d = 0 →
            (let taken (t : State) : Prop := t.mem = s.mem ∧ (portAt t n).recvSeq = h.linkSeq + 1 ∧ t.lam.acks = s.lam.acks ++ [(port, h.linkSeq)]
              let o := inAt s m.srcPart h.srcGw
              let acked (t : State) : Prop := t.lam.ends = s.lam.ends ++ [(m.srcPart, h.srcGw, h.pathSeq)];
              (m.dstPart = s.part → (h.pathSeq - o.base).toNat < 256 →
                (o.accepted.contains h.pathSeq = true → ∃ t, exec (.lamconPacketReceive port p) s = .next t ∧ taken t ∧ t.mesh = s.mesh ∧ acked t)
                ∧ (o.accepted.contains h.pathSeq = false → m.kind.toNat ∈ [3, 4, 6, 7, 9, 10] → Msg.headerOk m = true → Msg.netOk m = true →
                    Msg.residueOk m = true →
                    ∃ t, exec (.lamconPacketReceive port p) s = .next t ∧ taken t ∧ acked t ∧ Sent s t s.mesh.flights (portGateway n m) m
                      ∧ (h.pathSeq ∈ (inAt t m.srcPart h.srcGw).accepted ∨ (inAt t m.srcPart h.srcGw).base ≠ o.base)))
              ∧ (∀ g, m.dstPart ≠ s.part → h.hops.toNat < 12 → gatewayOf s m = some g → (portAt s (g / 4)).st = 2 → (portAt s (g / 4)).queue = [] →
                  (portAt s (g / 4)).credit h.vc = true →
                  ∃ t k, exec (.lamconPacketReceive port p) s = .next t ∧ taken t ∧ t.lam.sent = s.lam.sent ++ [(BitVec.ofNat 4 (g / 4), k)]
                    ∧ (Packet.head k).hops = h.hops + 1 ∧ (Packet.head k).pathSeq = h.pathSeq ∧ (Packet.head k).srcGw = h.srcGw
                    ∧ (Packet.head k).vc = h.vc ∧ (Packet.head k).linkSeq = (portAt s (g / 4)).sendSeq ∧ t.mesh = s.mesh)))))
    ∧ (∀ (port : BitVec 4),
        let x := portAt s port.toNat
        let goes (i : Instr) (f : Port → Port) : Prop := ∃ t, exec i s = .next t ∧ t.mem = s.mem ∧ portAt t port.toNat = f x
        (∀ q i, (x.retry.findIdx? fun k => (Packet.head k).linkSeq == q) = some i → x.queue = [] → goes (.linkAcknowledgement port q) fun x => { x with retry := x.retry.drop (i + 1), replayed := 0 })
        ∧ (x.st = 2 → x.retry ≠ [] → x.replayed < 8 → ∃ t, exec (.linkReplay port) s = .next t ∧ t.mem = s.mem
            ∧ t.lam.sent = s.lam.sent ++ x.retry.map (fun k => (port, k)) ∧ portAt t port.toNat = { x with replays := x.replays + 1, replayed := x.replayed + 1 })
        ∧ (∀ b, x.st = 2 → (b = true ∨ 8 ≤ x.replayed) → goes (.linkRetrain port b) fun x => { x with st := 3, retrains := x.retrains + 1 })
        ∧ (∀ (lanes : BitVec 4) (b : Bool), x.st = 3 →
            (6 ≤ lanes.toNat → lanes.toNat ≤ 8 → ∃ t l, exec (.retrainEnd port true lanes b) s = .next t ∧ t.mem = s.mem ∧ (portAt t port.toNat).st = 2
              ∧ (portAt t port.toNat).lanes = lanes ∧ t.lam.sent = s.lam.sent ++ x.retry.map (fun k => (port, k)) ++ l)
            ∧ (x.failed < 2 → lanes.toNat ≤ 8 → goes (.retrainEnd port false lanes b) fun x => { x with
                failed := x.failed + 1, retrains := x.retrains + 1, tagFail := x.tagFail || b })
            ∧ (2 ≤ x.failed → lanes.toNat ≤ 8 → ∃ t, exec (.retrainEnd port false lanes b) s = .next t ∧ t.mem = s.mem ∧ (portAt t port.toNat).st = 0))
        ∧ (∀ (part : PartId) (far : Bool) (pp lanes : BitVec 4) (v : Word64), port.toNat < 12 → x.st = 0 → s.rot.domain ≠ [] → 6 ≤ lanes.toNat →
            lanes.toNat ≤ 8 → part ≠ s.part → ∃ t, exec (.linkBringUp port part pp lanes far v) s = .next t ∧ t.mem = s.mem ∧ (portAt t port.toNat).st = 1
              ∧ (portAt t port.toNat).partner = part ∧ (portAt t port.toNat).partnerPort = pp ∧ (portAt t port.toNat).lanes = lanes
              ∧ (portAt t port.toNat).keWait = true ∧ (portAt t port.toNat).self = s.part ∧ (portAt t port.toNat).table = s.rot.domain))
    ∧ (∀ (gw : BitVec 6) (part : PartId) (q : BitVec 32),
        let o := outAt s gw part
        ((o.unacked.any fun u => u.1 == q) = true → o.waiting = [] → ∃ t, exec (.endToEndAcknowledgement gw part q) s = .next t ∧ t.mem = s.mem
          ∧ outAt t gw part = { o with unacked := o.unacked.filter fun u => u.1 != q })
        ∧ (o.held = true → o.unacked = [] → ∃ t, exec (.heldPacketRelease gw part) s = .next t ∧ t.mem = s.mem ∧ (outAt t gw part).held = false)
        ∧ ∀ set, part ≠ s.part → ∃ t, exec (.portSetChange part set) s = .next t ∧ t.mem = s.mem ∧ (t.lam.sets.look part.toNat).getD 0 = set)
    ∧ ∀ (n : Nat) (q : Request) (f : Nat → Nat) (u : State), s.lam.requests[n]? = some q → firstOfLine s n q.msg = true →
        (let m := q.msg
          let begun (i : Instr) (len : Nat) (does : MemEv → Nat → Nat → Prop) : Prop := ∃ t l, exec i s = .next t ∧ t.mem = u.mem
            ∧ t.lam.requests = (s.lam.requests.map fun x => if x.id = q.id then { x with begun := true, evs := l } else x)
            ∧ ∀ o < len, ∃ e ∈ t.memq, e.id ∈ l ∧ e.owner = .gate q.id ∧ ∃ b, e.key + b = f (m.arg.toNat + o) ∧ does e b o
          let answered (t : State) (data : List Byte) : Prop := t.mem = s.mem ∧ t.lam.requests = s.lam.requests.eraseIdx n
            ∧ ∃ e, t.mesh.flights = s.mesh.flights ++ [e] ∧ e.msg.kind = 11 ∧ e.msg.vnet = 1 ∧ e.msg.aux = 0 ∧ e.msg.etag = false
              ∧ e.msg.seq = m.seq ∧ e.msg.dstCore = m.srcCore ∧ e.msg.dstPart = s.part ∧ e.msg.payload = data
          let returned (i : Instr) (len : Nat) : Prop := (∀ r ∈ s.rets, r.id ∈ q.evs → r.tag = false) →
            ∃ t data, exec i s = .next t ∧ answered t data ∧ data.length = len
              ∧ ∀ r ∈ s.rets, r.id ∈ q.evs → ∀ p ∈ r.bytes, (∀ r' ∈ s.rets, r'.id ∈ q.evs → ∀ p' ∈ r'.bytes, p'.1 = p.1 → p' = p) →
                  p.1 < len → data[p.1]? = some p.2;
          (q.begun = false → hasRegion s m.job = true →
            (∀ len, remoteLen m = some len →
              (m.sel = 1 → remoteAt s m len 16 false = .keys f u → begun (.remoteLoad n) len fun e b o => e.kind = .read ∧ (b, o) ∈ e.map)
              ∧ (m.sel = 2 → m.etag = false → m.payload.length = len → (m.srcPart ≠ s.part ∨ requestOf s m.srcCore m = none) →
                  remoteAt s m len 16 true = .keys f u → begun (.remoteStore n) len fun e b o => ∃ bs, e.kind = .write bs ∧ (b, m.payload.getD o 0) ∈ bs))
            ∧ (m.sel = 3 → m.aux.toNat ≤ 10 → (m.pfmt = 7 ∨ m.pfmt = 6) → m.args.length = (if m.aux = 9 then 2 else 1) →
                remoteAt s m 8 8 true = .keys f u → begun (.remoteAtomic n) 1 fun e b _ => e.kind = .atom b {
                  fn := m.aux.setWidth 5, size := 64, signed := m.pfmt == 6, v := (m.args.getLastD 0).toNat, a := (m.args.headD 0).toNat, wants := true,
                  ord := false, tag := m.etag }))
          ∧ (q.begun = true → (∀ i ∈ q.evs, outstanding s i = false) → m.srcPart = s.part →
            (∀ len, m.sel = 1 → remoteLen m = some len → returned (.remoteLoad n) len)
            ∧ (m.sel = 2 → ∃ t, exec (.remoteStore n) s = .next t ∧ answered t [])
            ∧ (m.sel = 3 → returned (.remoteAtomic n) 16)))

/-- On a port of the twelve: when no answer came for 10 ms, key establishment begins again, three times, and then the
port goes down with sec_event. KE1 at the higher part number, read from its flits, from the partner under a key of the
domain table, with a good signature and a round that is not old, is answered with KE2, and the keys of the
encapsulated secret are loaded: those of epoch 0 with the link up at bring-up, those of the other epoch later, with
packet counts of 0. KE2 at the waiting lower part number loads the keys of the decapsulated secret. A failed check is
a failed try. A switch of epoch goes to the loaded keys, or begins key establishment. Every 4 µs a link that is up
sends Thyme. The first word from the reference's side sets Thyme; a later one puts a part that is behind to its value,
and makes one that is ahead hold back the difference. What a signature's check answers is a free value (log 7). (R44,
R45, R48, R52) -/
def Obligations.KeysEpochsAndThyme : Prop :=
  ∀ (s : State) (port : BitVec 4) (wire : List Byte), port.toNat < 12 →
    (let x := portAt s port.toNat
      let got (second : Bool) : Option KeyMsg := (keOpen x (keLen second) wire).bind (keRead second)
      (x.keWait = true → x.keSince + 10000000 ≤ s.now.toNat →
        ∃ t, exec (.keyEstablishmentTimeout port) s = .next t ∧ t.mem = s.mem ∧ KeysFailed s t port)
      ∧ (x.st ≠ 0 → x.partner.toNat ≤ x.self.toNat → ∃ t, exec (.ke1 port wire) s = .next t ∧ t.mem = s.mem
          ∧ (got false = none → KeysFailed s t port)
          ∧ ∀ m, got false = some m →
            (let d := ke1Digest m.part m.round m.kem m.key;
              if keySender x m = true ∧ Config.mlDsaVerify m.key d m.signature = true ∧ x.round.toNat ≤ m.round.toNat then
                (let c := encapsulate m.kem s.freeCnt;
                  KeysLoaded s t port c.2 m.round ∧ ∃ (k : KeyMsg) (out : List Byte), t.lam.keOut = s.lam.keOut ++ [(port, out)] ∧ k.part = x.self
                    ∧ k.round = m.round ∧ k.kem = c.1 ∧ k.key = identity ∧ k.signature = signBy (ke2Digest x.self m.round c.1 identity d)
                    ∧ (kePlain x = true → out = padTo 64 (KeyMsg.bytes true k)))
              else KeysFailed s t port))
      ∧ (x.st ≠ 0 → x.keWait = true → x.self.toNat < x.partner.toNat → ∃ t, exec (.ke2 port wire) s = .next t ∧ t.mem = s.mem
          ∧ (got true = none → KeysFailed s t port)
          ∧ ∀ m, got true = some m →
            (if keySender x m = true ∧ Config.mlDsaVerify m.key (ke2Digest m.part m.round m.kem m.key x.keDigest) m.signature = true ∧ m.round = x.round then
              KeysLoaded s t port (decapsulate x.keKem m.kem) m.round ∧ t.lam.keOut = s.lam.keOut
            else KeysFailed s t port))
      ∧ (x.st = 2 → x.loaded = true → exec (.epochSwitch port) s = .next (updPort s port.toNat fun y => { y with epoch := ~~~y.epoch, loaded := false }))
      ∧ (x.st = 2 → x.loaded = false → x.keWait = false → ∃ t, exec (.epochSwitch port) s = .next t ∧ t.mem = s.mem ∧ KeysBegun s t port)
      ∧ (x.st = 2 → x.lastThyme + 4000 ≤ s.now.toNat → ∃ t, exec (.thymeExchange port) s = .next t ∧ t.mem = s.mem
          ∧ t.lam.thymeOut = s.lam.thymeOut ++ [(port, s.now)] ∧ portAt t port.toNat = { x with lastThyme := s.now.toNat })
      ∧ (∀ (value : Word64) (delay : Nat), x.st = 2 → s.lam.reference = false → leadsToReference s port.toNat = true →
          (s.lam.adopted = true → exec (.thymeWordReceive port value delay) s = .next { s with clk := if s.now.toNat < value.toNat + delay
            then { s.clk with thyme := BitVec.ofNat 64 (value.toNat + delay), hold := 0 }
            else { s.clk with hold := s.now.toNat - (value.toNat + delay) } })
          ∧ (s.lam.adopted = false → exec (.thymeWordReceive port value delay) s = .next { s with
              clk := { s.clk with thyme := BitVec.ofNat 64 (value.toNat + delay), hold := 0 }, lam := { s.lam with adopted := true } })))

/-- A connection request takes a free queue pair and is answered REP, or REJ when none is free; RTU makes it ready, a
REJ in its place frees it; DREQ frees it, with DREP, once no request goes on. A request outside the subset of R55 or a
seventeenth READ is answered with a NAK, an ECN mark with a CNP. A port answers ARP, neighbour discovery and echo for
its own addresses, and takes addresses from DHCP; a CNP throttles its queue pair; a discarded frame is counted. An
RDMA write issues events that write exactly its bytes where the rkey's range maps them, or writes them into a window's
range; a read issues reads and answers the bytes that return, or a NAK where they are bad; an access outside every
range is answered with a NAK and the error state. A session opens a management window under the key of the agreed
secret. An image block lands in the bytes of the slot that is not active; the image's end makes a good image pending,
or starts it in recovery, and answers 2 for a bad one. Attestation answers the signed report. The block looks at a
window's next slot: a wrong mac is status 4, another number is ignored, a bad record status 2, the wrong job status 4,
and a good one of a job on this part becomes a message to the core of its rank. A mailbox record goes to its slot with
its phase word, and then the header. The queue pair, window and rkey are the choice of the operation (log 16). The
answers of the cryptographic checks are free values (log 7). (R28, R54, R55, R56, R57, R59, R60, R61, R62, R63, R65,
R66) -/
def Obligations.TheEthernetBlockServesItsPeers : Prop :=
  ∀ (s : State) (port : BitVec 2) (qp : BitVec 12),
    (let outs (t : State) (l : List EthOut) : Prop := t.eth.out = s.eth.out ++ l ∧ t.mem = s.mem ∧ t.cores = s.cores ∧ t.mesh = s.mesh
      let ready (h : ReqHead) : Prop := (qpAt s qp).st = .ready ∧ portWorks s (qpAt s qp).port = true ∧ (qpAt s qp).held = [] ∧ (qpAt s qp).evs = []
        ∧ h.form = .inside ∧ h.ecn = false ∧ h.behind < 16
      let nakked (t : State) (l : List EthOut) (b : Bool) : Prop := outs t (l ++ [.nak qp b])
        ∧ qpAt t qp = { qpAt s qp with st := .error, held := [], evs := [] }
      (∀ (peer mtu : Nat), portWorks s port = true →
          (let m := Nat.min mtu 4096
            let rej : Prop := ∃ t, exec (.cmReq port peer mtu qp) s = .next t ∧ outs t [.cm port "REJ" 0 0 0] ∧ t.eth.qps = s.eth.qps;
            (qpFree s qp = true → (m = 1024 ∨ m = 2048 ∨ m = 4096) →
              ∃ t psn, exec (.cmReq port peer mtu qp) s = .next t ∧ outs t [.cm port "REP" qp m psn]
                ∧ qpAt t qp = { st := .wait, mtu := m, port := port, psn := psn, held := [], evs := [], leaving := false } ∧ ∀ q, q ≠ qp → qpAt t q = qpAt s q)
            ∧ (¬ (m = 1024 ∨ m = 2048 ∨ m = 4096) → rej) ∧ ((∀ q, qpFree s q = false) → rej)))
      ∧ ((qpAt s qp).st = .wait → (∃ t, exec (.cmRtu ⟨qp, false⟩) s = .next t ∧ outs t [] ∧ qpAt t qp = { qpAt s qp with st := .ready } ∧ ∀ q, q ≠ qp → qpAt t q = qpAt s q)
          ∧ ∃ t, exec (.cmRtu ⟨qp, true⟩) s = .next t ∧ outs t [] ∧ (qpAt t qp).st = .free ∧ ∀ q, q ≠ qp → qpAt t q = qpAt s q)
      ∧ ((qpAt s qp).st ≠ .free → ((qpAt s qp).held = [] → ∃ t, exec (.cmDreq qp) s = .next t ∧ outs t [.cm (qpAt s qp).port "DREP" qp 0 0]
            ∧ (qpAt t qp).st = .free ∧ qp ∉ t.eth.throttled)
          ∧ ((qpAt s qp).held ≠ [] → ∃ t, exec (.cmDreq qp) s = .next t ∧ outs t [] ∧ qpAt t qp = { qpAt s qp with leaving := true }))
      ∧ (∀ (i : Instr) (h : ReqHead) (code : BitVec 32) (rkey mbRkey : BitVec 32) (va : BitVec 48) (data : List Byte) (len : Nat) (mbAddr : Word64) (slots : BitVec 32)
          (win : BitVec 12),
          i = .rdmaWrite ⟨qp, h⟩ rkey va data ∨ i = .rdmaRead ⟨qp, h⟩ rkey va len ∨ i = .attestation ⟨qp, h⟩ ⟨code, data⟩ ∨ i = .session ⟨qp, h⟩ data mbRkey mbAddr slots win rkey
            ∨ i = .imageBlock ⟨qp, h⟩ code data ∨ i = .imageEnd qp h →
          qpReady s qp = true → (qpAt s qp).held.head? ≠ some i → (h.form ≠ .inside ∨ 16 ≤ h.behind) →
          ∃ t, exec i s = .next t ∧ nakked t (if h.ecn then [.cnp qp] else []) false)
      ∧ (portWorks s port = true → s.rot.phase ≠ .recovery →
          (∀ ip : BitVec 32, ip.setWidth 128 ∈ ownAddrs s port → ∃ t, exec (.arpRequest port ip) s = .next t
            ∧ outs t [.addr port "ARP" (bigBytes 6 (macOf s port).toNat)])
          ∧ (∀ ip ∈ ownAddrs s port, (∃ t, exec (.neighbourDiscovery port ip) s = .next t ∧ outs t [.addr port "ND" (bigBytes 6 (macOf s port).toNat)])
            ∧ ∀ data, ∃ t, exec (.icmpEcho port ip data) s = .next t ∧ outs t [.addr port "ECHO" data])
          ∧ ∀ ip, ip ∉ (s.eth.addrs.look port.toNat).getD [] → ∃ t, exec (.dhcpAddress port ip) s = .next t ∧ outs t [] ∧ ip ∈ ownAddrs t port)
      ∧ (∃ t, exec (.cnpReceive qp) s = .next t ∧ outs t [] ∧ qp ∈ t.eth.throttled)
      ∧ (∃ t, exec (.discardedFrame port) s = .next t ∧ outs t []
          ∧ (t.eth.discarded.look port.toNat).getD 0 = (s.eth.discarded.look port.toNat).getD 0 + 1)
      ∧ (∀ (h : ReqHead) (rkey : BitVec 32) (va : BitVec 48), s.rot.phase ≠ .recovery →
          (∀ (data : List Byte), data.length ≤ 2 ^ 31 →
            (let i : Instr := .rdmaWrite ⟨qp, h⟩ rkey va data
              let q := qpAt s qp;
              (ready h → rkeyAt s rkey va.toNat data.length = .none → ∃ t, exec i s = .next t ∧ nakked t [] true)
              ∧ (∀ n w, ready h → rkeyAt s rkey va.toNat data.length = .window n w → ∃ t, exec i s = .next t ∧ outs t []
                  ∧ windowAt t n = (windowAt s n).map fun w => w.write va.toNat data)
              ∧ (∀ j asid, ready h → rkeyAt s rkey va.toNat data.length = .job j asid →
                  (∀ f, reachCopy (pagesOf va.toNat data.length).length s asid va.toNat data.length = .fault f → ∃ t, exec i s = .next t ∧ nakked t [] true)
                  ∧ (∀ k, reachCopy (pagesOf va.toNat data.length).length s asid va.toNat data.length = .wait k →
                      ∃ t, exec i s = .next t ∧ outs t [] ∧ qpAt t qp = { q with held := [i] })
                  ∧ ∀ f u, data ≠ [] → reachCopy (pagesOf va.toNat data.length).length s asid va.toNat data.length = .keys f u →
                      ∃ t evs, exec i s = .next t ∧ t.mem = u.mem ∧ t.memq = u.memq ++ evs ∧ qpAt t qp = { q with evs := evs.map (·.id), held := [i] }
                        ∧ (∀ x ∈ evs, x.owner = .rdma qp.toNat ∧ x.after = [])
                        ∧ ∀ key b, (∃ x ∈ evs, ∃ bs, x.kind = .write bs ∧ ∃ d ∈ bs, x.key + d.1 = key ∧ d.2 = b)
                            ↔ ∃ o < data.length, f (va.toNat + o) = key ∧ data.getD o 0 = b)
              ∧ (qpReady s qp = true → q.held.head? = some i → q.evs ≠ [] → q.leaving = false → (∀ n ∈ q.evs, outstanding s n = false) →
                  ∃ t, exec i s = .next t ∧ outs t [] ∧ qpAt t qp = { q with held := q.held.tail, evs := [] })))
          ∧ ∀ len, len ≤ 2 ^ 31 →
            (let i : Instr := .rdmaRead ⟨qp, h⟩ rkey va len
              let q := qpAt s qp;
              (ready h → rkeyAt s rkey va.toNat len = .none → ∃ t, exec i s = .next t ∧ nakked t [] true)
              ∧ (∀ n w, ready h → rkeyAt s rkey va.toNat len = .window n w → ∃ t l, exec i s = .next t ∧ outs t [.readData qp l] ∧ l.length = len
                  ∧ ∀ o < len, va.toNat + o < ringBytes → l.getD o 0 = (w.ring.look (va.toNat + o)).getD 0)
              ∧ (∀ j asid f u, ready h → 0 < len → rkeyAt s rkey va.toNat len = .job j asid → reach s asid va.toNat len false = .keys f u →
                  ∃ t evs, exec i s = .next t ∧ t.mem = u.mem ∧ t.memq = u.memq ++ evs ∧ qpAt t qp = { q with evs := evs.map (·.id), held := [i] }
                    ∧ (∀ x ∈ evs, x.owner = .rdma qp.toNat ∧ x.kind = .read)
                    ∧ ∀ key pos, (∃ x ∈ evs, ∃ d ∈ x.map, x.key + d.1 = key ∧ d.2 = pos) ↔ ∃ o < len, f (va.toNat + o) = key ∧ o = pos)
              ∧ (qpReady s qp = true → q.held.head? = some i → q.evs ≠ [] → q.leaving = false → (∀ n ∈ q.evs, outstanding s n = false) →
                  (let mine := s.rets.filter fun x => q.evs.contains x.id
                    let back := mine.flatMap (·.bytes);
                    ((∃ x ∈ mine, x.tag = true ∧ x.bytes ≠ []) → ∃ t, exec i s = .next t ∧ outs t [.nak qp true] ∧ (qpAt t qp).st = .error)
                    ∧ ((∀ x ∈ mine, x.tag = false) → (back.map (·.1)).Nodup → ∃ t l, exec i s = .next t ∧ outs t [.readData qp l] ∧ l.length = len
                        ∧ (∀ p ∈ back, p.1 < len → l.getD p.1 0 = p.2) ∧ qpAt t qp = { q with held := q.held.tail, evs := [] })))))
      ∧ (∀ h : ReqHead, ready h →
          (let n := uploadSlot s
            let bytes := (s.rot.image n).2
            let signed := Config.imageSigned bytes;
          (∀ (off : BitVec 32) (data : List Byte), data.length ≤ 4000 → ∃ t, exec (.imageBlock ⟨qp, h⟩ off data) s = .next t
            ∧ outs t [.answer qp (bytesOf 4 0)] ∧ t.rot.image (~~~n) = s.rot.image (~~~n) ∧ (t.rot.image n).1 = (s.rot.image n).1
            ∧ (∀ o < data.length, (t.rot.image n).2.look (off.toNat + o) = data[o]?)
            ∧ ∀ k, (k < off.toNat ∨ off.toNat + data.length ≤ k) → (t.rot.image n).2.look k = bytes.look k)
          ∧ (∃ t, exec (.imageEnd qp h) s = .next t ∧ t.mem = s.mem ∧ (t.rot.image n).2 = bytes
              ∧ (if imagePasses s bytes = true then outs t [.answer qp (bytesOf 4 0)] ∧ (if s.rot.phase = .recovery then
                    (t.rot.image n).1 = .active ∧ t.rot.measure = shake256 signed 64 ∧ t.rot.version = Config.imageVersion signed
                      ∧ t.rot.phase = (if s.rot.transport then .testing else .service)
                  else (t.rot.image n).1 = .pending ∧ t.rot.phase = s.rot.phase ∧ t.rot.version = s.rot.version)
                else outs t [.answer qp (bytesOf 4 2)] ∧ (t.rot.image n).1 = .spare ∧ t.rot.phase = s.rot.phase))))
      ∧ (∀ h : ReqHead, ready h → s.rot.phase ≠ .recovery →
          (∀ nonce : List Byte, nonce.length = 32 → (∃ t, exec (.attestation ⟨qp, h⟩ ⟨1, nonce⟩) s = .next t ∧ outs t [.answer qp (attestReport s nonce)])
            ∧ ∀ code : BitVec 32, code ≠ 1 → ∃ t, exec (.attestation ⟨qp, h⟩ ⟨code, nonce⟩) s = .next t ∧ nakked t [] false)
          ∧ ∀ (ek : List Byte) (mbRkey : BitVec 32) (mbAddr : Word64) (slots : BitVec 32) (win : BitVec 12) (rkey : BitVec 32),
              ek.length = 1184 → 16 ≤ slots.toNat → slots.toNat ≤ 4096 → windowFree s win.toNat = true → rkeyUsed s rkey = false →
              (let c := encapsulate ek s.freeCnt;
                ∃ t w, exec (.session ⟨qp, h⟩ ek mbRkey mbAddr slots win rkey) s = .next t ∧ outs t [.answer qp (sessionAnswer 0 win rkey c.1 ek)]
                  ∧ windowAt t win.toNat = some w ∧ w.open_ = true ∧ w.mgmt = true ∧ w.qp = qp ∧ w.rkey = rkey ∧ w.last = 0 ∧ w.produced = 0
                  ∧ w.mbRkey = mbRkey ∧ w.mbAddr = mbAddr ∧ w.slots = slots.toNat
                  ∧ w.key = shake256 (ascii "CRIOLO-WINKEY" ++ c.2 ++ bigBytes 4 qp.toNat ++ bigBytes 2 win.toNat) 32))
      ∧ ∀ (win : BitVec 12) (w : Window), windowAt s win.toNat = some w → w.open_ = true →
          (∀ rec rest, w.pendingRecs = rec :: rest → w.full = false → qpReady s w.qp = true →
            (let n := w.produced + 1
              let a := w.mbAddr + BitVec.ofNat 64 (64 + 320 * (n % w.slots));
              ∃ t, exec (.mailboxRecordWrite win) s = .next t ∧ windowAt t win.toNat = some { w with produced := n, pendingRecs := rest }
                ∧ outs t [.write w.mbRkey a (bytesOf 8 n ++ rec), .write w.mbRkey (a + 312) (bytesOf 8 n), .write w.mbRkey w.mbAddr (bytesOf 8 n)]))
          ∧ (w.pendingRecs = [] → w.closing = true → w.owed = 0 → ∃ t, exec (.mailboxRecordWrite win) s = .next t ∧ outs t []
              ∧ (windowAt t win.toNat).map (·.open_) = some false)
          ∧ (w.closing = false → w.stopped = false → (w.last.toNat + 1) % 256 ∈ w.fresh →
              (let r := w.record ((w.last.toNat + 1) % 256)
                let d := routeOf r.route
                let left := w.fresh.filter fun n => n != (w.last.toNat + 1) % 256
                let error (t : State) (st : Nat) (last : BitVec 64) : Prop := windowAt t win.toNat = some { w with
                  fresh := left, last := last, pendingRecs := w.pendingRecs ++ [mailboxRec 4 st 0 0 0 r.seq []] }
                let head : EthOut := .write w.mbRkey (w.mbAddr + 8) (bytesOf 8 r.seq.toNat);
                ∃ t, exec (.windowRecord win) s = .next t ∧ t.mem = s.mem ∧
                  (if r.macOk = false then outs t [] ∧ error t 4 w.last
                  else if r.seq ≠ w.last + 1 then outs t [] ∧ windowAt t win.toNat = some { w with fresh := left }
                  else if recordBad r = true then outs t [head] ∧ error t 2 r.seq
                  else if (if r.job = 0 then w.mgmt = false else w.job ≠ r.job) then outs t [head] ∧ error t 4 r.seq
                  else if r.job ≠ 0 ∧ d.part = s.part ∧ (s.job r.job).isNone = true then outs t [head] ∧ error t 5 r.seq
                  else t.eth.out = s.eth.out ++ [head] ∧ (∀ e, r.job ≠ 0 → d.part = s.part → (d.core.extractLsb' 8 12).toNat ≠ 0xFFF →
                    rankEntry s r.job (d.core.extractLsb' 8 12).toNat = some e →
                    (let c : CoreId := BitVec.ofNat 20 (240 + (qpAt s w.qp).port.toNat);
                      ∃ g, Sent s t s.mesh.flights c g ∧ g.dstCore = entryCluster e ++ d.core.extractLsb' 0 8 ∧ g.srcCore = c ∧ g.job = r.job
                        ∧ g.sel = d.sel ∧ g.tag = d.tag ∧ g.prio = d.prio ∧ g.arg = r.arg ∧ g.seq = win.setWidth 16
                        ∧ g.payload = r.payload.take r.plen.toNat ∧ windowAt t win.toNat = some { w with fresh := left, last := r.seq }))))))

/-- Each command, once it is the first of its stream and its arguments are good, has its effect and answers status 0
with the value that its row states: a window opened or closing, a job made with an empty level-1 table, its clusters
granted, pages mapped under a new rkey (answered once no access is out that used an old translation), an image loaded
when its checks hold, a job started or ended, a Harvest begun, a generation committed, a cluster without a job
retired, a Frost raised or read, a step begun, a resume set, a scan, health or signed report written to host memory,
the transport flag, the minimum version and the domain table set, Thyme read. FROST, FROST_READ, STEP, RESUME,
SCAN_READ and DOMAIN without the management right are answered with 4; START, END_JOB, HARVEST and COMMIT of no job
with 5. Where firmware or the device chooses, the choice is an operand of the operation (logs 8, 9 and 16); where a
job has other parts, what they answer to RESUME is a free value (log 54). (R65, R67, R69, R70, R71, R72, R139, R257,
R259, R286, R324, R459) -/
def Obligations.CommandsAreAnswered : Prop :=
  ∀ (s : State) (c : Cmd),
    (let j := Cmd.job c
      let ok (i : Instr) (status : Nat) (arg : Word64) (l : List Byte) (p : State → Prop) : Prop :=
        ∃ t, exec i s = .next t ∧ Answered s t c status arg l ∧ p t
      let host : BitVec 32 × Word64 := (BitVec.ofNat 32 (Cmd.field c 8 4), BitVec.ofNat 64 (Cmd.field c 0 8))
      let cluster : ClusterId := c.arg.extractLsb' 0 4 ++ c.arg.extractLsb' 4 8
      (∀ (win : BitVec 12) (rkey : BitVec 32), due s c 0x100 = true → c.window ≠ win.toNat →
          (let slots := Cmd.field c 12 4;
            16 ≤ slots → slots ≤ 4096 → (j = 0 ∨ (s.job j).isSome = true) → (s.eth.qps.look (c.arg.extractLsb' 16 12).toNat).map (·.st) = some .ready →
            windowFree s win.toNat = true → rkeyUsed s rkey = false →
            ok (.openWindow c win rkey) 0 (rkey ++ (0 : BitVec 20) ++ win) [] fun t => t.mem = s.mem ∧ ∃ w, windowAt t win.toNat = some w ∧ w.open_ = true
              ∧ w.qp = c.arg.extractLsb' 16 12 ∧ w.mgmt = c.arg.getLsbD 28 ∧ w.job = j ∧ w.rkey = rkey ∧ w.mbRkey = BitVec.ofNat 32 (Cmd.field c 0 4)
              ∧ w.mbAddr = BitVec.ofNat 64 (Cmd.field c 4 8) ∧ w.slots = slots ∧ w.last = 0 ∧ w.produced = 0 ∧ w.pendingRecs = []
              ∧ w.key = shake256 (ascii "CRIOLO-WINKEY" ++ ((windowAt s c.window).map (·.secret)).getD [] ++ bigBytes 4 w.qp.toNat ++ bigBytes 2 win.toNat) 32
              ∧ ∀ x, s.job j = some x → (t.job j).map (·.windows) = some (x.windows ++ [win])))
      ∧ (∀ w, due s c 0x101 = true → windowAt s (c.arg.extractLsb' 0 12).toNat = some w → w.open_ = true → w.closing = false →
          ok (.closeWindow c) 0 0 [] fun t => t.mem = s.mem ∧ (windowAt t (c.arg.extractLsb' 0 12).toNat).map (·.closing) = some true)
      ∧ (let asid : BitVec 16 := (c.arg.extractLsb' 16 10 : BitVec 10).setWidth 16;
          ∀ b g p r, due s c 0x110 = true → s.rot.phase ≠ .testing → j ≠ 0 → asid ≠ 0 → s.job j = none → (asidEntry s asid).valid = false →
          setting (Cmd.field c 0 4) 65536 1 (2 ^ 24) = some b → setting (Cmd.field c 4 4) 12 4 20 = some g → setting (Cmd.field c 8 4) 1024 16 (2 ^ 20) = some p →
          setting (Cmd.field c 12 4) 16 1 64 = some r →
          ok (.createJob c) 0 0 [] fun t => (∃ x, t.job j = some x ∧ x.asid = asid ∧ x.budget = b ∧ x.ageShift = g ∧ x.spillQ = p ∧ x.retainQ = r
              ∧ x.supSel = BitVec.ofNat 12 (Cmd.field c 16 4) ∧ x.faultSel = BitVec.ofNat 12 (Cmd.field c 20 4) ∧ x.ranks = [] ∧ x.loaded = false)
            ∧ (asidEntry t asid).valid = true ∧ (asidEntry t asid).harvest = false
            ∧ (s.Inv → ∀ k, (k < asidKey asid ∨ asidKey asid + 16 ≤ k) → memRead t.mem k =
                if (asidEntry t asid).root.toNat ≤ k ∧ k < (asidEntry t asid).root.toNat + 4096 then 0 else memRead s.mem k))
      ∧ (∀ (grant : List (ClusterId × BitVec 17)) (x : Job), due s c 0x111 = true → s.job j = some x → x.region = [] → grant ≠ [] →
          grant.length = (c.arg.extractLsb' 16 12).toNat → (∀ g ∈ grant, grantable s (c.arg.extractLsb' 28 16) g.1 = true ∧ g.2.toNat ≤ 98304) →
          (∀ p ∈ grant.zip (grant.drop 1), p.1.1.toNat < p.2.1.toNat) →
          ok (.allocRegion c grant) 0 (BitVec.ofNat 64 grant.length) [] fun t => t.mem = s.mem ∧ ∃ y, t.job j = some y ∧ y.region = grant.map (·.1)
            ∧ y.ranks.map (fun e => (entryCluster e, winBase e, winSize e)) = grant.map fun g => (g.1, 64 * g.2.toNat, 0))
      ∧ (∀ (frames tables : List (BitVec 52)) (rkey : BitVec 32) (x : Job), due s c 0x112 = true → s.job j = some x →
          (let va := (c.arg.extractLsb' 16 48).toNat
            let len := Cmd.field c 0 8
            let tl := pageLevel (Cmd.field c 8 4)
            let size := 2 ^ levelShift tl
            let root := (asidEntry s x.asid).root.toNat
            let inside := mappedIn s root va len
            let fresh := (freshPages inside tl va len).length;
            len ≠ 0 → Cmd.field c 8 4 ≤ 2 → Cmd.field c 12 4 ≤ 1 → va % size = 0 → len % size = 0 → va + len ≤ 2 ^ 48 → (∀ e ∈ inside, e.1 = tl) →
            x.mapWait = none → fresh ≤ frames.length → frames.Nodup → (∀ f ∈ frames.take fresh, frameFree s x f.toNat size = true) →
            tablesFree s x tables (frames.take fresh) size = true → rkeyUsed s rkey = false →
            (∀ m l, mapPages s.mem root tl va len (Cmd.field c 12 4 == 1) inside frames tables = some (m, l) →
              ∃ t, exec (.map c frames tables rkey) s = .next t ∧ t.mem = m
                ∧ t.eth.rkeys = s.eth.rkeys ++ [{ rkey := rkey, job := x.id, va := BitVec.ofNat 48 va, len := len }]
                ∧ (translatedOut s = false → Answered s t c 0 (rkey.setWidth 64) [] ∧ (t.job j).map (·.mapWait) = some none)
                ∧ (translatedOut s = true → t.fw.cmds = s.fw.cmds ∧ (t.job j).map (·.mapWait) = some (some (c, rkey))))
            ∧ (mapPages s.mem root tl va len (Cmd.field c 12 4 == 1) inside frames tables = none →
              ok (.map c frames tables rkey) 3 0 [] fun t => t.mem = s.mem ∧ t.eth.rkeys = s.eth.rkeys)))
      ∧ (∀ (frames tables : List (BitVec 52)) (rkey k : BitVec 32) (x : Job), due s c 0x112 = true → s.job j = some x → x.mapWait = some (c, k) →
          (translatedOut s = true → exec (.map c frames tables rkey) s = .next s)
          ∧ (translatedOut s = false → ok (.map c frames tables rkey) 0 (k.setWidth 64) [] fun t => t.mem = s.mem ∧ (t.job j).map (·.mapWait) = some none))
      ∧ (∀ (places : List Place) (x : Job), due s c 0x113 = true → s.job j = some x → x.loaded = false →
          (c.arg.extractLsb' 16 48).toNat % 64 = 0 → ∀ b, readImage s x.asid (c.arg.extractLsb' 16 48).toNat = some b →
          (let h := imageHead b
            let tmpl := (b.drop h.tmplOff).take 320
            let paired := (BitVec.ofNat 8 (fieldOf tmpl 260 1)).getLsbD 0
            let mine : Prop := imageOk b = true ∧ fieldOf b 6 2 = x.id.toNat ∧ fieldOf b 8 2 = x.asid.toNat
            let text : Prop := (∀ q ∈ sections b h, sectionOk s x.asid h q = true)
              ∧ (∀ i < 32, trigBad (BitVec.ofNat 32 (fieldOf tmpl (4 * i) 4)) = none) ∧ (∀ w, imageCode8 b h = some w → code8Ok w = true);
            ∃ t, exec (.load c places) s = .next t
              ∧ (¬ mine → Answered s t c 2 0 [] ∧ t.mem = s.mem)
              ∧ (mine → ranksOk x h = false → Answered s t c 3 0 [] ∧ t.mem = s.mem)
              ∧ (mine → ranksOk x h = true → ¬ text → Answered s t c 2 0 [] ∧ t.mem = s.mem)
              ∧ (mine → ranksOk x h = true → text → placeable s x h paired = false → Answered s t c 3 0 [] ∧ t.mem = s.mem)
              ∧ (mine → ranksOk x h = true → text → placeable s x h paired = true → placesOk s x h paired places = true →
                  Answered s t c 0 (BitVec.ofNat 64 places.length) [] ∧ (t.job j).map (·.loaded) = some true
                    ∧ (t.job j).map (·.initial.length) = some h.nmsg 
                    ∧ (s.Inv → sections b h = [] → ∀ k, (∀ p ∈ places, k < (p.save.headD 0).toNat ∨ (p.save.headD 0).toNat + 65536 ≤ k) →
                        memRead t.mem k = memRead s.mem k)
                    ∧ ∀ p ∈ places, ∃ k d, t.ctxAt p.core p.slot = some k ∧ k.job = x.id ∧ k.asid = x.asid ∧ k.table = BitVec.ofNat 48 h.table
                      ∧ k.tableCount = BitVec.ofNat 16 h.entries ∧ k.budget = x.budget ∧ k.ageShift = x.ageShift ∧ k.spill = p.spill
                      ∧ k.flags = BitVec.ofNat 16 (fieldOf tmpl 258 2) ∧ d ∈ t.fw.dirs ∧ d.core = p.core ∧ d.job = x.id ∧ d.st = .resident ∧ d.slot = p.slot)))
      ∧ (∀ x, s.job j = some x →
          (due s c 0x114 = true → x.loaded = true → x.started = false → ok (.start c) 0 0 [] fun t => t.mem = s.mem
            ∧ t.job j = some { x with started := true, startAt := if Cmd.field c 0 8 < s.now.toNat then s.now else BitVec.ofNat 64 (Cmd.field c 0 8) })
          ∧ (due s c 0x115 = true → ok (.endJob c) 0 0 [] fun t => t.job j = none ∧ (asidEntry t x.asid).valid = false ∧ (∀ d ∈ t.fw.dirs, d.job ≠ j)
              ∧ (∀ r ∈ t.eth.rkeys, r.job ≠ j))
          ∧ (due s c 0x120 = true → x.harvestCmd ≠ some c →
              (x.harvesting = true → ok (.harvest c) 1 0 [] fun t => t.fw.jobs = s.fw.jobs)
              ∧ (x.harvesting = false → x.openGen.isSome = true → ok (.harvest c) 6 0 [] fun t => t.fw.jobs = s.fw.jobs)
              ∧ (x.harvesting = false → x.openGen = none → ∃ t y, exec (.harvest c) s = .next t ∧ t.job j = some y ∧ y.harvesting = true
                  ∧ y.harvestCmd = some c ∧ y.frost.active = true ∧ t.fw.cmds = s.fw.cmds ∧ t.mem = s.mem
                  ∧ ((x.frost.active = false ∨ x.frost.resume.isSome = true) → y.frost.count = x.frost.count + 1 ∧ y.frost.cause = causeWord 5 1)))
          ∧ (due s c 0x121 = true → ∀ g, x.openGen = some g →
              (g.number = c.arg.extractLsb' 16 32 → ok (.commit c) 0 0 [] fun t => (t.job j).map (·.committed) = some (some g.number)
                  ∧ (s.Inv → memBytes t.mem (commitKey j) 16 = bytesOf 16 (commitWord j g.number g.place).toNat))
              ∧ (g.number ≠ c.arg.extractLsb' 16 32 → ok (.commit c) 5 0 [] fun t => t.job j = some x))
          ∧ (due s c 0x130 = true → mgmtRight s c = true →
              ((s.fw.dirs.any fun d => d.job == j && d.st != .absent) = true ∨ ∃ p ∈ x.parts, p ≠ s.part) →
              ∃ t y, exec (.frostCommand c) s = .next t ∧ t.job j = some y ∧ Answered s t c 0 y.frost.seq [] ∧ y.frost.active = true
                ∧ ((x.frost.active = false ∨ x.frost.resume.isSome = true) → y.frost.count = x.frost.count + 1 ∧ y.frost.cause = causeWord 4 0)
                ∧ (x.frost.active = true → x.frost.resume = none → y.frost = x.frost))
          ∧ (due s c 0x131 = true → mgmtRight s c = true → ok (.frostRead c) 0 0
              (bytesOf 8 x.frost.cause.toNat ++ bytesOf 8 x.frost.origin.toNat ++ bytesOf 8 x.frost.time.toNat ++ bytesOf 8 x.frost.seq.toNat)
              fun t => t.fw.jobs = s.fw.jobs)
          ∧ (∀ e u, due s c 0x132 = true → mgmtRight s c = true → rankEntry s j (c.arg.extractLsb' 16 12).toNat = some e →
              (let core : CoreId := entryCluster e ++ c.arg.extractLsb' 28 8
                let i : BitVec 2 := c.arg.extractLsb' 36 2;
                (x.harvestCmd ≠ some c → beginStep s j core i (c.arg.getLsbD 38) = (none, u) →
                  exec (.stepCommand c) s = .next (u.updJob j fun x => { x with harvestCmd := some c }))
                ∧ (x.harvestCmd = some c → stepOver s core i = false → exec (.stepCommand c) s = .next s)
                ∧ (x.harvestCmd = some c → stepOver s core i = true → (s.slot core i).stepStatus = 0 →
                  ok (.stepCommand c) 0 ((s.slot core i).progress.word.setWidth 64) [] fun t => (t.job j).map (·.harvestCmd) = some none)))
          ∧ (due s c 0x133 = true → mgmtRight s c = true →
              (let a : Word64 := BitVec.ofNat 64 (Cmd.field c 0 8);
                (a.toNat < s.now.toNat + 4000 → ok (.resumeCommand c) 2 0 [] fun t => t.fw.jobs = s.fw.jobs)
                ∧ (s.now.toNat + 4000 ≤ a.toNat → x.frost.active = true → x.frost.waiting = [] → x.frost.resume = none →
                    (∀ p ∈ x.parts, p = s.part) → (s.lam.reference = true ∨ s.lam.path = true) → (s.power.warn = true → ok (.resumeCommand c) 6 0 [] fun t => t.fw.jobs = s.fw.jobs)
                      ∧ (s.power.warn = false → ok (.resumeCommand c) 0 0 [] fun t => (t.job j).map (·.frost.resume) = some (some a))))))
      ∧ (mgmtRight s c = false → ∀ p ∈ [(0x130, Instr.frostCommand c), (0x131, .frostRead c), (0x132, .stepCommand c), (0x133, .resumeCommand c),
          (0x134, .scanRead c)], due s c p.1 = true → ok p.2 4 0 [] fun t => t.mem = s.mem ∧ t.fw.jobs = s.fw.jobs)
      ∧ (s.job j = none → ∀ p ∈ [(0x114, Instr.start c), (0x115, .endJob c), (0x120, .harvest c), (0x121, .commit c)],
          due s c p.1 = true → ok p.2 5 0 [] fun t => t.mem = s.mem ∧ t.fw.jobs = s.fw.jobs)
      ∧ (∀ plan, due s c 0x122 = true →
          (serviceCluster cluster = true → ok (.retire c plan) 4 0 [] fun t => t.clusters = s.clusters)
          ∧ (serviceCluster cluster = false → (s.cluster cluster).retired = false → holders s cluster = [] →
              ok (.retire c plan) 0 0 [] fun t => t.mem = s.mem ∧ (t.cluster cluster).retired = true ∧ ∀ k, k ≠ cluster → t.cluster k = s.cluster k))
      ∧ (∀ n a q seq x, due s c 0x134 = true → mgmtRight s c = true → (s.cluster cluster).capture = some (n, a, q, seq) → s.job q = some x →
          x.frost.active = true → x.frost.seq = seq → (x.frost.cause.extractLsb' 8 4).toNat ≤ 4 →
          (let img := scanImage cluster n a q seq;
            ok (.scanRead c) 0 (BitVec.ofNat 64 img.length) [] fun t => t.eth.out = s.eth.out ++ [.write host.1 host.2 img] ∧ t.mem = s.mem))
      ∧ (due s c 0x140 = true → ok (.health c) 0 (BitVec.ofNat 64 s.rot.report.length) [] fun t =>
          t.eth.out = s.eth.out ++ [.write host.1 host.2 s.rot.report] ∧ t.mem = s.mem)
      ∧ (due s c 0x141 = true → (let r := attestReport s (bytesOf 32 (Cmd.field c 0 32));
          ok (.attest c) 0 (BitVec.ofNat 64 r.length) [] fun t => t.mem = s.mem
            ∧ t.eth.out = s.eth.out ++ [.write (BitVec.ofNat 32 (Cmd.field c 40 4)) (BitVec.ofNat 64 (Cmd.field c 32 8)) r]))
      ∧ (due s c 0x142 = true → ok (.transport c) 0 0 [] fun t => t.rot = { s.rot with transport := c.arg.getLsbD 0 } ∧ t.mem = s.mem)
      ∧ (due s c 0x143 = true → (let v := BitVec.ofNat 32 (Nat.max s.rot.minVersion.toNat s.rot.version.toNat);
          ok (.imageCommit c) 0 (v.setWidth 64) [] fun t => t.rot = { s.rot with minVersion := v } ∧ t.mem = s.mem))
      ∧ (due s c 0x144 = true →
          (mgmtRight s c = false → ok (.domain c) 4 0 [] fun t => t.rot = s.rot ∧ t.part = s.part)
          ∧ (mgmtRight s c = true → s.fw.jobs = [] →
              (let n := (c.arg.extractLsb' 28 2).toNat
                let i := (c.arg.extractLsb' 16 12).toNat
                let old := if c.arg.getLsbD 30 then [] else s.rot.domain;
                66 * n ≤ c.payload.length → i ≤ old.length → i + n ≤ 256 → ∃ l : List (PartId × List Byte), l.length = n
                  ∧ (∀ k < n, l[k]? = some (BitVec.ofNat 16 (Cmd.field c (66 * k) 2), bytesOf 64 (Cmd.field c (66 * k + 2) 64)))
                  ∧ ok (.domain c) 0 (BitVec.ofNat 64 (Nat.max old.length (i + n))) [] fun t => t.rot.domain = old.take i ++ l ++ old.drop (i + n)
                    ∧ t.part = c.arg.extractLsb' 0 16 ∧ (t.lam.reference = true ↔ referenceOf t.part t.rot.domain = t.part) ∧ t.mem = s.mem)))
      ∧ (due s c 0x145 = true → ok (.time c) 0 s.now [] fun t => t.mem = s.mem))

/-- Power-up starts the pending or active image if it passes, else the other one, else recovery on port 0 alone. The
end of the transport self-test retires the failed job clusters, adds the HBM counts, writes the report and begins
service. Credits refill every 64 cycles. A droop is recorded with the instant at which the supply fell below 95 %; a
supply that calls for it raises the warning, which quiesces every job, begins its Harvest and quarters the allowance;
the warning falls 10 ms after the supply is back, and its jobs resume, each once its Harvest is over; below 85 % a
Harvest under way is cut short. Power loss keeps base flash and the root of trust's store, and with HBM held its bytes
and the jobs with a committed generation. In-service BIST and the wear register (once a minute) take what is measured;
a bank is refreshed when its interval is over and managed at its threshold; ones written to RW1C bits clear them. An
unhealthy job cluster is retired: at once when no job holds it, after a quiesce Frost of its holders, whose rank
tables lose it. A Harvest of a settled job gets the next number, and is answered; a job is rebuilt from its committed
generation and stays frozen. What an image's check answers is a free value (log 7). (R12, R14, R16, R18, R19, R22,
R25, R27, R283, R286, R288, R289) -/
def Obligations.PowerHealthAndRecovery : Prop :=
  ∀ s : State,
    (let ran (t : State) (n : BitVec 1) : Prop := t.rot.image n = (.active, (s.rot.image n).2)
        ∧ t.rot.measure = shake256 (Config.imageSigned (s.rot.image n).2) 64 ∧ t.rot.version = Config.imageVersion (Config.imageSigned (s.rot.image n).2) ∧ t.rot.phase = (if s.rot.transport then .testing else .service) ∧ t.eth.up = 0xF
      let first : BitVec 1 := if (s.rot.image 0).1 = .pending then 0 else if (s.rot.image 1).1 = .pending then 1
        else if (s.rot.image 0).1 = .active then 0 else 1;
      s.rot.phase = .reset → ∃ t, exec .powerUp s = .next t ∧ t.mem = s.mem ∧ t.hbm.hold = false ∧ t.hbm.allBank = s.hbm.allBank + 1 ∧
        (if imagePasses s (s.rot.image first).2 = true then ran t first
        else if imagePasses s (s.rot.image (~~~first)).2 = true then ran t (~~~first) ∧ (t.rot.image first).1 = .spare
        else t.rot.phase = .recovery ∧ t.eth.up = 1 ∧ (t.rot.image 0).1 = .spare ∧ (t.rot.image 1).1 = .spare))
    ∧ (∀ r : SelfTest, s.rot.phase = .testing → ∃ t, exec (.transportSelfTestEnd r) s = .next t ∧ t.mem = s.mem ∧ t.rot.phase = .service
        ∧ t.rot.transport = false ∧ t.rot.report = healthReport t r
        ∧ (∀ k, t.cluster k = if k ∈ r.failed ∧ serviceCluster k = false then { s.cluster k with retired := true } else s.cluster k)
        ∧ (∀ i, (t.hbm.corrected.look i).getD 0 = (s.hbm.corrected.look i).getD 0 + (r.hbm.getD i (0, 0)).1.toNat
          ∧ (t.hbm.uncorrected.look i).getD 0 = (s.hbm.uncorrected.look i).getD 0 + (r.hbm.getD i (0, 0)).2.toNat)
        ∧ ∀ p < 4, t.eth.up.getLsbD p = (r.ethFail.getD p 0 == 0))
    ∧ (s.power.refillAt ≤ s.clk.cycle → ∃ t, exec .creditRefill s = .next t ∧ t.mem = s.mem ∧ t.power.credits = [] ∧ t.power.granted = allowanceOf s
        ∧ t.power.refillAt % 64 = 0 ∧ s.clk.cycle < t.power.refillAt ∧ t.power.refillAt ≤ s.clk.cycle + 64)
    ∧ (∀ pct stretch : BitVec 8,
        (pct.toNat < 95 → stretch.toNat ≤ 64 → exec (.supplyDroop pct stretch) s = .next { s with
          power := { s.power with supply := pct, stretch := stretch, highSince := none, lowSince := some (s.power.lowSince.getD s.now.toNat) }
          fw := { s.fw with jobs := s.fw.jobs.map fun x => if x.harvesting = true ∧ pct.toNat < 85 then { x with harvestCut := true } else x } })
        ∧ (s.power.warn = false → supplyFails s = true → ∃ t, exec (.supplyRecovery pct) s = .next t ∧ t.power.warn = true ∧ t.fw.quiesce = true
            ∧ t.power.supply = pct)
        ∧ ((s.power.warn = true ∨ supplyFails s = false) → 95 ≤ pct.toNat → exec (.supplyRecovery pct) s = .next { s with power := { s.power with
          supply := pct, stretch := 0, lowSince := none, highSince := some (s.power.highSince.getD s.now.toNat) } })
        ∧ ((s.power.warn = true ∨ supplyFails s = false) → pct.toNat < 95 → exec (.supplyRecovery pct) s = .next { s with power := { s.power with supply := pct } }))
    ∧ (∀ t₀, s.power.warn = false → s.power.lowSince = some t₀ → (s.power.supply.toNat < 85 ∨ t₀ + 2000000 ≤ s.now.toNat) →
        ∃ t, exec .powerFailWarning s = .next t
          ∧ (s.Inv → ∀ k, (∀ x ∈ s.fw.jobs, k < asidKey x.asid ∨ asidKey x.asid + 16 ≤ k) → memRead t.mem k = memRead s.mem k) ∧ t.power = { s.power with warn := true, warnSeen := true, quarter := true }
          ∧ t.fw.quiesce = true ∧ ∀ j x, s.job j = some x → ∃ y, t.job j = some y ∧ y.harvesting = true ∧ y.harvestCommit = true ∧ y.frost.active = true)
    ∧ (∀ (t₀ : Nat) (a : Word64), s.power.highSince = some t₀ → t₀ + 10000000 ≤ s.now.toNat → s.now.toNat + 4000 ≤ a.toNat →
        ∃ t, exec (.warningClear a) s = .next t ∧ t.mem = s.mem ∧ t.power = { s.power with warn := false, quarter := false } ∧ t.fw.quiesce = false
          ∧ ∀ j x, s.job j = some x → x.frost.byWarning = true → x.harvesting = false → x.frost.active = true → x.frost.waiting = [] →
            x.frost.resume = none → (∀ p ∈ x.parts, p = s.part) → (s.lam.reference = true ∨ s.lam.path = true) →
            ∃ y, t.job j = some y ∧ y.frost.byWarning = false ∧ y.frost.resume = some a)
    ∧ (∀ hold : Bool, ∃ t, exec (.powerLoss hold) s = .next t ∧ t.part = s.part ∧ t.rot = { s.rot with phase := .reset, measure := [], version := 0 }
        ∧ t.clk.cycle = s.clk.cycle ∧ t.now = 0 ∧ t.cores = [] ∧ t.memq = [] ∧ t.mesh = State.reset.mesh ∧ t.eth.windows = [] ∧ t.hbm.hold = hold
        ∧ (s.Inv → ∀ k, memRead t.mem k = if hold = true ∧ k < vaultBase ∧ ¬ (Config.asidTable ≤ k ∧ k < Config.asidTable + 16384
              ∧ ∀ x ∈ s.fw.jobs, x.committedGen.isSome = true → x.asid.toNat ≠ (k - Config.asidTable) / 16) then memRead s.mem k else 0)
        ∧ t.fw.jobs.map (·.id) = (if hold then (s.fw.jobs.filter fun x => x.committedGen.isSome).map (·.id) else [])
        ∧ (∀ k, (s.cluster k).retired = true → (t.cluster k).retired = true))
    ∧ (∀ (chiplet : BitVec 4) (monitor : BitVec 6) (months : Nat),
        ((∀ m, (s.chiplet chiplet).wearMinute = some m → m < s.now.toNat / 60000000000) →
          ∃ t, exec (.wearLifeUpdate chiplet monitor months) s = .next t ∧ t.mem = s.mem
            ∧ (t.chiplet chiplet).wearLife.getLsbD 31 = true ∧ (t.chiplet chiplet).wearLife.extractLsb' 16 6 = monitor
            ∧ (t.chiplet chiplet).wearLife.extractLsb' 0 16 = BitVec.ofNat 16 (Nat.min 65535 months)
            ∧ (t.chiplet chiplet).wearMinute = some (s.now.toNat / 60000000000))
        ∧ ∀ m, (s.chiplet chiplet).wearMinute = some m → s.now.toNat / 60000000000 ≤ m → exec (.wearLifeUpdate chiplet monitor months) s = .next s)
    ∧ (∀ (k : ClusterId) (pass : Bool), serviceCluster k = false → (s.cluster k).retired = false → holders s k = [] →
        ((s.cluster k).bistAt = 0 ∨ (s.cluster k).bistAt + 86400000000000 ≤ s.now.toNat) →
        ∃ t, exec (.inServiceBist k pass) s = .next t ∧ t.mem = s.mem ∧ t.cluster k = { s.cluster k with bistFail := !pass, bistAt := s.now.toNat })
    ∧ (∀ (k : ClusterId) (plan : List Retiring), serviceCluster k = false → (s.cluster k).retired = false → unhealthy (s.cluster k) = true →
        (s.fw.jobs.map (·.id)).Nodup →
        (holders s k = [] → ∃ t, exec (.clusterRetirement k plan) s = .next t ∧ t.mem = s.mem ∧ (t.cluster k).retired = true)
        ∧ (∀ x ∈ holders s k, x.frost.active = false → ∃ t y, exec (.clusterRetirement k plan) s = .next t ∧ t.job x.id = some y
            ∧ y.frost.active = true ∧ y.frost.cause = causeWord 5 2 ∧ t.cluster k = s.cluster k)
        ∧ ((∀ x ∈ holders s k, x.frost.active = true ∧ x.frost.resume = none ∧ settled s x.id = true) → (retireJobs s k (holders s k) plan).isSome = true →
            ∃ t, exec (.clusterRetirement k plan) s = .next t ∧ (t.cluster k).retired = true
              ∧ ∀ x ∈ holders s k, ∀ r p, (x.ranks.findIdx? fun e => entryCluster e == k) = some r → (plan.find? fun p => p.job == x.id) = some p →
                ∃ y, t.job x.id = some y ∧ y.ranks = x.ranks.eraseIdx r ∧ y.orphanPtr = if x.orphanPtr = 0 then p.orphan else x.orphanPtr))
    ∧ (∀ v : Word64,
        (v.getLsbD 1 = true → ∃ t, exec (.registerWrite .powerStatus v) s = .next t ∧ t.power = { s.power with warnSeen := false } ∧ t.mem = s.mem)
        ∧ (∀ p < 12, v.getLsbD 6 = true → ∃ t, exec (.registerWrite (.portStatus p) v) s = .next t ∧ portAt t p = { portAt s p with secEvent := false })
        ∧ (∀ k, ∃ t, exec (.registerWrite (.clusterHealth k) v) s = .next t ∧ t.mem = s.mem
            ∧ (t.cluster k).ue = (s.cluster k).ue - ((s.cluster k).ue &&& (v.extractLsb' 48 16).toNat)
            ∧ (t.cluster k).residue = (s.cluster k).residue - ((s.cluster k).residue &&& (v.extractLsb' 32 16).toNat)
            ∧ (t.cluster k).corrected = (s.cluster k).corrected - ((s.cluster k).corrected &&& (v.extractLsb' 16 16).toNat)
            ∧ (t.cluster k).route = (s.cluster k).route - ((s.cluster k).route &&& (v.extractLsb' 8 8).toNat))
        ∧ (∀ p dir vc e key, p < 12 → ∃ t, exec (.registerWrite (.linkKey p dir vc e key) v) s = .next t ∧ t.mem = s.mem
            ∧ (portAt t p).keys.look (keyNo dir vc e) = some key ∧ (portAt t p).counts.look (keyNo dir vc e) = some 0))
    ∧ (∀ (stack : BitVec 4) (pc : BitVec 6) (bank : Nat), s.hbm.hold = false →
        (let n := bankNo stack.toNat pc.toNat bank;
          (∀ hot : Bool, s.rot.phase ≠ .reset →
            (let interval := if hot then Config.refreshInterval / 2 else Config.refreshInterval
              let due_ : Prop := ∀ c, s.hbm.refreshAt.look n = some c → c + interval ≤ s.clk.cycle;
              ∃ t, exec (.perBankRefresh stack pc bank hot) s = .next t ∧ t.mem = s.mem ∧ t.hbm.hot.getLsbD stack.toNat = hot
                ∧ (due_ → (t.hbm.refreshed.look n).getD 0 = (s.hbm.refreshed.look n).getD 0 + 1 ∧ t.hbm.refreshAt.look n = some s.clk.cycle)
                ∧ (¬ due_ → t.hbm.refreshed = s.hbm.refreshed ∧ t.hbm.refreshAt = s.hbm.refreshAt)))
          ∧ (rfmAt stack ≤ (s.hbm.acts.look n).getD 0 → ∃ t, exec (.refreshManagement stack pc bank) s = .next t ∧ t.mem = s.mem
            ∧ (t.hbm.managed.look n).getD 0 = (s.hbm.managed.look n).getD 0 + 1 ∧ (t.hbm.acts.look n).getD 0 = 0)
          ∧ ((s.hbm.acts.look n).getD 0 < rfmAt stack → exec (.refreshManagement stack pc bank) s = .next s)))
    ∧ (∀ (j : JobId) (x : Job), s.job j = some x → x.asid.toNat < 1024 →
        (∀ (root : BitVec 52) (rest : List (BitVec 52)) (a : Word64), x.harvesting = true → x.harvestCut = false → settled s j = true →
          tablesFree s x (root :: rest) [] 0 = true →
          ((spaceEntries s (asidEntry s x.asid).root.toNat).filter fun q => !(pteOf q.2.2.2).leaf).length ≤ rest.length →
          (x.harvestKeep = true ∨ s.now.toNat + 4000 ≤ a.toNat) → x.openGen = none →
          ∃ t y, exec (.harvestDump j (root :: rest) a) s = .next t ∧ t.job j = some y ∧ y.genCount = x.genCount + 1 ∧ y.harvesting = false
            ∧ (∃ g ∈ y.generations, g.number = x.genCount + 1 ∧ g.root = root ∧ g.ranks = x.ranks ∧ g.vault = vaultImage s x.ranks)
            ∧ (asidEntry t x.asid).harvest = true ∧ (asidEntry t x.asid).altRoot = root
            ∧ (∀ c, x.harvestCmd = some c → Answered s t c 0 ((x.genCount + 1).setWidth 64) [])
            ∧ (x.harvestCommit = true → y.committed = some (x.genCount + 1))
            ∧ (x.harvestKeep = false → x.frost.active = true → x.frost.waiting = [] → x.frost.resume = none → s.power.warn = false → (∀ p ∈ x.parts, p = s.part) →
                (s.lam.reference = true ∨ s.lam.path = true) → y.frost.resume = some a))
        ∧ (∀ g, x.committedGen = some g → s.rot.phase = .service → coresOf s j = [] → g.root.toNat % 4096 = 0 → (∀ p ∈ g.vault, vaultBase ≤ p.1) →
          (∀ l ∈ g.images, l.length ≤ 2048) → (∀ d ∈ g.dirs, d.saveKey 0 + 2048 ≤ Config.asidTable) →
          ∃ t y, exec (.jobRebuild j) s = .next t ∧ t.job j = some y ∧ y.ranks = g.ranks ∧ y.frost.active = true ∧ y.harvesting = false
            ∧ (asidEntry t x.asid).valid = true ∧ (asidEntry t x.asid).harvest = true ∧ (asidEntry t x.asid).altRoot = g.root
            ∧ (∀ d ∈ g.dirs, d ∈ t.fw.dirs)
            ∧ ((g.ctxs.map fun q => (q.1, q.2.1)).Nodup → ∀ q ∈ g.ctxs, t.ctxAt q.1 q.2.1 = some { q.2.2 with frozen := true })))
end

