-- ==== Sys2Proof/Machine/Source.lean ====
section
/-! DEFINITION. Source text of Ebael (11 R315 to R317): characters to lines, lines to tokens, statements; numbers, names and
expressions (log 41). -/

namespace Sys2Proof.Asm

/-- A name, character by character. -/
abbrev Name := List Char

/-- A token of a line: a name, a number, or one other character. -/
inductive Tok where
  | word (w : Name)
  | num (n : Nat)
  | sym (c : Char)
deriving DecidableEq, Repr

/-- A decimal digit. -/
def isDigit (c : Char) : Bool := decide (48 ≤ c.toNat ∧ c.toNat ≤ 57)
/-- A letter or "_" (R315). -/
def isLetter (c : Char) : Bool := decide ((65 ≤ c.toNat ∧ c.toNat ≤ 90) ∨ (97 ≤ c.toNat ∧ c.toNat ≤ 122) ∨ c.toNat = 95)
/-- May a character stand in a name or a number? -/
def isWord (c : Char) : Bool := isLetter c || isDigit c
/-- A blank. -/
def isBlank (c : Char) : Bool := c.toNat == 32 || c.toNat == 9 || c.toNat == 13

/-- The value of a digit of a base up to 16. -/
def digitOf (c : Char) : Nat :=
  let n := c.toNat
  if n ≤ 57 then n - 48 else if n ≤ 70 then n - 55 else n - 87
/-- Is a character a digit of a base up to 16? -/
def isDigitOf (base : Nat) (c : Char) : Bool :=
  (isDigit c || decide ((65 ≤ c.toNat ∧ c.toNat ≤ 70) ∨ (97 ≤ c.toNat ∧ c.toNat ≤ 102))) && decide (digitOf c < base)

/-- The digits of a base that follow, "_" between two of them ignored (R316); after says that a digit stands before. -/
def digits (base : Nat) : List Char → Nat → Bool → Option Nat
  | [], v, after => if after then some v else none
  | c :: l, v, after =>
    if isDigitOf base c then digits base l (base * v + digitOf c) true
    else if c = '_' ∧ after = true then
      match l with
      | d :: _ => if isDigitOf base d then digits base l v true else none
      | [] => none
    else none

/-- A number: decimal, hexadecimal with 0x, binary with 0b (R316). -/
def number : List Char → Option Nat
  | '0' :: 'x' :: l => digits 16 l 0 false
  | '0' :: 'b' :: l => digits 2 l 0 false
  | l => digits 10 l 0 false

/-- A finished run of word characters: a number or a name. -/
def runTok (w : List Char) : Option Tok :=
  match w with
  | c :: _ => if isDigit c then (number w).map .num else some (.word w)
  | [] => none

/-- The tokens of a line, w being the run read so far, backwards. -/
def lexFrom : List Char → List Char → Option (List Tok)
  | [], w => if w.isEmpty then some [] else (runTok w.reverse).map fun t => [t]
  | c :: l, w =>
    if isWord c then lexFrom l (c :: w)
    else do
      let rest ← lexFrom l []
      let rest := if isBlank c then rest else .sym c :: rest
      if w.isEmpty then some rest else (runTok w.reverse).map (· :: rest)

/-- The tokens of a line without its comment (R315). -/
def lexLine (l : List Char) : Option (List Tok) := lexFrom (l.takeWhile (· != ';')) []

/-- The lines of a text. -/
def linesOf : List Char → List (List Char)
  | [] => [[]]
  | c :: l => match linesOf l with
    | x :: xs => if c = '\n' then [] :: x :: xs else (c :: x) :: xs
    | [] => [[c]]

/-- What a line holds beside its label (R315): nothing, a directive, or an instruction with its suffixes; operands are the tokens between commas. -/
inductive Op where
  | blank
  | directive (name : Name) (ops : List (List Tok))
  | instr (name : Name) (suffixes : List Name) (ops : List (List Tok))
deriving DecidableEq, Repr

/-- Operands split at commas (R317); none where there are no tokens. -/
def splitOps : List Tok → List (List Tok)
  | [] => []
  | t :: l =>
    if t = .sym ',' then [] :: (if l.isEmpty then [[]] else splitOps l)
    else match splitOps l with
      | x :: xs => (t :: x) :: xs
      | [] => [[t]]

/-- Suffixes, each introduced by ".", and what follows them (R318). -/
def suffixesOf : List Tok → List Name × List Tok
  | .sym '.' :: .word w :: l => let r := suffixesOf l; (w :: r.1, r.2)
  | l => ([], l)

/-- What stands after the label. -/
def opOf : List Tok → Option Op
  | [] => some .blank
  | .sym '.' :: .word w :: l => some (.directive w (splitOps l))
  | .word w :: l => let r := suffixesOf l; some (.instr w r.1 (splitOps r.2))
  | _ => none

/-- A line: its label, if it has one, and the rest. -/
def stmtOf : List Tok → Option (Option Name × Op)
  | .word w :: .sym ':' :: l => (opOf l).map fun o => (some w, o)
  | l => (opOf l).map fun o => (none, o)

/-- An expression (R316). -/
inductive Expr where
  | num (v : BitVec 64)
  | name (w : Name)
  | add (a b : Expr)
  | sub (a b : Expr)
  | mul (a b : Expr)
  | neg (a : Expr)
deriving DecidableEq, Repr

/-- What a parser of expressions reads next: a sum, what may follow a sum so far, a product, what may follow it, or a factor. -/
inductive Want where
  | sum
  | sums (e : Expr)
  | prod
  | prods (e : Expr)
  | factor

/-- An expression at the front of some tokens, and the tokens after it; n bounds the steps. -/
def parseExpr : Nat → Want → List Tok → Option (Expr × List Tok)
  | 0, _, _ => none
  | n + 1, .sum, l => (parseExpr n .prod l).bind fun r => parseExpr n (.sums r.1) r.2
  | n + 1, .sums e, .sym '+' :: l => (parseExpr n .prod l).bind fun r => parseExpr n (.sums (.add e r.1)) r.2
  | n + 1, .sums e, .sym '-' :: l => (parseExpr n .prod l).bind fun r => parseExpr n (.sums (.sub e r.1)) r.2
  | _ + 1, .sums e, l => some (e, l)
  | n + 1, .prod, l => (parseExpr n .factor l).bind fun r => parseExpr n (.prods r.1) r.2
  | n + 1, .prods e, .sym '*' :: l => (parseExpr n .factor l).bind fun r => parseExpr n (.prods (.mul e r.1)) r.2
  | _ + 1, .prods e, l => some (e, l)
  | _ + 1, .factor, .num v :: l => if v < 2 ^ 64 then some (.num (BitVec.ofNat 64 v), l) else none
  | _ + 1, .factor, .word w :: l => some (.name w, l)
  | n + 1, .factor, .sym '-' :: l => (parseExpr n .factor l).map fun r => (.neg r.1, r.2)
  | n + 1, .factor, .sym '(' :: l =>
    (parseExpr n .sum l).bind fun r => match r.2 with
      | .sym ')' :: l => some (r.1, l)
      | _ => none
  | _ + 1, .factor, _ => none

/-- The expression that some tokens are. -/
def exprOf (l : List Tok) : Option Expr :=
  match parseExpr (4 * l.length + 4) .sum l with
  | some (e, []) => some e
  | _ => none

/-- The value of an expression in 64-bit two's complement (R316), names looked up. -/
def Expr.eval (look : Name → Option (BitVec 64)) : Expr → Option (BitVec 64)
  | .num v => some v
  | .name w => look w
  | .add a b => (a.eval look).bind fun x => (b.eval look).map fun y => x + y
  | .sub a b => (a.eval look).bind fun x => (b.eval look).map fun y => x - y
  | .mul a b => (a.eval look).bind fun x => (b.eval look).map fun y => x * y
  | .neg a => (a.eval look).map fun x => -x

/-- The value of a name: labels are numbers, .equ names expressions over names; n bounds the names on the way. -/
def lookUp (env : List (Name × Expr)) : Nat → Name → Option (BitVec 64)
  | 0, _ => none
  | n + 1, w => match env.find? fun p => p.1 == w with
    | some p => p.2.eval (lookUp env n)
    | none => none

/-- A register name of a letter and a decimal number below a bound (R315). -/
def regNo (c : Char) (bound : Nat) (w : Name) : Option Nat :=
  match w with
  | d :: e :: l =>
    if d = c ∧ isDigit e = true ∧ (e ≠ '0' ∨ l = []) then
      match digits 10 (e :: l) 0 false with
      | some n => if n < bound ∧ l.all isDigit = true then some n else none
      | none => none
    else none
  | _ => none

/-- The entry of a table under a word. -/
def keyword {α : Type} (table : List (String × α)) (w : Name) : Option α := (table.find? fun p => p.1.toList == w).map (·.2)

/-- Format names with their codes (R116, R317). -/
def formats : List (String × Nat) :=
  ["INT8", "UINT8", "INT16", "UINT16", "INT32", "UINT32", "INT64", "UINT64", "FP32", "FP16", "BF16", "E4M3", "E5M2", "CODE8", "X19", "E8M0",
    "MASK1"].zipIdx

/-- Condition words of BR (R312). -/
def conditions : List (String × BitVec 4) := [("ANY", 1), ("ALL", 2), ("NONE", 3), ("FIRST", 4)]
/-- Conditions of CMP, by FN (R302). -/
def cmpConds : List (String × BitVec 3) := [("EQ", 0), ("NE", 1), ("LT", 2), ("LE", 3), ("LTU", 4), ("LEU", 5)]
/-- Conditions of FCMP, by FN (R302). -/
def fcmpConds : List (String × BitVec 2) := [("EQ", 0), ("LT", 1), ("LE", 2), ("UN", 3)]

/-- Names of CSRs (R151). -/
def csrNames : List (String × BitVec 12) :=
  [("CORE_ID", 0x000), ("PART", 0x001), ("RANK", 0x002), ("CLUSTERS", 0x003), ("JOB", 0x004), ("CTXSLOT", 0x005), ("SLOT", 0x006), ("NETPAY", 0x008),
    ("THYME", 0x010), ("PROGRESS", 0x020), ("MSGINFO", 0x021), ("BUDGET_LEFT", 0x022), ("TRAPCAUSE", 0x030), ("TRAPADDR", 0x031), ("BUDGET", 0x040),
    ("AGE_SHIFT", 0x041), ("SPILLQ", 0x042), ("RETAINQ", 0x043), ("SKID", 0x050), ("FROST_CAUSE", 0x060), ("FROST_ORIGIN", 0x061),
    ("FROST_TIME", 0x062), ("FROST_SEQ", 0x063), ("WEAR_LIFE", 0x070)]

end Sys2Proof.Asm
end

