-- ==== Sys2Proof/Machine/Assemble.lean ====
section
/-! DEFINITION. Assembly forms of the instructions (11 R298 to R312, 15 R412) with their suffixes (R318): a statement's word (log 41). -/

namespace Sys2Proof.Asm

/-- Kinds of suffix (R318): rounding mode; one class; several classes; scope; .REL; .ORD; .ROW; condition; those of POST. -/
inductive SufKind where
  | rm | cls | clss | scope | rel | ord | row | cond | post
deriving DecidableEq, Repr

/-- The suffixes written on a mnemonic, read. -/
structure Suf where
  rm : Option (BitVec 2)
  cls : List (BitVec 2)
  scope : Option (BitVec 2)
  rel : Bool
  ord : Bool
  row : Bool
  cond : Option Name
  tr : Bool
  zf : Bool
  s6 : Bool
  s3 : Bool
deriving DecidableEq, Repr

/-- No suffix. -/
def Suf.none : Suf :=
  { rm := .none, cls := [], scope := .none, rel := false, ord := false, row := false, cond := .none, tr := false, zf := false, s6 := false, s3 := false }

/-- One more suffix, each at most once (R318): a second rounding mode, scope or condition is one too many. -/
def Suf.add (u : Suf) (w : Name) : Option Suf :=
  match keyword [("RZ", (1 : BitVec 2)), ("RU", 2), ("RD", 3)] w with
  | some m => if u.rm.isNone then some { u with rm := some m } else .none
  | .none =>
    match keyword [("C0", (0 : BitVec 2)), ("C1", 1), ("C2", 2), ("C3", 3)] w with
    | some c => if u.cls.contains c then .none else some { u with cls := u.cls ++ [c] }
    | .none =>
      match keyword [("CL", (1 : BitVec 2)), ("MD", 2), ("DM", 3)] w with
      | some s => if u.scope.isNone then some { u with scope := some s } else .none
      | .none =>
        match keyword [("REL", (u.rel, { u with rel := true })), ("ORD", (u.ord, { u with ord := true })), ("ROW", (u.row, { u with row := true })),
          ("TR", (u.tr, { u with tr := true })), ("ZF", (u.zf, { u with zf := true })), ("S6", (u.s6, { u with s6 := true })),
          ("S3", (u.s3, { u with s3 := true }))] w with
        | some p => if p.1 then .none else some p.2
        | .none => if u.cond.isNone then some { u with cond := some w } else .none

/-- The suffixes of a mnemonic. -/
def readSufs (l : List Name) : Option Suf := l.foldl (fun u w => u.bind (·.add w)) (some Suf.none)

/-- Are suffixes among those that an instruction may have? -/
def Suf.fits (u : Suf) (ks : List SufKind) : Bool :=
  let has (k : SufKind) : Bool := ks.contains k
  (u.rm.isNone || has .rm) && (u.cls.isEmpty || has .clss || (has .cls && u.cls.length == 1)) && (u.scope.isNone || has .scope)
    && (!u.rel || has .rel) && (!u.ord || has .ord) && (!u.row || has .row) && (u.cond.isNone == !has .cond)
    && ((!u.tr && !u.zf && !u.s6 && !u.s3) || has .post)

/-- What an assembly form is read from: operands, the mask after them, suffixes, the values of names, the word's address. -/
structure Args where
  ops : List (List Tok)
  mask : Option MReg
  suf : Suf
  look : Name → Option (BitVec 64)
  at_ : BitVec 64

/-- A register operand. -/
def reg (c : Char) (bound : Nat) : List Tok → Option Nat
  | [.word w] => regNo c bound w
  | _ => none
/-- A tile Tn (R317). -/
def tile (t : List Tok) : Option TReg := (reg 'T' 16 t).map (BitVec.ofNat 4)
/-- A mask name. -/
def maskReg (t : List Tok) : Option MReg := (reg 'M' 4 t).map (BitVec.ofNat 2)
/-- An accumulator name. -/
def accReg (t : List Tok) : Option (BitVec 3) := (reg 'A' 8 t).map (BitVec.ofNat 3)
/-- A memory pointer tile [Tn] (R317). -/
def ptr : List Tok → Option TReg
  | [.sym '[', .word w, .sym ']'] => tile [.word w]
  | _ => none
/-- A tile range Tc..Td with d ≥ c, or one tile (R310, R317): its first tile and the number of tiles less one. -/
def range : List Tok → Option (TReg × BitVec 2)
  | [.word w] => (tile [.word w]).map fun c => (c, 0)
  | [.word w, .sym '.', .sym '.', .word v] => do
    let c ← regNo 'T' 16 w
    let d ← regNo 'T' 16 v
    if c ≤ d ∧ d - c < 4 then some (BitVec.ofNat 4 c, BitVec.ofNat 2 (d - c)) else none
  | _ => none
/-- A keyword operand. -/
def word {α : Type} (table : List (String × α)) : List Tok → Option α
  | [.word w] => keyword table w
  | _ => none
/-- The value of an expression operand (R316). -/
def Args.val (x : Args) (t : List Tok) : Option (BitVec 64) := (exprOf t).bind (·.eval x.look)
/-- An unsigned operand of n bits. -/
def Args.num (x : Args) (n : Nat) (t : List Tok) : Option (BitVec n) :=
  (x.val t).bind fun v => if v.toNat < 2 ^ n then some (BitVec.ofNat n v.toNat) else none
/-- An operand of one less than its value, from 1 to 2^n. -/
def Args.numM1 (x : Args) (n : Nat) (t : List Tok) : Option (BitVec n) :=
  (x.val t).bind fun v => if 1 ≤ v.toNat ∧ v.toNat ≤ 2 ^ n then some (BitVec.ofNat n (v.toNat - 1)) else none
/-- A 16-bit immediate, signed or unsigned (R300). -/
def Args.imm16 (x : Args) (signed : Bool) (t : List Tok) : Option (BitVec 16) :=
  (x.val t).bind fun v =>
    if signed then (if -32768 ≤ v.toInt ∧ v.toInt ≤ 32767 then some (BitVec.ofInt 16 v.toInt) else none)
    else if v.toNat ≤ 65535 then some (BitVec.ofNat 16 v.toNat) else none
/-- OFF of a branch to an operand's value (R316). -/
def Args.off (x : Args) (t : List Tok) : Option (BitVec 20) :=
  (x.val t).bind fun v =>
    let d := (v - x.at_).toInt
    if d % 4 = 0 ∧ -524288 ≤ d / 4 ∧ d / 4 ≤ 524287 then some (BitVec.ofInt 20 (d / 4)) else none
/-- The operand mask; ?M0 and no mask are one (R317). -/
def Args.k (x : Args) : MReg := x.mask.getD 0
/-- The rounding mode: 00 without a suffix (R318). -/
def Args.rm (x : Args) : BitVec 2 := x.suf.rm.getD 0
/-- Order class and scope of an access: class 0 and core without a suffix (R318). -/
def Args.oc (x : Args) : BitVec 2 := x.suf.cls.headD 0
/-- The scope. -/
def Args.sc (x : Args) : BitVec 2 := x.suf.scope.getD 0
/-- A class mask. -/
def classMask (l : List (BitVec 2)) : BitVec 4 := l.foldl (fun m c => m ||| (1#4 <<< c.toNat)) 0
/-- Release class mask and scope of a sending instruction (R310, R318): .REL needs a scope, and classes or a scope need .REL. -/
def Args.release (x : Args) : Option (BitVec 4 × BitVec 2) :=
  match x.suf.rel, x.suf.scope with
  | true, some s => some (if x.suf.cls.isEmpty then 15 else classMask x.suf.cls, s)
  | false, none => if x.suf.cls.isEmpty then some (0, 0) else none
  | _, _ => none

/-- An instruction without a mask. -/
def Args.bare (x : Args) (i : Option Instr) : Option Instr := if x.mask.isNone then i else none

/-- An assembly form: what it makes of a statement. -/
abbrev Form := Args → Option Instr

/-- No operands. -/
def plain (i : Instr) : Form := fun x => match x.ops with
  | [] => x.bare (some i)
  | _ => none
/-- One number of n bits. -/
def imm (n : Nat) (i : BitVec n → Instr) : Form := fun x => match x.ops with
  | [a] => x.bare ((x.num n a).map i)
  | _ => none
/-- One tile. -/
def one (i : TReg → Instr) : Form := fun x => match x.ops with
  | [a] => x.bare ((tile a).map i)
  | _ => none
/-- Two tiles, no mask. -/
def two (i : TReg → TReg → Instr) : Form := fun x => match x.ops with
  | [a, b] => x.bare do return i (← tile a) (← tile b)
  | _ => none
/-- RFT slot, action. -/
def rft : Form := fun x => match x.ops with
  | [s, a] => x.bare do return .rft (← word [("RESUME", 0), ("RENEW", 1), ("ABANDON", 2)] a) (← x.num 2 s)
  | _ => none
/-- A CSR by its name or number (R151). -/
def Args.csr (x : Args) (t : List Tok) : Option (BitVec 12) := (word csrNames t).or (x.num 12 t)
/-- CSRR Ta, csr. -/
def csrr : Form := fun x => match x.ops with
  | [a, c] => x.bare do return .csrr (← tile a) (← x.csr c)
  | _ => none
/-- CSRW csr, Tb. -/
def csrw : Form := fun x => match x.ops with
  | [c, b] => x.bare do return .csrw (← tile b) (← x.csr c)
  | _ => none
/-- CINV [Tb], lines; with T0 the whole cache, and no number but 1. -/
def cinv : Form := fun x => match x.ops with
  | [b, n] => x.bare do return .cinv (← ptr b) (← x.numM1 12 n)
  | [b] => x.bare ((ptr b).bind fun b => if b = 0 then some (.cinv 0 0) else none)
  | _ => none
/-- TLBI Ta, [Tb], kind, scope. -/
def tlbi : Form := fun x => match x.ops with
  | [a, b, k, s] => x.bare do return .tlbi (← tile a) (← ptr b) (← word [("MD", 0), ("DM", 1)] s) (← word [("VA", 0), ("ASID", 1), ("ALL", 2)] k)
  | _ => none
/-- An item TILE n, SHAPEW n, MASK n or CSR c (R412). -/
def Args.item (x : Args) : List Tok → Option (BitVec 2 × BitVec 8)
  | .word w :: t => (keyword [("TILE", (0 : BitVec 2)), ("SHAPEW", 1), ("MASK", 2), ("CSR", 3)] w).bind fun k =>
    if k = 3 then (x.csr t).bind fun c => if c.toNat ≤ 0xFF then some (k, c.setWidth 8) else none else (x.num 8 t).map fun n => (k, n)
  | _ => none
/-- SLOTRD Ta, slot, item. -/
def slotrd : Form := fun x => match x.ops with
  | [a, s, i] => x.bare do let i ← x.item i; return .slotrd (← tile a) (← x.num 2 s) i.1 i.2
  | _ => none
/-- SLOTWR slot, item, Tb. -/
def slotwr : Form := fun x => match x.ops with
  | [s, i, b] => x.bare do let i ← x.item i; return .slotwr (← tile b) (← x.num 2 s) i.1 i.2
  | _ => none
/-- OP [Tb], ctx. -/
def ctxPtr (i : TReg → BitVec 2 → Instr) : Form := fun x => match x.ops with
  | [b, c] => x.bare do return i (← ptr b) (← x.num 2 c)
  | _ => none
/-- STEP[.ROW] Tb, slot. -/
def step : Form := fun x => match x.ops with
  | [b, s] => x.bare do return .step (← tile b) (BitVec.ofBool x.suf.row) (← x.num 2 s)
  | _ => none
/-- A format by its name or number (R317). -/
def Args.fmt (x : Args) (t : List Tok) : Option (BitVec 5) := ((word formats t).map (BitVec.ofNat 5)).or (x.num 5 t)
/-- SHAPEI Ta, fmt, rows, cols. -/
def shapei : Form := fun x => match x.ops with
  | [a, f, r, c] => x.bare do return .shapei (← tile a) (← x.fmt f) (← x.numM1 3 r) (← x.numM1 6 c)
  | _ => none
/-- RAGGEDI Ta, vrows, vcols. -/
def raggedi : Form := fun x => match x.ops with
  | [a, r, c] => x.bare do return .raggedi (← tile a) (← x.numM1 3 r) (← x.numM1 6 c)
  | _ => none
/-- MOVI Ta, imm ?Mk. -/
def movi : Form := fun x => match x.ops with
  | [a, i] => do return .movi (← tile a) x.k (← x.imm16 true i)
  | _ => none
/-- MOVK Ta, imm, chunk. -/
def movk : Form := fun x => match x.ops with
  | [a, i, h] => x.bare do return .movk (← tile a) (← x.num 2 h) (← x.imm16 false i)
  | _ => none
/-- OP Ta, Tb, imm ?Mk. -/
def abi (signed : Bool) (i : TReg → TReg → MReg → BitVec 16 → Instr) : Form := fun x => match x.ops with
  | [a, b, n] => do return i (← tile a) (← tile b) x.k (← x.imm16 signed n)
  | _ => none
/-- SHI Ta, Tb, op, amount ?Mk. -/
def shi : Form := fun x => match x.ops with
  | [a, b, o, n] => do return .shi (← tile a) (← tile b) x.k (← word [("SHL", 0), ("SHR", 1), ("SAR", 2), ("ROL", 3)] o) (← x.num 6 n)
  | _ => none
/-- OP Ta, Tb, Tc ?Mk. -/
def abck (i : TReg → TReg → TReg → MReg → Instr) : Form := fun x => match x.ops with
  | [a, b, c] => do return i (← tile a) (← tile b) (← tile c) x.k
  | _ => none
/-- The same with a rounding mode. -/
def abckr (i : TReg → TReg → TReg → MReg → BitVec 2 → Instr) : Form := fun x => abck (fun a b c k => i a b c k x.rm) x
/-- OP Ta, Tc, Tb ?Mk (R305). -/
def acbk (i : TReg → TReg → TReg → MReg → Instr) : Form := abck fun a c b k => i a b c k
/-- OP Ta, Tb ?Mk. -/
def abk (i : TReg → TReg → MReg → Instr) : Form := fun x => match x.ops with
  | [a, b] => do return i (← tile a) (← tile b) x.k
  | _ => none
/-- The same with a rounding mode. -/
def abkr (i : TReg → TReg → MReg → BitVec 2 → Instr) : Form := fun x => abk (fun a b k => i a b k x.rm) x
/-- OP Ta ?Mk. -/
def ak (i : TReg → MReg → Instr) : Form := fun x => match x.ops with
  | [a] => (tile a).map fun a => i a x.k
  | _ => none
/-- CMP.cond Mx, Tb, Tc ?Mk. -/
def cmp : Form := fun x => match x.ops with
  | [m, b, c] => do return .cmp (← maskReg m) (← tile b) (← tile c) x.k (← x.suf.cond.bind (keyword cmpConds))
  | _ => none
/-- FCMP.cond Mx, Tb, Tc ?Mk. -/
def fcmp : Form := fun x => match x.ops with
  | [m, b, c] => do return .fcmp (← maskReg m) (← tile b) (← tile c) x.k (← x.suf.cond.bind (keyword fcmpConds))
  | _ => none
/-- OP Ma, Mb, Mc. -/
def masks3 (i : MReg → MReg → MReg → Instr) : Form := fun x => match x.ops with
  | [a, b, c] => x.bare do return i (← maskReg a) (← maskReg b) (← maskReg c)
  | _ => none
/-- OP Ma, Mb. -/
def masks2 (i : MReg → MReg → Instr) : Form := fun x => match x.ops with
  | [a, b] => x.bare do return i (← maskReg a) (← maskReg b)
  | _ => none
/-- OP Ta, Mb. -/
def tileMask (i : TReg → MReg → Instr) : Form := fun x => match x.ops with
  | [a, b] => x.bare do return i (← tile a) (← maskReg b)
  | _ => none
/-- OP Ma, Tb. -/
def maskTile (i : MReg → TReg → Instr) : Form := fun x => match x.ops with
  | [a, b] => x.bare do return i (← maskReg a) (← tile b)
  | _ => none
/-- A stride: T0 where it is omitted (R306). -/
def stride : List (List Tok) → Option TReg
  | [] => some 0
  | [c] => tile c
  | _ => none
/-- OP Ta, [Tb], Tc ?Mk. -/
def load (i : TReg → TReg → TReg → MReg → BitVec 2 → BitVec 2 → Instr) : Form := fun x => match x.ops with
  | a :: b :: c => do return i (← tile a) (← ptr b) (← stride c) x.k x.oc x.sc
  | _ => none
/-- ST [Tb], Ta, Tc ?Mk. -/
def store : Form := fun x => match x.ops with
  | b :: a :: c => do return .st (← tile a) (← ptr b) (← stride c) x.k x.oc x.sc
  | _ => none
/-- FMTTAB [Tb]. -/
def fmttab : Form := fun x => match x.ops with
  | [b] => x.bare ((ptr b).map fun b => .fmttab b x.oc x.sc)
  | _ => none
/-- COPY [Tb], [Tc], Ta. -/
def copy : Form := fun x => match x.ops with
  | [b, c, a] => x.bare do return .copy (← tile a) (← ptr b) (← ptr c)
  | _ => none
/-- FENCE.scope.classes [kind] (R308). -/
def fence : Form := fun x => x.bare (match x.ops with
  | [] => some (.fence x.sc (classMask x.suf.cls) 0)
  | [t] => (word [("FULL", (0 : BitVec 2)), ("ACQUIRE", 1), ("RELEASE", 2)] t).map fun t => .fence x.sc (classMask x.suf.cls) t
  | _ => none)
/-- OP[.ORD] Ta, [Tb], Tc ?Mk (R307). -/
def atom (i : TReg → TReg → TReg → MReg → BitVec 2 → BitVec 2 → BitVec 1 → Instr) : Form := fun x => match x.ops with
  | [a, b, c] => do return i (← tile a) (← ptr b) (← tile c) x.k x.oc x.sc (BitVec.ofBool x.suf.ord)
  | _ => none
/-- OP Ta, Tb, Tc..Td (R310). -/
def send (i : TReg → TReg → TReg → BitVec 2 → BitVec 4 → BitVec 2 → Instr) : Form := fun x => match x.ops with
  | [a, b, c] => x.bare do let c ← range c; let r ← x.release; return i (← tile a) (← tile b) c.1 c.2 r.1 r.2
  | _ => none
/-- REPLY Tb, Tc..Td. -/
def reply : Form := fun x => match x.ops with
  | [b, c] => x.bare do let c ← range c; let r ← x.release; return .reply (← tile b) c.1 c.2 r.1 r.2
  | _ => none
/-- FWD Ta, Tb. -/
def fwd : Form := fun x => match x.ops with
  | [a, b] => x.bare do let r ← x.release; return .fwd (← tile a) (← tile b) r.1 r.2
  | _ => none
/-- A counter name, a flag name. -/
def idx (c : Char) (t : List Tok) : Option (BitVec 4) := (reg c 16 t).map (BitVec.ofNat 4)
/-- CINC Ta, Cn, Tb. -/
def cinc : Form := fun x => match x.ops with
  | [a, c, b] => x.bare do let r ← x.release; return .cinc (← tile a) (← tile b) (← idx 'C' c) r.1 r.2
  | _ => none
/-- OP Cn, Tb. -/
def ctrSet (i : TReg → BitVec 4 → Instr) : Form := fun x => match x.ops with
  | [c, b] => x.bare do return i (← tile b) (← idx 'C' c)
  | _ => none
/-- CGET Ta, Cn. -/
def cget : Form := fun x => match x.ops with
  | [a, c] => x.bare do return .cget (← tile a) (← idx 'C' c)
  | _ => none
/-- FSET Ta, Fn. -/
def fset : Form := fun x => match x.ops with
  | [a, f] => x.bare do let r ← x.release; return .fset (← tile a) (← idx 'F' f) r.1 r.2
  | _ => none
/-- FCLR Fn. -/
def fclr : Form := fun x => match x.ops with
  | [f] => x.bare ((idx 'F' f).map .fclr)
  | _ => none
/-- TWEN Wn, Tb. -/
def twen : Form := fun x => match x.ops with
  | [w, b] => x.bare do let n ← reg 'W' 32 w; return .twen (← tile b) (BitVec.ofNat 4 n) (BitVec.ofNat 1 (n / 16))
  | _ => none
/-- TMR Qn, Tb. -/
def tmr : Form := fun x => match x.ops with
  | [q, b] => x.bare do let n ← reg 'Q' 4 q; return .tmr (← tile b) (BitVec.ofNat 2 n)
  | _ => none
/-- sp of POST and POSTH: .S6 and .S3 not both (R311). -/
def Args.sp (x : Args) : Option (BitVec 2) :=
  if x.suf.s6 && x.suf.s3 then none else some (if x.suf.s6 then 1 else if x.suf.s3 then 2 else 0)
/-- POST[.TR][.ZF][.S6][.S3] An, Ta, Tb. -/
def post : Form := fun x => match x.ops with
  | [n, a, b] => x.bare do
    return .post (← tile a) (← tile b) (← accReg n) (← x.sp) (classMask x.suf.cls) (BitVec.ofBool x.suf.tr) (BitVec.ofBool x.suf.zf)
  | _ => none
/-- POSTH[.TR][.ZF][.S6][.S3] An, Ta. -/
def posth : Form := fun x => match x.ops with
  | [n, a] => x.bare do return .posth (← tile a) (← accReg n) (← x.sp) (classMask x.suf.cls) (BitVec.ofBool x.suf.tr) (BitVec.ofBool x.suf.zf)
  | _ => none
/-- ACCRD Ta..Td, An, Tb. -/
def accrd : Form := fun x => match x.ops with
  | [a, n, b] => x.bare do let a ← range a; return .accrd a.1 (← tile b) (← accReg n) a.2
  | _ => none
/-- ACCZ An. -/
def accz : Form := fun x => match x.ops with
  | [n] => x.bare ((accReg n).map .accz)
  | _ => none
/-- ACCCFG An, mode. -/
def acccfg : Form := fun x => match x.ops with
  | [n, m] => x.bare do return .acccfg (← accReg n) (← word [("INT32", 0), ("FP32", 1), ("RELEASE", 2)] m)
  | _ => none
/-- OPAQ Ta, An. -/
def opaq : Form := fun x => match x.ops with
  | [a, n] => x.bare do return .opaq (← tile a) (← accReg n)
  | _ => none
/-- BR label, and BR cond, label ?Mk (R312). -/
def br : Form := fun x => match x.ops with
  | [l] => x.bare ((x.off l).map .br)
  | [c, l] => do return .brCond (← word conditions c) x.k (← x.off l)
  | _ => none
/-- CALL label. -/
def call : Form := fun x => match x.ops with
  | [l] => x.bare ((x.off l).map .call)
  | _ => none
/-- LOOP Tc, label. -/
def loop : Form := fun x => match x.ops with
  | [c, l] => x.bare do return .loop (← tile c) (← x.off l)
  | _ => none

/-- A mnemonic with the suffixes it may have and its assembly form. -/
structure Row where
  name : String
  sufs : List SufKind
  form : Form

/-- Rows of the system and shape groups (R298, R299): mnemonic, the suffixes it may have, its assembly form. -/
def systemRows : List Row :=
  [⟨"NOP", [], plain .nop⟩, ⟨"DONE", [], plain .done⟩, ⟨"RET", [], plain .ret⟩, ⟨"BRK", [], plain .brk⟩, ⟨"CKPT", [], plain .ckpt⟩,
    ⟨"TRAP", [], imm 12 .trap⟩, ⟨"FROST", [], imm 8 .frost⟩, ⟨"RFT", [], rft⟩, ⟨"CSRR", [], csrr⟩, ⟨"CSRW", [], csrw⟩,
    ⟨"TNOW", [], one .tnow⟩, ⟨"HARV", [], one .harv⟩, ⟨"PAIRSIG", [], one .pairsig⟩, ⟨"SEED", [], one .seed⟩, ⟨"CINV", [], cinv⟩,
    ⟨"TLBI", [], tlbi⟩, ⟨"SLOTRD", [], slotrd⟩, ⟨"SLOTWR", [], slotwr⟩, ⟨"CTXLD", [], ctxPtr .ctxld⟩, ⟨"CTXSV", [], ctxPtr .ctxsv⟩,
    ⟨"CTXEV", [], imm 2 .ctxev⟩, ⟨"RESUME", [], two .resume⟩, ⟨"STEP", [.row], step⟩, ⟨"SHAPEI", [], shapei⟩, ⟨"RAGGEDI", [], raggedi⟩]

/-- Rows of the immediate majors, of the integer, logic, shift and MAD groups, and of CMP (R300 to R302): mnemonic, the suffixes it may have, its assembly form. -/
def integerRows : List Row :=
  [⟨"MOVI", [], movi⟩, ⟨"MOVK", [], movk⟩, ⟨"ADDI", [], abi true .addi⟩, ⟨"MULI", [], abi true .muli⟩, ⟨"ANDI", [], abi false .andi⟩,
    ⟨"ORI", [], abi false .ori⟩, ⟨"XORI", [], abi false .xori⟩, ⟨"SHI", [], shi⟩, ⟨"ADD", [], abck .add⟩, ⟨"SUB", [], abck .sub⟩,
    ⟨"ADDS", [], abck .adds⟩, ⟨"ADDSU", [], abck .addsu⟩, ⟨"SUBS", [], abck .subs⟩, ⟨"SUBSU", [], abck .subsu⟩, ⟨"MUL", [], abck .mul⟩,
    ⟨"MULH", [], abck .mulh⟩, ⟨"MULHU", [], abck .mulhu⟩, ⟨"MIN", [], abck .min⟩, ⟨"MAX", [], abck .max⟩, ⟨"MINU", [], abck .minu⟩,
    ⟨"MAXU", [], abck .maxu⟩, ⟨"AVGU", [], abck .avgu⟩, ⟨"AND", [], abck .and⟩, ⟨"OR", [], abck .or⟩, ⟨"XOR", [], abck .xor⟩,
    ⟨"ANDN", [], abck .andn⟩, ⟨"SHL", [], abck .shl⟩, ⟨"SHR", [], abck .shr⟩, ⟨"SAR", [], abck .sar⟩, ⟨"ROL", [], abck .rol⟩,
    ⟨"MAD", [], abck .mad⟩, ⟨"ABS", [], abk .abs⟩, ⟨"NEG", [], abk .neg⟩, ⟨"NOT", [], abk .not⟩, ⟨"POPC", [], abk .popc⟩,
    ⟨"CLZ", [], abk .clz⟩, ⟨"CTZ", [], abk .ctz⟩, ⟨"MOV", [], abk .mov⟩, ⟨"TRN", [], abk .trn⟩, ⟨"ZERO", [], ak .zero⟩,
    ⟨"CMP", [.cond], cmp⟩, ⟨"FCMP", [.cond], fcmp⟩]

/-- Rows of the movement and mask groups (R303, R304): mnemonic, the suffixes it may have, its assembly form. -/
def tileRows : List Row :=
  [⟨"BROW", [], abck .brow⟩, ⟨"BCOL", [], abck .bcol⟩, ⟨"XTR", [], abck .xtr⟩, ⟨"INS", [], abck .ins⟩, ⟨"SLC", [], abck .slc⟩,
    ⟨"SHE", [], abck .she⟩, ⟨"ROTE", [], abck .rote⟩, ⟨"PERM", [], abck .perm⟩, ⟨"PERM8", [], abck .perm8⟩, ⟨"LUT16", [], abck .lut16⟩,
    ⟨"SEL", [], abck .sel⟩, ⟨"SHAPE", [], two .shape⟩, ⟨"RAGGED", [], two .ragged⟩, ⟨"GSHAPE", [], two .gshape⟩,
    ⟨"MAND", [], masks3 .mand⟩, ⟨"MOR", [], masks3 .mor⟩, ⟨"MXOR", [], masks3 .mxor⟩, ⟨"MNOT", [], masks2 .mnot⟩,
    ⟨"MPOP", [], tileMask .mpop⟩, ⟨"MFST", [], tileMask .mfst⟩, ⟨"MST", [], tileMask .mst⟩, ⟨"MLD", [], maskTile .mld⟩,
    ⟨"MSET", [], maskTile .mset⟩]

/-- Rows of the float, fused, approximate, conversion and reduction groups (R305): mnemonic, the suffixes it may have, its assembly form. -/
def floatRows : List Row :=
  [⟨"FADD", [.rm], abckr .fadd⟩, ⟨"FSUB", [.rm], abckr .fsub⟩, ⟨"FMUL", [.rm], abckr .fmul⟩, ⟨"FDIV", [.rm], abckr .fdiv⟩,
    ⟨"FSCL", [.rm], abckr .fscl⟩, ⟨"FMA", [.rm], abckr .fma⟩, ⟨"FMS", [.rm], abckr .fms⟩, ⟨"FNMA", [.rm], abckr .fnma⟩,
    ⟨"MXSC", [.rm], abckr .mxsc⟩, ⟨"DOT", [.rm], abckr .dot⟩, ⟨"FMIN", [], abck .fmin⟩, ⟨"FMAX", [], abck .fmax⟩,
    ⟨"FCPYS", [], abck .fcpys⟩, ⟨"FSQRT", [.rm], abkr .fsqrt⟩, ⟨"FRND", [.rm], abkr .frnd⟩, ⟨"CVT", [.rm], abkr .cvt⟩,
    ⟨"CVTQ", [.rm], abkr .cvtq⟩, ⟨"FRSUM", [.rm], abkr .frsum⟩, ⟨"FSCAN", [.rm], abkr .fscan⟩, ⟨"FCSUM", [.rm], abkr .fcsum⟩,
    ⟨"FABS", [], abk .fabs⟩, ⟨"FNEG", [], abk .fneg⟩, ⟨"FCLASS", [], abk .fclass⟩, ⟨"FRCP", [], abk .frcp⟩, ⟨"FRSQ", [], abk .frsq⟩,
    ⟨"FEXP2", [], abk .fexp2⟩, ⟨"FLOG2", [], abk .flog2⟩, ⟨"CVTS", [], abk .cvts⟩, ⟨"CVTD", [], abk .cvtd⟩, ⟨"RSUM", [], abk .rsum⟩,
    ⟨"RMAX", [], abk .rmax⟩, ⟨"RMIN", [], abk .rmin⟩, ⟨"SCAN", [], abk .scan⟩, ⟨"CSUM", [], abk .csum⟩, ⟨"MXQ", [], acbk .mxq⟩,
    ⟨"RAMX", [], acbk .ramx⟩]

/-- Rows of the memory and stream groups (R306 to R309): mnemonic, the suffixes it may have, its assembly form. -/
def memoryRows : List Row :=
  [⟨"LD", [.cls, .scope], load .ld⟩, ⟨"LDB", [.cls, .scope], load .ldb⟩, ⟨"ST", [.cls, .scope], store⟩, ⟨"FMTTAB", [.cls, .scope], fmttab⟩,
    ⟨"COPY", [], copy⟩, ⟨"FENCE", [.clss, .scope], fence⟩, ⟨"AADD", [.cls, .scope, .ord], atom .aadd⟩,
    ⟨"AMIN", [.cls, .scope, .ord], atom .amin⟩, ⟨"AMAX", [.cls, .scope, .ord], atom .amax⟩, ⟨"AMINU", [.cls, .scope, .ord], atom .aminu⟩,
    ⟨"AMAXU", [.cls, .scope, .ord], atom .amaxu⟩, ⟨"AAND", [.cls, .scope, .ord], atom .aand⟩, ⟨"AOR", [.cls, .scope, .ord], atom .aor⟩,
    ⟨"AXOR", [.cls, .scope, .ord], atom .axor⟩, ⟨"ASWP", [.cls, .scope, .ord], atom .aswp⟩, ⟨"ACAS", [.cls, .scope, .ord], atom .acas⟩,
    ⟨"AINCB", [.cls, .scope, .ord], atom .aincb⟩, ⟨"AFADD", [.cls, .scope, .ord], atom .afadd⟩, ⟨"STRM", [], two .strm⟩,
    ⟨"STRMX", [], two .strmx⟩, ⟨"STRMS", [], two .strms⟩, ⟨"STRMA", [], two .strma⟩, ⟨"SSTAT", [], two .sstat⟩, ⟨"SCLOSE", [], one .sclose⟩]

/-- Rows of the message, counter and matrix groups and of the branches (R310 to R312): mnemonic, the suffixes it may have, its assembly form. -/
def messageRows : List Row :=
  [⟨"SEND", [.clss, .scope, .rel], send .send⟩, ⟨"SENDR", [.clss, .scope, .rel], send .sendr⟩,
    ⟨"SENDAT", [.clss, .scope, .rel], send .sendat⟩, ⟨"REPLY", [.clss, .scope, .rel], reply⟩, ⟨"FWD", [.clss, .scope, .rel], fwd⟩,
    ⟨"HDR", [], one .hdr⟩, ⟨"CINC", [.clss, .scope, .rel], cinc⟩, ⟨"CSET", [], ctrSet .cset⟩, ⟨"CARM", [], ctrSet .carm⟩,
    ⟨"CGET", [], cget⟩, ⟨"FSET", [.clss, .scope, .rel], fset⟩, ⟨"FCLR", [], fclr⟩, ⟨"TWEN", [], twen⟩, ⟨"TMR", [], tmr⟩,
    ⟨"POST", [.clss, .post], post⟩, ⟨"POSTH", [.clss, .post], posth⟩, ⟨"ACCRD", [], accrd⟩, ⟨"ACCZ", [], accz⟩, ⟨"ACCCFG", [], acccfg⟩,
    ⟨"OPAQ", [], opaq⟩, ⟨"BR", [], br⟩, ⟨"CALL", [], call⟩, ⟨"LOOP", [], loop⟩]

/-- Every mnemonic (R298 to R312). -/
def rows : List Row := systemRows ++ integerRows ++ tileRows ++ floatRows ++ memoryRows ++ messageRows

/-- The row of a mnemonic. -/
def rowOf (w : Name) : Option Row := rows.find? fun r => r.name.toList == w

/-- May a label, handler or constant not have a name (R315)? -/
def reserved (w : Name) : Bool :=
  (rowOf w).isSome || (keyword formats w).isSome || (keyword conditions w).isSome || (keyword cmpConds w).isSome || (keyword fcmpConds w).isSome
    || [('T', 16), ('M', 4), ('A', 8), ('C', 16), ('F', 16), ('W', 32), ('Q', 4)].any fun p => (regNo p.1 p.2 w).isSome

/-- The operand mask ?Mk taken off the last operand (R317). -/
def takeMask : List (List Tok) → Option (List (List Tok) × Option MReg)
  | [] => some ([], none)
  | [t] => match t.reverse with
    | .word w :: .sym '?' :: l => (maskReg [.word w]).map fun k => ([l.reverse], some k)
    | _ => some ([t], none)
  | t :: l => (takeMask l).map fun r => (t :: r.1, r.2)

/-- The instruction of a statement at an address. -/
def instrOf (look : Name → Option (BitVec 64)) (at_ : BitVec 64) (name : Name) (sufs : List Name) (ops : List (List Tok)) : Option Instr := do
  let r ← rowOf name
  let u ← readSufs sufs
  let m ← takeMask ops
  if u.fits r.sufs then r.form { ops := m.1, mask := m.2, suf := u, look := look, at_ := at_ } else none

/-- The word of a statement at an address; no word that fails steps 1 to 4 of R297 (R320). -/
def wordOf (look : Name → Option (BitVec 64)) (at_ : BitVec 64) (name : Name) (sufs : List Name) (ops : List (List Tok)) : Option (BitVec 32) := do
  let i ← instrOf look at_ name sufs ops
  let w ← encode i
  match decode w with
  | .ok j => if j = i then some w else none
  | .error _ => none

end Sys2Proof.Asm
end

