-- ==== Sys2Proof/Machine/Image.lean ====
section
/-! DEFINITION. Directives of Ebael and the job image that ebas emits (11 R314 to R323, log 41). -/

namespace Sys2Proof.Asm

open Sys2Proof.Machine

/-- What takes place in a section: an instruction, values of a size, zero bytes. -/
inductive Item where
  | instr (name : Name) (suffixes : List Name) (ops : List (List Tok))
  | values (size : Nat) (es : List Expr)
  | zeros (n : Nat)
deriving DecidableEq, Repr

/-- Bytes of an item. -/
def Item.size : Item → Nat
  | .instr _ _ _ => 4
  | .values n es => n * es.length
  | .zeros n => n

/-- A section (R319): global or vault, its first address or offset, its items, its bytes so far. -/
structure Sect where
  global : Bool
  base : Nat
  items : List Item
  size : Nat
deriving DecidableEq, Repr

/-- What the lines of a source come to (R319): sections in order, the last one open; names with their values; labels with the section that holds them; the
directives that say something of the job; whether .end was met. -/
structure Source where
  sects : List Sect
  env : List (Name × Expr)
  labels : List (Name × Nat × Nat)
  dirs : List (Name × List (List Tok))
  ended : Bool
deriving DecidableEq, Repr

/-- No line read. -/
def Source.empty : Source := { sects := [], env := [], labels := [], dirs := [], ended := false }

/-- The value of a name so far. -/
def Source.look (s : Source) (w : Name) : Option (BitVec 64) := lookUp s.env (s.env.length + 1) w
/-- The value of an operand so far. -/
def Source.val (s : Source) (t : List Tok) : Option Nat := (exprOf t).bind fun e => (e.eval s.look).map (·.toNat)
/-- The open section. -/
def Source.open_ (s : Source) : Option Sect := s.sects.getLast?
/-- A name defined: once, and none that R315 reserves. -/
def Source.define (s : Source) (w : Name) (e : Expr) : Option Source :=
  if reserved w || s.env.any (fun p => p.1 == w) then none else some { s with env := s.env ++ [(w, e)] }
/-- An item put at the location counter. -/
def Source.put (s : Source) (i : Item) : Option Source :=
  match s.open_ with
  | some x => some { s with sects := s.sects.dropLast ++ [{ x with items := x.items ++ [i], size := x.size + i.size }] }
  | none => none
/-- Zero bytes up to a multiple of n. -/
def Source.align (s : Source) (n : Nat) : Option Source :=
  match s.open_ with
  | some x => s.put (.zeros ((n - (x.base + x.size) % n) % n))
  | none => none
/-- A label at the location counter. -/
def Source.label (s : Source) (w : Name) : Option Source :=
  match s.open_ with
  | some x => (s.define w (.num (BitVec.ofNat 64 (x.base + x.size)))).map fun t => { t with labels := t.labels ++ [(w, s.sects.length - 1, x.size)] }
  | none => none
/-- Is the open section a global one? -/
def Source.inGlobal (s : Source) : Bool := (s.open_.map (·.global)).getD false

/-- Is a number a power of two up to 2^31? -/
def powerOfTwo (n : Nat) : Bool := (List.range 32).any fun i => n == 2 ^ i

/-- A directive read (R319). -/
def Source.directive (s : Source) (name : Name) (ops : List (List Tok)) : Option Source :=
  let later : Option Source := some { s with dirs := s.dirs ++ [(name, ops)] }
  let values (n : Nat) : Option Source := if ops.isEmpty then none else (ops.mapM exprOf).bind fun es => s.put (.values n es)
  if name = "end".toList then (if ops.isEmpty then some { s with ended := true } else none)
  else if name = "byte".toList then values 1
  else if name = "half".toList then values 2
  else if name = "word".toList then values 4
  else if name = "dword".toList then values 8
  else if name = "space".toList then
    match ops with
    | [n] => (s.val n).bind fun n => if n < 2 ^ 32 then s.put (.zeros n) else none
    | _ => none
  else if name = "align".toList then
    match ops with
    | [n] => (s.val n).bind fun n => if powerOfTwo n then s.align n else none
    | _ => none
  else if name = "equ".toList then
    match ops with
    | [[.word w], e] => (exprOf e).bind (s.define w)
    | _ => none
  else if name = "data".toList then
    match ops with
    | [[.word w], a] => (s.val a).bind fun a =>
      if a < 2 ^ 48 then (keyword [("global", true), ("vault", false)] w).map fun g => { s with sects := s.sects ++ [{ global := g, base := a, items := [], size := 0 }] }
      else none
    | _ => none
  else if name = "handler".toList then
    match ops with
    | [.word w] :: _ => if s.inGlobal then ((s.align 4).bind (·.label w)).map fun t => { t with dirs := t.dirs ++ [(name, ops)] } else none
    | _ => none
  else if ["job", "asid", "region", "trigger", "counter", "flag", "code8", "initmsg"].any fun d => name == d.toList then later
  else none

/-- A line read (R315): after .end nothing is. Instructions lie in a global section (R320). -/
def Source.line (s : Source) (l : List Char) : Option Source :=
  if s.ended then some s
  else do
    let t ← lexLine l
    let r ← stmtOf t
    let s ← match r.1 with
      | some w => s.label w
      | none => some s
    match r.2 with
    | .blank => some s
    | .directive n ops => s.directive n ops
    | .instr n u ops => if s.inGlobal then s.put (.instr n u ops) else none

/-- The lines of a text read. -/
def readSource (text : String) : Option Source := (linesOf text.toList).foldl (fun s l => s.bind (·.line l)) (some Source.empty)

/-- A value of n bytes, signed or unsigned. -/
def valueBytes (n : Nat) (v : BitVec 64) : Option (List Byte) :=
  let ok : Bool := n == 8 || decide (v.toNat < 2 ^ (8 * n)) || decide (-(2 : Int) ^ (8 * n - 1) ≤ v.toInt ∧ v.toInt < 0)
  if ok then some (bytesOf n v.toNat) else none

/-- The bytes of an item at an address; an instruction's address is a multiple of 4 (R293). -/
def Source.itemBytes (s : Source) (at_ : Nat) : Item → Option (List Byte)
  | .instr n u ops => if at_ % 4 = 0 then (wordOf s.look (BitVec.ofNat 64 at_) n u ops).map fun w => bytesOf 4 w.toNat else none
  | .values n es => (es.mapM fun (e : Expr) => (e.eval s.look).bind (valueBytes n)).map List.flatten
  | .zeros n => some (List.replicate n 0)

/-- The bytes of items from an address on. -/
def Source.sectBytes (s : Source) : Nat → List Item → Option (List Byte)
  | _, [] => some []
  | at_, i :: l => (s.itemBytes at_ i).bind fun b => (s.sectBytes (at_ + i.size) l).map (b ++ ·)

/-- A section as it is emitted (R322): kind, target, bytes. -/
structure Emitted where
  global : Bool
  base : Nat
  bytes : List Byte
deriving DecidableEq, Repr

/-- Do two sections overlap (R320)? -/
def Emitted.meets (a b : Emitted) : Bool :=
  a.global == b.global && decide (a.base < b.base + b.bytes.length ∧ b.base < a.base + a.bytes.length)
/-- Does no section meet a later one? -/
def apartAll : List Emitted → Bool
  | [] => true
  | a :: l => !l.any (a.meets ·) && apartAll l

/-- The directives of a name. -/
def Source.all (s : Source) (name : String) : List (List (List Tok)) := (s.dirs.filter fun d => d.1 == name.toList).map (·.2)
/-- The one directive of a name. -/
def Source.one (s : Source) (name : String) : Option (List (List Tok)) := match s.all name with
  | [d] => some d
  | _ => none
/-- What stands after key = in an operand. -/
def keyed (key : String) : List Tok → Option (List Tok)
  | .word w :: .sym '=' :: l => if w = key.toList then some l else none
  | _ => none
/-- Optional operands of some keys, each at most once: the value of one, or its default. -/
def Source.option (s : Source) (keys : List String) (ops : List (List Tok)) (key : String) (default : Nat) : Option Nat :=
  if ops.all (fun t => keys.any fun k => (keyed k t).isSome) then
    match ops.filterMap (keyed key) with
    | [] => some default
    | [t] => s.val t
    | _ => none
  else none
/-- A value in a range. -/
def within (lo hi : Nat) (v : Option Nat) : Option Nat := v.filter fun n => decide (lo ≤ n ∧ n ≤ hi)

/-- A handler (R319): its name and selector, and its table entry (R78). -/
structure HandlerDef where
  name : Name
  sel : Nat
  entry : BitVec 128
deriving DecidableEq, Repr

/-- A .handler directive. -/
def Source.handlerOf (s : Source) : List (List Tok) → Option HandlerDef
  | [.word w] :: sel :: rest => do
    let n ← within 0 0xFFE ((keyed "sel" sel).bind s.val)
    let fmt := rest.map fun t => match keyed "fmt" t with
      | some [.word f] => match keyword formats f with
        | some c => [.word "fmt".toList, .sym '=', .num c]
        | none => t
      | _ => t
    let f ← within 0 16 (s.option ["fmt", "budget"] fmt "fmt" 6)
    let b ← within 0 (2 ^ 24) (s.option ["fmt", "budget"] fmt "budget" 0)
    let code ← s.look w
    some { name := w, sel := n, entry := (code.setWidth 48 : BitVec 48) ++ BitVec.ofNat 5 f ++ (1 : BitVec 1) ++ (0 : BitVec 2) ++ BitVec.ofNat 25 b ++ (0 : BitVec 47) }
  | _ => none

/-- The handler table (R322): every entry up to the highest selector, unused ones zero. -/
def tableBytes (hs : List HandlerDef) : List Byte :=
  let n := (hs.map (·.sel)).foldl Nat.max 0 + 1
  if hs.isEmpty then [] else (List.range n).flatMap fun i => bytesOf 16 (((hs.find? fun h => h.sel == i).map (·.entry.toNat)).getD 0)

/-- A .trigger directive (R314): the word's number and value, enabled; a malformed word is refused (R84, R320). -/
def Source.triggerOf (s : Source) (hs : List HandlerDef) : List (List Tok) → Option (Nat × BitVec 32)
  | [w, k, i, p, [.word h]] => do
    let n ← reg 'W' 32 w
    let kind ← word [("flag", (0 : BitVec 2)), ("counter", 1), ("tag", 2), ("timer", 3)] k
    let i ← within 0 15 (s.val i)
    let p ← within 0 31 (s.val p)
    let x ← hs.find? fun x => x.name == h
    let v : BitVec 32 := kind ++ BitVec.ofNat 4 i ++ BitVec.ofNat 5 p ++ (1 : BitVec 1) ++ (0 : BitVec 8) ++ BitVec.ofNat 12 x.sel
    if (trigBad v).isNone then some (n, v) else none
  | _ => none

/-- A .counter directive: index, target, value (R323). -/
def Source.counterOf (s : Source) : List (List Tok) → Option (Nat × Nat × Nat)
  | c :: t :: v => do
    let n ← reg 'C' 16 c
    let t ← within 0 (2 ^ 32 - 1) (s.val t)
    let v ← match v with
      | [] => some 0
      | [v] => within 0 (2 ^ 32 - 1) (s.val v)
      | _ => none
    some (n, t, v)
  | _ => none

/-- A list with a value at one place of a list of zeros, a later one over an earlier. -/
def placeAll (size : Nat) (l : List (Nat × Nat)) : List Nat := l.foldl (fun acc p => acc.set p.1 p.2) (List.replicate size 0)

/-- Bytes at a label. -/
def Source.bytesAt (s : Source) (sects : List Emitted) (w : Name) (n : Nat) : Option (List Byte) := do
  let l ← s.labels.find? fun p => p.1 == w
  let x ← sects[l.2.1]?
  let b := (x.bytes.drop l.2.2).take n
  if b.length = n then some b else none

/-- An .initmsg directive: a record laid out as in a message window (R322), for a job. -/
def Source.initOf (s : Source) (sects : List Emitted) (job : Nat) : List (List Tok) → Option (List Byte)
  | r :: a :: d :: rest => do
    let r ← s.val r
    let a ← s.val a
    let d ← s.val d
    let p ← match rest with
      | [] => some []
      | [[.word w], n] => (within 0 256 (s.val n)).bind fun n => if n % 16 = 0 then s.bytesAt sects w n else none
      | _ => none
    some (bytesOf 8 d ++ bytesOf 8 r ++ bytesOf 8 a ++ bytesOf 2 job ++ [0, 0] ++ bytesOf 2 p.length ++ [0, 0] ++ p ++ List.replicate (272 - p.length) 0)
  | _ => none

/-- A .code8 directive: the table's bytes, in a global section, checked (R199, R320). -/
def Source.code8Of (s : Source) (sects : List Emitted) : List (List Tok) → Option (List Byte)
  | [[.word w]] => do
    let l ← s.labels.find? fun p => p.1 == w
    let x ← sects[l.2.1]?
    let b ← s.bytesAt sects w 1024
    if x.global && code8Ok (BitVec.ofNat 8192 (natOf b)) then some b else none
  | _ => none

/-- What ebas emits, before it is laid out (R321, R322). -/
structure Built where
  job : Nat
  asid : Nat
  entries : Nat
  ranks : Nat
  first : Nat
  last : Nat
  vault : Nat
  table : Nat
  sects : List Emitted
  template : List Byte
  messages : List (List Byte)
  code8 : Option (List Byte)
deriving DecidableEq, Repr

/-- a-b of .region. -/
def Source.coresOf (s : Source) (t : List Tok) : Option (Nat × Nat) := do
  let a ← within 0 255 (s.val (t.takeWhile (· != .sym '-')))
  let b ← within 0 255 (s.val ((t.dropWhile (· != .sym '-')).drop 1))
  if a ≤ b then some (a, b) else none

/-- The context template (R322, R323): trigger words, targets and values of counters, armed bits, flags, pairing. -/
def templateOf (trigs : List (Nat × BitVec 32)) (ctrs : List (Nat × Nat × Nat)) (flags : List Nat) (pair : Nat) : List Byte :=
  let bits (l : List Nat) : Nat := l.eraseDups.foldl (fun v n => v + 2 ^ n) 0
  (placeAll 32 (trigs.map fun p => (p.1, p.2.toNat))).flatMap (bytesOf 4) ++ (placeAll 16 (ctrs.map fun p => (p.1, p.2.1))).flatMap (bytesOf 4)
    ++ (placeAll 16 (ctrs.map fun p => (p.1, p.2.2))).flatMap (bytesOf 4) ++ bytesOf 2 (bits (ctrs.map (·.1))) ++ bytesOf 2 (bits flags)
    ++ bytesOf 1 (if pair = 0 then 0 else 1 + 2 * (pair - 1)) ++ List.replicate 59 0

/-- A source assembled (R319, R320): none where ebas refuses it. -/
def Source.build (s : Source) : Option Built := do
  let job ← s.one "job"
  let (id, table, pair) ← match job with
    | i :: t :: rest => do
      let i ← within 1 0xFFFF (s.val i)
      let t ← within 0 (2 ^ 48 - 1) ((keyed "table" t).bind s.val)
      let p ← match rest with
        | [] => some 0
        | [p] => within 1 64 ((keyed "pair" p).bind s.val)
        | _ => none
      if t % 16 = 0 then some (i, t, p) else none
    | _ => none
  let asid ← match ← s.one "asid" with
    | [n] => within 1 1023 (s.val n)
    | _ => none
  let (ranks, first, last, vault) ← match ← s.one "region" with
    | [r, c, v] => do
      let r ← within 1 (2 ^ 32 - 1) ((keyed "ranks" r).bind s.val)
      let c ← (keyed "cores" c).bind s.coresOf
      let v ← within 0 (6 * 2 ^ 20) ((keyed "vault" v).bind s.val)
      if v % 64 = 0 then some (r, c.1, c.2, v) else none
    | _ => none
  let hs ← (s.all "handler").mapM s.handlerOf
  let sects ← s.sects.mapM fun x => (s.sectBytes x.base x.items).map fun b => ({ global := x.global, base := x.base, bytes := b } : Emitted)
  let trigs ← (s.all "trigger").mapM (s.triggerOf hs)
  let ctrs ← (s.all "counter").mapM s.counterOf
  let flags ← (s.all "flag").mapM fun d => match d with
    | [f] => reg 'F' 16 f
    | _ => none
  let msgs ← (s.all "initmsg").mapM (s.initOf sects id)
  let code8 ← match s.all "code8" with
    | [] => some none
    | [d] => (s.code8Of sects d).map some
    | _ => none
  let names ← s.env.mapM fun p => s.look p.1
  let all := (if hs.isEmpty then [] else [{ global := true, base := table, bytes := tableBytes hs }]) ++ sects
  if names.length == s.env.length && ((hs.map (·.sel)).eraseDups.length == hs.length) && apartAll all then
    some { job := id, asid := asid, entries := (tableBytes hs).length / 16, ranks := ranks, first := first, last := last, vault := vault, table := table,
           sects := all.filter fun x => !x.bytes.isEmpty, template := templateOf trigs ctrs flags pair, messages := msgs, code8 := code8 }
  else none

/-- A text assembled. -/
def assemble (text : String) : Option Built := (readSource text).bind (·.build)

/-- Section records (R322) with the offset of each section's bytes from the first one's. -/
def sectRecords : Nat → List Emitted → List Byte
  | _, [] => []
  | off, x :: l => bytesOf 8 x.base ++ bytesOf 8 off ++ bytesOf 8 x.bytes.length ++ bytesOf 1 (if x.global then 1 else 2) ++ List.replicate 7 0
      ++ sectRecords (off + x.bytes.length) l

/-- The job image (R321): header, section records, initial messages, template, code8 image, bytes of the sections (log 41). -/
def Built.image (b : Built) : List Byte :=
  let msgOff := 128 + 32 * b.sects.length
  let tmplOff := msgOff + 304 * b.messages.length
  let code8Off := tmplOff + 320
  let code8 := b.code8.getD []
  let data := code8Off + code8.length
  let body := sectRecords data b.sects ++ b.messages.flatten ++ b.template ++ code8 ++ b.sects.flatMap (·.bytes)
  bytesOf 4 0x4C414245 ++ bytesOf 2 1 ++ bytesOf 2 b.job ++ bytesOf 2 b.asid ++ bytesOf 2 b.entries ++ bytesOf 4 b.sects.length
    ++ bytesOf 4 b.messages.length ++ bytesOf 4 b.ranks ++ bytesOf 1 b.first ++ bytesOf 1 b.last ++ [0, 0] ++ bytesOf 4 b.vault ++ bytesOf 8 b.table
    ++ bytesOf 8 128 ++ bytesOf 8 msgOff ++ bytesOf 8 (if b.code8.isSome then code8Off else 0) ++ bytesOf 8 tmplOff ++ bytesOf 8 (128 + body.length)
    ++ shake256 body 32 ++ List.replicate 16 0 ++ body

/-- The word at a GLOBAL address of what is emitted. -/
def Built.word (b : Built) (a : Nat) : Option (BitVec 32) :=
  (b.sects.find? fun x => x.global && decide (x.base ≤ a ∧ a + 4 ≤ x.base + x.bytes.length)).map fun x => BitVec.ofNat 32 (natOf ((x.bytes.drop (a - x.base)).take 4))
/-- The handler-table entry of a selector. -/
def Built.entry (b : Built) (sel : Nat) : Option (BitVec 128) :=
  (b.sects.find? fun x => x.global && x.base == b.table).map fun x => BitVec.ofNat 128 (natOf ((x.bytes.drop (16 * sel)).take 16))

end Sys2Proof.Asm
end

