-- ==== Sys2Proof/Laws/Assembly.lean ====
section
/-! SUPPORT. What the assembler can answer: a word of a legal instruction, or nothing (R320). -/

namespace Sys2Proof.Asm

/-- A word that ebas emits decodes to the instruction that the statement's form names (R320). -/
theorem wordOf_decodes {look : Name → Option (BitVec 64)} {pc : BitVec 64} {name : Name} {sufs : List Name}
    {ops : List (List Tok)} {w : BitVec 32} (h : wordOf look pc name sufs ops = some w) :
    ∃ i, instrOf look pc name sufs ops = some i ∧ encode i = some w ∧ decode w = .ok i := by
  simp only [wordOf, Option.bind_eq_bind, Option.bind_eq_some_iff] at h
  obtain ⟨i, hi, v, hv, h⟩ := h
  split at h
  · split at h
    · cases h; subst_vars; exact ⟨_, hi, hv, ‹_›⟩
    · cases h
  · cases h

end Sys2Proof.Asm
end

