-- ==== Sys2Proof/Laws/Packets.lean ====
section
/-! SUPPORT. What protecting a packet and checking it do to each other (02 R38, R43, R44): the header is read back, the trailer holds, the text returns. -/

namespace Sys2Proof.Machine

theorem natOf_bytesOf (n x : Nat) : natOf (bytesOf n x) = x % 256 ^ n := by
  induction n generalizing x with
  | zero => simp [bytesOf, natOf, Nat.mod_one]
  | succ n ih =>
    have h := ih (x / 256)
    simp only [natOf] at h
    simp only [bytesOf, natOf, List.foldr_cons, h, BitVec.toNat_ofNat]
    rw [show 256 ^ (n + 1) = 256 * 256 ^ n by rw [Nat.pow_succ, Nat.mul_comm], Nat.mod_mul]
    omega

theorem length_bytesOf (n x : Nat) : (bytesOf n x).length = n := by
  induction n generalizing x with
  | zero => rfl
  | succ n ih => simp [bytesOf, ih]

theorem length_xorBytes (t k : List Byte) : (xorBytes t k).length = t.length := by
  induction t generalizing k with
  | nil => rfl
  | cons a t ih => simp [xorBytes, ih]

theorem xorBytes_xorBytes (t k : List Byte) : xorBytes (xorBytes t k) k = t := by
  induction t generalizing k with
  | nil => rfl
  | cons a t ih => simp [xorBytes, ih]

theorem length_gcmText (ks : List (List Byte)) (n t : List Byte) : (gcmText ks n t).length = t.length := length_xorBytes _ _

theorem gcmText_gcmText (ks : List (List Byte)) (n t : List Byte) : gcmText ks n (gcmText ks n t) = t := by
  simp only [gcmText, length_xorBytes, xorBytes_xorBytes]

theorem length_gcmTag (ks : List (List Byte)) (n a t : List Byte) : (gcmTag ks n a t).length = 16 := by
  simp [gcmTag, length_xorBytes, bigBytes, length_bytesOf]

/-- Protected bytes are a text of the same length and 16 B that check it, and the bare text is the one protected. -/
theorem protect_spec (mode : BitVec 2) (hm : mode ≠ 3) (ks : List (List Byte)) (n head text : List Byte) :
    ∃ c t, protect mode ks n head text = c ++ t ∧ c.length = text.length ∧ t.length = 16 ∧ trailerOk mode ks n head c t = true ∧ bare mode ks n c = text := by
  have h : mode = 0 ∨ mode = 1 ∨ mode = 2 := by
    revert hm
    revert mode
    decide
  rcases h with rfl | rfl | rfl
  · exact ⟨text, bytesOf 4 (crc32c (head ++ text)).toNat ++ List.replicate 12 0, by simp [protect], rfl, by simp [length_bytesOf], by simp [trailerOk], rfl⟩
  · exact ⟨text, gcmTag ks n (head ++ text) [], by simp [protect], rfl, length_gcmTag .., by simp [trailerOk], rfl⟩
  · exact ⟨gcmText ks n text, gcmTag ks n head (gcmText ks n text), by simp [protect], length_gcmText .., length_gcmTag .., by simp [trailerOk],
      gcmText_gcmText ..⟩

theorem modeOf_ne (x : Port) (vc : BitVec 2) : modeOf x vc ≠ 3 := by
  unfold modeOf
  simp only []
  split
  · decide
  · simp_all

/-- The 128 bits of a link header hold its fields (R38). -/
theorem LinkHead.read (h : LinkHead) :
    ({ pathSeq := h.word.extractLsb' 96 32, linkSeq := h.word.extractLsb' 84 12, vc := h.word.extractLsb' 82 2, mode := h.word.extractLsb' 80 2,
       epoch := h.word.extractLsb' 79 1, length := h.word.extractLsb' 76 3, argc := h.word.extractLsb' 72 4, hops := h.word.extractLsb' 64 8,
       srcGw := h.word.extractLsb' 56 8 } : LinkHead) = h := by
  cases h
  simp only [LinkHead.word, LinkHead.mk.injEq]
  refine ⟨?_, ?_, ?_, ?_, ?_, ?_, ?_, ?_, ?_⟩
  · iterate 8 refine (BitVec.extractLsb'_append_eq_of_le (by decide)).trans ?_
    exact BitVec.extractLsb'_append_eq_left
  · iterate 8 refine (BitVec.extractLsb'_append_eq_of_le (by decide)).trans ?_
    exact BitVec.extractLsb'_append_eq_right
  · iterate 7 refine (BitVec.extractLsb'_append_eq_of_le (by decide)).trans ?_
    exact BitVec.extractLsb'_append_eq_right
  · iterate 6 refine (BitVec.extractLsb'_append_eq_of_le (by decide)).trans ?_
    exact BitVec.extractLsb'_append_eq_right
  · iterate 5 refine (BitVec.extractLsb'_append_eq_of_le (by decide)).trans ?_
    exact BitVec.extractLsb'_append_eq_right
  · iterate 4 refine (BitVec.extractLsb'_append_eq_of_le (by decide)).trans ?_
    exact BitVec.extractLsb'_append_eq_right
  · iterate 3 refine (BitVec.extractLsb'_append_eq_of_le (by decide)).trans ?_
    exact BitVec.extractLsb'_append_eq_right
  · iterate 2 refine (BitVec.extractLsb'_append_eq_of_le (by decide)).trans ?_
    exact BitVec.extractLsb'_append_eq_right
  · refine (BitVec.extractLsb'_append_eq_of_le (by decide)).trans ?_
    exact BitVec.extractLsb'_append_eq_right

/-- The link header that a packet is formed with (R38). -/
def headOf (y : Port) (pathSeq : BitVec 32) (srcGw hops : BitVec 8) (vc : BitVec 2) (m : Msg) : LinkHead :=
  { pathSeq := pathSeq, linkSeq := y.sendSeq, vc := vc, mode := modeOf y vc, epoch := y.epoch, length := BitVec.ofNat 3 (linkFlits (32 + (Msg.wire m).length)),
    argc := BitVec.ofNat 4 m.args.length, hops := hops, srcGw := srcGw }

/-- A packet at a port that matches the sender's: its header is the one formed, its trailer holds, its bare text is the message's (R38, R43, R44). -/
theorem packetOf_spec (x y : Port) (port : BitVec 4) (pathSeq : BitVec 32) (srcGw hops : BitVec 8) (vc : BitVec 2) (m : Msg)
    (hk : recvKey x vc y.epoch = sendKey y vc y.epoch) (hs : x.schedule (sendKey y vc y.epoch) = y.schedule (sendKey y vc y.epoch))
    (hn : nonceOf x.partner x.partnerPort vc (x.count (sendKey y vc y.epoch)) = nonceOf y.self port vc (y.count (sendKey y vc y.epoch))) :
    let p := packetOf y port pathSeq srcGw hops vc m
    Packet.head p = headOf y pathSeq srcGw hops vc m ∧ Packet.intact p x = true ∧ p.bytes.length = 32 + (Msg.wire m).length
      ∧ Packet.message p x = (wireMessage (headOf y pathSeq srcGw hops vc m) (32 + (Msg.wire m).length) (Msg.wire m)).map
          fun q => { q with retained := m.retained, fixed := m.fixed } := by
  intro p
  let h := headOf y pathSeq srcGw hops vc m
  have l16 : (bytesOf 16 h.word.toNat).length = 16 := length_bytesOf ..
  obtain ⟨c, t, hp, hc, ht, hok, hb⟩ := protect_spec (modeOf y vc) (modeOf_ne y vc) (y.schedule (sendKey y vc y.epoch))
    (nonceOf y.self port vc (y.count (sendKey y vc y.epoch))) (bytesOf 16 h.word.toNat) (Msg.wire m)
  have hby : p.bytes = bytesOf 16 h.word.toNat ++ (c ++ t) := by
    rw [← hp]
    rfl
  have hlen : p.bytes.length = 32 + (Msg.wire m).length := by
    simp only [hby, List.length_append, l16, ht, hc]
    omega
  have hhead : p.bytes.take 16 = bytesOf 16 h.word.toNat := by rw [hby, List.take_append_of_le_length (by omega), List.take_of_length_le (by omega)]
  have htext : Packet.text p = c := by
    simp only [Packet.text, hlen, ← hc]
    rw [hby, List.drop_append_of_le_length (by omega), List.drop_of_length_le (by omega)]
    simp
  have htrail : Packet.trailer p = t := by
    simp only [Packet.trailer, hlen, ← hc]
    rw [hby, ← List.append_assoc, show 32 + c.length - 16 = (bytesOf 16 h.word.toNat ++ c).length by simp [l16]; omega, List.drop_left]
  have hh : Packet.head p = h := by
    have hw : (BitVec.ofNat 128 (natOf (p.bytes.take 16)) : BitVec 128) = h.word := by
      rw [hhead, natOf_bytesOf]
      apply BitVec.eq_of_toNat_eq
      have := h.word.isLt
      simp only [BitVec.toNat_ofNat]
      omega
    have := LinkHead.read h
    simp only [← hw] at this
    exact this
  refine ⟨hh, ?_, hlen, ?_⟩
  · simp only [Packet.intact, hh, htext, htrail, hhead, recvNonce]
    simp only [h, headOf, hk, hs, hn]
    exact hok
  · simp only [Packet.message, hh, htext, hlen, recvNonce]
    simp only [h, headOf, hk, hs, hn, hb]
    rfl

end Sys2Proof.Machine
end

