-- ==== Sys2Proof/Tests/Slice0.lean ====
section
/-! SUPPORT. The model's own tests: ill-formed terms, decoded words, small steps, and a state for every statement's hypotheses. -/

namespace Sys2Proof.Tests

set_option Elab.async false

open Sys2Proof.Machine

/-! A small state: one job, its context on core 0.1.0, and slot 0 of that core running. -/

/-- The core of the tests, 0.1.0. -/
def cc : CoreId := 0x00100
/-- Its cluster. -/
def kk : ClusterId := 0x001
/-- The job's rank entry: cluster 0.1, window of 64 KiB from the start of the slice. -/
def rk : Word64 := 0x0001000000000400
/-- The job. -/
def jobA : Job := { newJob 5 3 65536 12 1024 16 9 2 with region := [kk], ranks := [rk], loaded := true, started := true }
/-- Its context. -/
def ctxA : Ctx := { Ctx.reset with job := 5, asid := 3, table := 0x10000, tableCount := 16, faultSel := 2, supSel := 9, window := rk }
/-- Its directory entry. -/
def dirA : Dir := newDir jobA { core := cc, slot := 0, dirAddr := 0x4000, spill := 0x5000, save := [0x10000], retain := 0x100000, inject := 0, partner := 0, partnerSlot := 0 } cc 0 0x4000 unpaired false
/-- The running slot, with tiles. -/
def slotA (l : List (TReg × Tile)) : Slot :=
  l.foldl (fun (x : Slot) p => x.setTile p.1 p.2)
    { Slot.reset with st := .ready, uid := 7, pc := 0x1000, budget := 65536, launchBudget := 65536 }
/-- The bytes of the job's entry in the ASID table: valid, its level-1 table at 0x3000. -/
def asidMem : List Host.Cell := [(0xBFFFFF0030, 1), (0xBFFFFF0033, 3)]
/-- The line of its handler table that holds the entry of its fault selector, 2. -/
def faultLine : CodeLine := CodeLine.mk 3 0x10000 (BitVec.ofNat 512 ((0x2000 * 2 ^ 80 + 2 ^ 74) * 2 ^ 256)) false
/-- The state, with tiles in the running slot. -/
def sA (l : List (TReg × Tile)) : State :=
  { State.reset with
    cur := (cc, 0), autorun := false
    rot := { State.reset.rot with phase := .service }
    cores := [(0x100, { Core.reset with slots := #v[slotA l, Slot.reset, Slot.reset, Slot.reset], ctxs := #v[some ctxA, none, none, none] })]
    clusters := [(1, { Cluster.reset with code := [faultLine] })]
    fw := { State.reset.fw with
      jobs := [jobA], dirs := [dirA] }
    mem := asidMem }
/-- The same with firmware's context. -/
def sF (l : List (TReg × Tile)) : State :=
  ((sA l).updMyCtx fun k => { k with job := 0, asid := 0 }).updCluster kk fun q => { q with code := [{ faultLine with asid := 0 }] }
/-- A 1×1 INT64 tile. -/
def int (n : Int) : Tile := Tile.ofInt .int64 n false
/-- A tile of a shape with elements. -/
def arr (f : Fmt) (r c : Nat) (l : List Nat) : Tile := Tile.build (shapeOf f r c) (fun e => l.getD e 0) false
/-- A stream of slot 0 on a tile: kind, queue, rows of 1×1 INT64 tiles. -/
def strm (uid : Nat) (a : TReg) (kind : BitVec 2) (rows : Nat) (queue : List Tile) (st : StreamSt) : Stream :=
  { uid := uid, slot := 0, handler := 7, tile := a, kind := kind, shape := shapeOf .int64 1 1, rows := rows, base := 0x2000000000100000,
    strides := [8, 0, 0, 0], counts := [rows, 1, 1, 1], indexed := false, index := 0, ifmt := 0, op := 0, cls := 0, scope := 1,
    fin := { done := 0, ctr := 0, rscope := 0, route := 0, arg := 0 }, window := 0, idxWindow := 0, wait := 0, waits := [], queue := queue,
    filling := [], nextRow := queue.length, nextIdx := 0, moved := 0, flying := [], idx := [], st := st, faultTile := 0, faultSub := 0,
    faultAddr := 0, retry := false, redo := none, ueSent := [] }
/-- The engine context of the job with streams. -/
def ect (l : List Stream) : Ectx :=
  { core := cc, ctx := 0, job := 5, st := .resident, since := 0, streams := l, forEviction := false, frozen := false, asleep := false }
/-- The state with streams. -/
def sS (l : List Stream) (t : List (TReg × Tile)) : State := (sA t).updCluster kk fun q => { q with ectxs := [ect l] }
/-- The job of the tests changed. -/
def withJob (s : State) (f : Job → Job) : State := s.updJob 5 f

/-- A control value in T1, and another in T2. -/
def sCtl (v w : Word64) : State := sA [(1, Tile.ofWord v false), (2, Tile.ofWord w false)]
/-- The same in firmware. -/
def sCtlF (v w : Word64) : State := sF [(1, Tile.ofWord v false), (2, Tile.ofWord w false)]
/-- ctl as it is decided. -/
def isCtl (s : State) (b : TReg) (v : Word64) : Bool := (s.me.tile b).control.map (BitVec.ofInt 64) == some v && !(s.me.tile b).tag
/-- A request inside the subset of R55. -/
def h0 : ReqHead := { form := .inside, ecn := false, behind := 0 }


/-! A state and operands that meet the hypotheses of each statement, and of each of its clauses. -/

/-- A state for the tile ALU: integers, 2×4 INT32, FP32 and MASK1 tiles, and masks. -/
def sAlu : State :=
  (sA [(1, int 5), (2, int 6), (4, arr .int32 2 4 [1, 2, 3, 4, 5, 6, 7, 8]), (5, arr .fp32 1 2 [0x3F800000, 0x40000000]), (6, arr .fp32 1 2 [0, 0]),
    (7, arr .mask1 1 3 [1, 0, 1]), (8, arr .int32 1 4 [3, 0, 1, 2]), (9, arr .int32 2 4 []), (10, arr .int32 2 1 []),
    (11, int 0x108643), (13, arr .code8 1 2 [1, 2]), (14, arr .e8m0 1 1 [127]), (15, arr .e4m3 1 2 [1, 2]), (12, arr .fp32 1 1 [0x40000000])]).updMe
    fun x => x.setMask 1 3

/-- What aluForm's meaning answers. -/
def alu (i : Instr) (s : State) : AluRes := match aluForm i with
  | some f => f.f (aluIn s [])
  | none => .error .illegal

theorem wit_AluCompletes : (aluForm (.add 3 1 2 0)).isSome = true ∧ sAlu.aluReady (.add 3 1 2 0) = true := by decide +kernel
theorem wit_AluTraps : (aluForm (.add 3 1 4 0)).isSome = true ∧ sAlu.alone = true ∧ sAlu.clear [1, 4, 3] = true ∧ sAlu.handles = true
    ∧ alu (.add 3 1 4 0) sAlu = .error .shape := by decide +kernel
theorem wit_IntegerResults : (intForm (.add 3 1 2 1)).isSome = true ∧ sAlu.aluReady (.add 3 1 2 1) = true
    ∧ sAlu.aluReady (.mad 0 1 2 0) = true ∧ sAlu.aluReady (.movk 3 3 0xFFFF) = true := by decide +kernel
theorem wit_FloatResults : (floatForm (.fadd 6 5 12 0 0)).isSome = true ∧ sAlu.aluReady (.fadd 6 5 12 0 0) = true
    ∧ (floatSpec ((aluIn sAlu []).tile 6).fmt).isSome = true := by decide +kernel
theorem wit_FloatSumsAndProductsAreExact : (FVal.fin true 3 (-1)).exact = some (-3 / 2) := by norm_num [FVal.exact]
theorem wit_ShapingResults : (shapedForm (.trn 3 4 0) (aluIn sAlu [])).isSome = true ∧ sAlu.aluReady (.trn 3 4 0) = true
    ∧ (shapedForm (.mpop 3 1) (aluIn sAlu [])).isSome = true ∧ sAlu.aluReady (.mpop 3 1) = true := by decide +kernel
theorem wit_IntegerSums : (sumForm (.rsum 10 4 0) (aluIn sAlu [])).isSome = true ∧ (aluForm (.rsum 10 4 0)).map (·.reads.head?) = some (some 4)
    ∧ ((aluIn sAlu []).tile 4).legal = true ∧ sAlu.aluReady (.rsum 10 4 0) = true ∧ sAlu.aluReady (.rsum 1 4 0) = true := by decide +kernel
theorem wit_IntegerExtremes : (sAlu.aluReady (.rmax 10 4 0) && sAlu.aluReady (.rmin 1 4 1) && sAlu.aluReady (.ramx 10 4 3 0)) = true
    ∧ ((aluIn sAlu []).tile 4).legal = true ∧ isInt ((aluIn sAlu []).tile 4).fmt = true := by decide +kernel
theorem wit_MoveResults : (sAlu.aluReady (.mov 3 4 0) && sAlu.aluReady (.mov 9 4 1) && sAlu.aluReady (.zero 3 0) && sAlu.aluReady (.zero 9 1)
    && sAlu.aluReady (.sel 9 4 9 1) && sAlu.aluReady (.ins 3 1 2 0)) = true := by decide +kernel
theorem wit_ShapeGroupResults : (sAlu.aluReady (.shapei 4 16 0 63) && sAlu.aluReady (.raggedi 4 1 3) && sAlu.aluReady (.shape 4 11)
    && sAlu.aluReady (.ragged 4 11)) = true := by decide +kernel
theorem wit_CompareResults : (∀ f : BitVec 3, f.toNat ≤ 5 → sAlu.aluReady (.cmp 1 4 9 0 f) = true)
    ∧ (floatSpec (cmpRef ((aluIn sAlu []).tile 5) ((aluIn sAlu []).tile 12)).fmt).isSome = true
    ∧ ∀ g : BitVec 2, sAlu.aluReady (.fcmp 1 5 12 0 g) = true := by decide +kernel
theorem wit_MaskResults : (sAlu.aluReady (.mand 3 1 0) && sAlu.aluReady (.mor 3 1 2) && sAlu.aluReady (.mxor 3 1 2) && sAlu.aluReady (.mnot 3 1)
    && sAlu.aluReady (.mld 3 7) && sAlu.aluReady (.mld 3 1) && sAlu.aluReady (.mset 3 1) && sAlu.aluReady (.seed 1)) = true
    ∧ ((aluIn sAlu []).tile 7).fmt = .mask1 ∧ ((aluIn sAlu []).tile 7).count ≤ 64 ∧ ((aluIn sAlu []).tile 1).scalar = true := by decide +kernel
theorem wit_WrittenTilesStayLegalAndMatchTheirResidues : sAlu.aluReady (.cvts 6 5 0) = true
    ∧ (∀ n, (sAlu.me.tileRaw n).residueOk = true) ∧ ∀ n, (sAlu.me.tileRaw n).legal = true := by decide +kernel
/-- The residue of T1 does not match its storage. -/
def sBad : State := sAlu.updMe fun x => x.setTile 1 { int 5 with residue := 6 }
theorem wit_ResidueMismatchTags : sBad.alone = true ∧ sBad.clear [1, 2, 3] = true
    ∧ (match aluInt2 opAdd 3 1 2 0 (aluIn sBad []) with
      | .ok o => aluFree sBad o
      | .error _ => false) = true
    ∧ (sBad.me.tileRaw 1).residueOk = false ∧ (sBad.me.tileRaw 2).residueOk = true := by decide +kernel
theorem wit_StochasticRoundingDraws : sAlu.aluReady (.cvts 9 5 0) = true := by decide +kernel

/-- Each instruction of aluForm can run: on these operands it is ready. -/
theorem wit_EveryAluInstructionRuns :
    ([.add 3 1 2 0, .sub 3 1 2 0, .adds 3 1 2 0, .addsu 3 1 2 0, .subs 3 1 2 0, .subsu 3 1 2 0, .mul 3 1 2 0, .mulh 3 1 2 0, .mulhu 3 1 2 0,
      .min 3 1 2 0, .max 3 1 2 0, .minu 3 1 2 0, .maxu 3 1 2 0, .abs 3 1 0, .neg 3 1 0, .avgu 3 1 2 0, .and 3 1 2 0, .or 3 1 2 0, .xor 3 1 2 0,
      .andn 3 1 2 0, .not 3 1 0, .shl 3 1 2 0, .shr 3 1 2 0, .sar 3 1 2 0, .rol 3 1 2 0, .popc 3 1 0, .clz 3 1 0, .ctz 3 1 0, .mad 3 1 2 0,
      .cmp 1 1 2 0 0, .movi 3 0 1, .movk 3 0 1, .addi 3 1 0 1, .muli 3 1 0 1, .andi 3 1 0 1, .ori 3 1 0 1, .xori 3 1 0 1, .shi 3 1 0 0 1]
      : List Instr).all sAlu.aluReady = true
    ∧ ([.mov 3 4 0, .zero 3 0, .trn 3 4 0, .brow 9 4 2 0, .bcol 9 4 2 0, .xtr 3 4 2 0, .ins 3 1 2 0, .slc 3 4 0 0, .she 9 4 10 0, .rote 9 4 2 0,
      .perm 9 4 8 0, .perm8 9 1 8 0, .sel 9 4 9 1, .shape 4 11, .ragged 4 11, .gshape 3 4, .shapei 4 16 0 63, .raggedi 4 1 3,
      .mand 1 2 3, .mor 1 2 3, .mxor 1 2 3, .mnot 1 2, .mpop 3 1, .mfst 3 1, .mst 3 1, .mld 1 7, .mset 1 2] : List Instr).all sAlu.aluReady = true
    ∧ ([.fadd 6 5 12 0 0, .fsub 6 5 12 0 0, .fmul 6 5 12 0 0, .fmin 6 5 12 0, .fmax 6 5 12 0, .fabs 6 5 0, .fneg 6 5 0, .fcpys 6 5 12 0,
      .fdiv 6 5 12 0 0, .fsqrt 6 5 0 0, .frnd 6 5 0 0, .fscl 6 5 2 0 0, .fclass 3 5 0, .fma 6 5 12 0 0, .fms 6 5 12 0 0, .fnma 6 5 12 0 0,
      .fcmp 1 5 12 0 0, .frcp 6 5 0, .frsq 6 5 0, .fexp2 6 5 0, .flog2 6 5 0, .cvt 9 5 0 0, .cvts 9 5 0, .cvtq 13 5 0 0, .cvtd 9 13 0,
      .mxsc 15 5 14 0 0, .mxq 15 5 14 0, .rsum 1 4 0, .frsum 12 5 0 0, .rmax 1 4 0, .rmin 1 4 0, .ramx 1 4 3 0, .dot 1 4 4 0 0, .scan 9 4 0,
      .fscan 6 5 0 0, .csum 10 4 0, .fcsum 6 5 0 0, .seed 1] : List Instr).all sAlu.aluReady = true
    ∧ (sA [(1, arr .int8 1 16 []), (2, arr .int8 1 4 [])]).aluReady (.lut16 3 1 2 0) = true := by decide +kernel

/-! A word of every encoded instruction, its bits [31:0] written from the encoding tables (R294 to R312). -/

/-- Does the decoder read the word as the instruction, and is that the word the encoder gives? -/
def reads (p : BitVec 32 × Instr) : Bool := (decode p.1).toOption == some p.2 && encode p.2 == some p.1
theorem test_decode_01 : ([
    (0b00000100000000000000000000000000, .nop),
    (0b00000100000000000001000000000000, .done),
    (0b00000100000000000010000000000000, .ret),
    (0b00000100000000000011000000000000, .brk),
    (0b00000100000000000100101001101101, .trap 2669),
    (0b00000100000000000101000000001011, .rft 2 3),
    (0b00000110100000000110000001110000, .csrr 10 112),
    (0b00000100000110000111000001100011, .csrw 6 99),
    (0b00000110100000001000000000000000, .tnow 10),
    (0b00000100000110001001000000000011, .cinv 6 3),
    (0b00000110100000001010000000000101, .tlbi 10 0 1 1),
    (0b00000110100000001011110100001101, .slotrd 10 3 1 13),
    (0b00000100000110001100111000000011, .slotwr 6 3 2 3),
    (0b00000100000110001101000000000010, .ctxld 6 2),
    (0b00000100000110001110000000000010, .ctxsv 6 2),
    (0b00000100000000001111000000000010, .ctxev 2),
    (0b00000100000000010000000001101101, .frost 109),
    (0b00000110100110010001000000000000, .resume 10 6),
    (0b00000110100000010010000000000000, .harv 10),
    (0b00000100000000010011000000000000, .ckpt),
    (0b00000110100000010100000000000000, .pairsig 10),
    (0b00000100000110010101000000000000, .seed 6),
    (0b00000100000110010110000000000111, .step 6 1 3)] : List (BitVec 32 × Instr)).all reads = true := by decide +kernel
theorem test_decode_02 : ([
    (0b00001010100101110110110100000000, .shapei 10 11 5 45),
    (0b00001010100000010110110100010000, .raggedi 10 5 45)] : List (BitVec 32 × Instr)).all reads = true := by decide +kernel
theorem test_decode_03 : ([
    (0b00001110100110100110000000000000, .add 10 6 9 2),
    (0b00001110100110100110000000010000, .sub 10 6 9 2),
    (0b00001110100110100110000000100000, .adds 10 6 9 2),
    (0b00001110100110100110000000110000, .addsu 10 6 9 2),
    (0b00001110100110100110000001000000, .subs 10 6 9 2),
    (0b00001110100110100110000001010000, .subsu 10 6 9 2),
    (0b00001110100110100110000001100000, .mul 10 6 9 2),
    (0b00001110100110100110000001110000, .mulh 10 6 9 2),
    (0b00001110100110100110000010000000, .mulhu 10 6 9 2),
    (0b00001110100110100110000010010000, .min 10 6 9 2),
    (0b00001110100110100110000010100000, .max 10 6 9 2),
    (0b00001110100110100110000010110000, .minu 10 6 9 2),
    (0b00001110100110100110000011000000, .maxu 10 6 9 2),
    (0b00001110100110000010000011010000, .abs 10 6 2),
    (0b00001110100110000010000011100000, .neg 10 6 2),
    (0b00001110100110100110000011110000, .avgu 10 6 9 2)] : List (BitVec 32 × Instr)).all reads = true := by decide +kernel
theorem test_decode_04 : ([
    (0b00010010100110100110000000000000, .and 10 6 9 2),
    (0b00010010100110100110000000010000, .or 10 6 9 2),
    (0b00010010100110100110000000100000, .xor 10 6 9 2),
    (0b00010010100110100110000000110000, .andn 10 6 9 2),
    (0b00010010100110000010000001000000, .not 10 6 2),
    (0b00010010100110100110000001010000, .shl 10 6 9 2),
    (0b00010010100110100110000001100000, .shr 10 6 9 2),
    (0b00010010100110100110000001110000, .sar 10 6 9 2),
    (0b00010010100110100110000010000000, .rol 10 6 9 2),
    (0b00010010100110000010000010010000, .popc 10 6 2),
    (0b00010010100110000010000010100000, .clz 10 6 2),
    (0b00010010100110000010000010110000, .ctz 10 6 2)] : List (BitVec 32 × Instr)).all reads = true := by decide +kernel
theorem test_decode_05 : ([
    (0b00010110100110100110000000000000, .mad 10 6 9 2)] : List (BitVec 32 × Instr)).all reads = true := by decide +kernel
theorem test_decode_06 : ([
    (0b00011000100110100110000001010000, .cmp 2 6 9 2 5)] : List (BitVec 32 × Instr)).all reads = true := by decide +kernel
theorem test_decode_07 : ([
    (0b00011110100110000010000000000000, .mov 10 6 2),
    (0b00011110100000000010000000010000, .zero 10 2),
    (0b00011110100110000010000000100000, .trn 10 6 2),
    (0b00011110100110100110000000110000, .brow 10 6 9 2),
    (0b00011110100110100110000001000000, .bcol 10 6 9 2),
    (0b00011110100110100110000001010000, .xtr 10 6 9 2),
    (0b00011110100110100110000001100000, .ins 10 6 9 2),
    (0b00011110100110100110000001110000, .slc 10 6 9 2),
    (0b00011110100110100110000010000000, .she 10 6 9 2),
    (0b00011110100110100110000010010000, .rote 10 6 9 2),
    (0b00011110100110100110000010100000, .perm 10 6 9 2),
    (0b00011110101000100110000010110000, .perm8 10 8 9 2),
    (0b00011110100110100110000011000000, .lut16 10 6 9 2),
    (0b00011110100110100110000011010000, .sel 10 6 9 2),
    (0b00011110100110000000000011100000, .shape 10 6),
    (0b00011110100110000000000011110000, .ragged 10 6),
    (0b00011110100110000000000100000000, .gshape 10 6)] : List (BitVec 32 × Instr)).all reads = true := by decide +kernel
theorem test_decode_08 : ([
    (0b00100000100010001000000000000000, .mand 2 2 2),
    (0b00100000100010001000000000010000, .mor 2 2 2),
    (0b00100000100010001000000000100000, .mxor 2 2 2),
    (0b00100000100010000000000000110000, .mnot 2 2),
    (0b00100010100010000000000001000000, .mpop 10 2),
    (0b00100010100010000000000001010000, .mfst 10 2),
    (0b00100000100110000000000001100000, .mld 2 6),
    (0b00100010100010000000000001110000, .mst 10 2),
    (0b00100000100110000000000010000000, .mset 2 6)] : List (BitVec 32 × Instr)).all reads = true := by decide +kernel
theorem test_decode_09 : ([
    (0b00100110100110100110000000000100, .fadd 10 6 9 2 1),
    (0b00100110100110100110000000010100, .fsub 10 6 9 2 1),
    (0b00100110100110100110000000100100, .fmul 10 6 9 2 1),
    (0b00100110100110100110000000110000, .fmin 10 6 9 2),
    (0b00100110100110100110000001000000, .fmax 10 6 9 2),
    (0b00100110100110000010000001010000, .fabs 10 6 2),
    (0b00100110100110000010000001100000, .fneg 10 6 2),
    (0b00100110100110100110000001110000, .fcpys 10 6 9 2),
    (0b00100110100110100110000010000100, .fdiv 10 6 9 2 1),
    (0b00100110100110000010000010010100, .fsqrt 10 6 2 1),
    (0b00100110100110000010000010100100, .frnd 10 6 2 1),
    (0b00100110100110100110000010110100, .fscl 10 6 9 2 1),
    (0b00100110100110000010000011000000, .fclass 10 6 2)] : List (BitVec 32 × Instr)).all reads = true := by decide +kernel
theorem test_decode_0A : ([
    (0b00101010100110100110000000000100, .fma 10 6 9 2 1),
    (0b00101010100110100110000000010100, .fms 10 6 9 2 1),
    (0b00101010100110100110000000100100, .fnma 10 6 9 2 1)] : List (BitVec 32 × Instr)).all reads = true := by decide +kernel
theorem test_decode_0B : ([
    (0b00101100100110100110000000100000, .fcmp 2 6 9 2 2)] : List (BitVec 32 × Instr)).all reads = true := by decide +kernel
theorem test_decode_0C : ([
    (0b00110010100110000010000000000000, .frcp 10 6 2),
    (0b00110010100110000010000000010000, .frsq 10 6 2),
    (0b00110010100110000010000000100000, .fexp2 10 6 2),
    (0b00110010100110000010000000110000, .flog2 10 6 2)] : List (BitVec 32 × Instr)).all reads = true := by decide +kernel
theorem test_decode_0D : ([
    (0b00110110100110000010000000000100, .cvt 10 6 2 1),
    (0b00110110100110000010000000010000, .cvts 10 6 2),
    (0b00110110100110000010000000100100, .cvtq 10 6 2 1),
    (0b00110110100110000010000000110000, .cvtd 10 6 2),
    (0b00110110100110100110000001000100, .mxsc 10 6 9 2 1),
    (0b00110110100110100110000001010000, .mxq 10 6 9 2)] : List (BitVec 32 × Instr)).all reads = true := by decide +kernel
theorem test_decode_0E : ([
    (0b00111010100110000010000000000000, .rsum 10 6 2),
    (0b00111010100110000010000000010100, .frsum 10 6 2 1),
    (0b00111010100110000010000000100000, .rmax 10 6 2),
    (0b00111010100110000010000000110000, .rmin 10 6 2),
    (0b00111010100110100110000001000000, .ramx 10 6 9 2),
    (0b00111010100110100110000001010100, .dot 10 6 9 2 1),
    (0b00111010100110000010000001100000, .scan 10 6 2),
    (0b00111010100110000010000001110100, .fscan 10 6 2 1),
    (0b00111010100110000010000010000000, .csum 10 6 2),
    (0b00111010100110000010000010010100, .fcsum 10 6 2 1)] : List (BitVec 32 × Instr)).all reads = true := by decide +kernel
theorem test_decode_10 : ([
    (0b01000010100000101001101001101101, .movi 10 2 39533)] : List (BitVec 32 × Instr)).all reads = true := by decide +kernel
theorem test_decode_11 : ([
    (0b01000110100000101001101001101101, .movk 10 2 39533)] : List (BitVec 32 × Instr)).all reads = true := by decide +kernel
theorem test_decode_12 : ([
    (0b01001010100110101001101001101101, .addi 10 6 2 39533)] : List (BitVec 32 × Instr)).all reads = true := by decide +kernel
theorem test_decode_13 : ([
    (0b01001110100110101001101001101101, .muli 10 6 2 39533)] : List (BitVec 32 × Instr)).all reads = true := by decide +kernel
theorem test_decode_14 : ([
    (0b01010010100110101001101001101101, .andi 10 6 2 39533)] : List (BitVec 32 × Instr)).all reads = true := by decide +kernel
theorem test_decode_15 : ([
    (0b01010110100110101001101001101101, .ori 10 6 2 39533)] : List (BitVec 32 × Instr)).all reads = true := by decide +kernel
theorem test_decode_16 : ([
    (0b01011010100110101001101001101101, .xori 10 6 2 39533)] : List (BitVec 32 × Instr)).all reads = true := by decide +kernel
theorem test_decode_17 : ([
    (0b01011110100110101000000000101101, .shi 10 6 2 2 45)] : List (BitVec 32 × Instr)).all reads = true := by decide +kernel
theorem test_decode_20 : ([
    (0b10000010100110100110011100000000, .ld 10 6 9 2 1 3)] : List (BitVec 32 × Instr)).all reads = true := by decide +kernel
theorem test_decode_21 : ([
    (0b10000110100110100110011100000000, .st 10 6 9 2 1 3)] : List (BitVec 32 × Instr)).all reads = true := by decide +kernel
theorem test_decode_22 : ([
    (0b10001010100110100110011100000000, .ldb 10 6 9 2 1 3)] : List (BitVec 32 × Instr)).all reads = true := by decide +kernel
theorem test_decode_23 : ([
    (0b10001100000000000000001101011000, .fence 3 5 2)] : List (BitVec 32 × Instr)).all reads = true := by decide +kernel
theorem test_decode_24 : ([
    (0b10010010100110100110011110000000, .aadd 10 6 9 2 1 3 1),
    (0b10010010100110100110011110000100, .amin 10 6 9 2 1 3 1),
    (0b10010010100110100110011110001000, .amax 10 6 9 2 1 3 1),
    (0b10010010100110100110011110001100, .aminu 10 6 9 2 1 3 1),
    (0b10010010100110100110011110010000, .amaxu 10 6 9 2 1 3 1),
    (0b10010010100110100110011110010100, .aand 10 6 9 2 1 3 1),
    (0b10010010100110100110011110011000, .aor 10 6 9 2 1 3 1),
    (0b10010010100110100110011110011100, .axor 10 6 9 2 1 3 1),
    (0b10010010100110100110011110100000, .aswp 10 6 9 2 1 3 1),
    (0b10010010100110100110011110100100, .acas 10 6 9 2 1 3 1),
    (0b10010010100110100110011110101000, .aincb 10 6 9 2 1 3 1),
    (0b10010010100110100110011110101100, .afadd 10 6 9 2 1 3 1)] : List (BitVec 32 × Instr)).all reads = true := by decide +kernel
theorem test_decode_25 : ([
    (0b10010100000110000000011100000000, .fmttab 6 1 3)] : List (BitVec 32 × Instr)).all reads = true := by decide +kernel
theorem test_decode_26 : ([
    (0b10011010100110100100000000000000, .copy 10 6 9)] : List (BitVec 32 × Instr)).all reads = true := by decide +kernel
theorem test_decode_28 : ([
    (0b10100010100110000000000000000000, .strm 10 6),
    (0b10100010100110000000000000010000, .strmx 10 6),
    (0b10100010100110000000000000100000, .strms 10 6),
    (0b10100010100110000000000000110000, .strma 10 6),
    (0b10100010100000000000000001000000, .sclose 10),
    (0b10100010100110000000000001010000, .sstat 10 6)] : List (BitVec 32 × Instr)).all reads = true := by decide +kernel
theorem test_decode_29 : ([
    (0b10100110100110100110010100001100, .send 10 6 9 2 5 3),
    (0b10100110100110100110010100011100, .sendr 10 6 9 2 5 3),
    (0b10100110100110100110010100101100, .sendat 10 6 9 2 5 3),
    (0b10100100000110100110010100111100, .reply 6 9 2 5 3),
    (0b10100110100110000000010101001100, .fwd 10 6 5 3),
    (0b10100100000110000000000001010000, .hdr 6)] : List (BitVec 32 × Instr)).all reads = true := by decide +kernel
theorem test_decode_2A : ([
    (0b10101010100110100100010100001100, .cinc 10 6 9 5 3),
    (0b10101000000110100100000000010000, .cset 6 9),
    (0b10101010100000100100000000100000, .cget 10 9),
    (0b10101000000110100100000000110000, .carm 6 9),
    (0b10101010100000100100010101001100, .fset 10 9 5 3),
    (0b10101000000000100100000001010000, .fclr 9),
    (0b10101000000110100101000001100000, .twen 6 9 1),
    (0b10101000000110001000000001110000, .tmr 6 2)] : List (BitVec 32 × Instr)).all reads = true := by decide +kernel
theorem test_decode_2B : ([
    (0b10101111000110010110010100001100, .post 12 6 5 2 5 1 1),
    (0b10101111000000010110010100011100, .posth 12 5 2 5 1 1),
    (0b10101111000110010111000000100000, .accrd 12 6 5 3),
    (0b10101100000000010100000000110000, .accz 5),
    (0b10101100000000010100000001001000, .acccfg 5 2),
    (0b10101110100000010100000001010000, .opaq 10 5)] : List (BitVec 32 × Instr)).all reads = true := by decide +kernel
theorem test_decode_30 : ([
    (0b11000000000000111001101001101101, .br 236141),
    (0b11000001001000111001101001101101, .brCond 4 2 236141)] : List (BitVec 32 × Instr)).all reads = true := by decide +kernel
theorem test_decode_31 : ([
    (0b11000100000000111001101001101101, .call 236141)] : List (BitVec 32 × Instr)).all reads = true := by decide +kernel
theorem test_decode_32 : ([
    (0b11001010010000111001101001101101, .loop 9 236141)] : List (BitVec 32 × Instr)).all reads = true := by decide +kernel

/-! For each check of WellFormed an ill-formed term, which it refuses. -/

theorem test_wf_system : ([.rft 3 0, .csrr 1 0x007, .csrw 1 0x071, .csrr 1 0xFFF, .cinv 0 1, .tlbi 1 1 0 1, .tlbi 1 0 0 2, .tlbi 0 1 0 2, .tlbi 0 0 0 3,
    .slotrd 1 0 0 0, .slotrd 1 0 1 16, .slotrd 1 0 2 4, .slotwr 1 0 0 0, .slotwr 1 0 1 16, .slotwr 1 0 2 0] : List Instr).any WellFormed = false := by decide
theorem test_wf_shape_and_masks : ([.shapei 1 17 0 0, .cmp 0 1 2 0 0, .cmp 1 1 2 0 6, .fcmp 0 1 2 0 0, .perm8 1 9 2 0, .mand 0 1 2, .mor 0 1 2, .mxor 0 1 2, .mnot 0 1,
    .mld 0 1, .mset 0 1] : List Instr).any WellFormed = false := by decide
theorem test_wf_sends : ([.fence 0 1 0, .fence 1 0 0, .fence 1 1 3, .send 1 2 0 1 0 0, .send 1 2 13 3 0 0, .send 1 2 3 0 1 0, .sendr 1 2 0 1 0 0, .sendr 1 2 15 1 0 0,
    .sendr 1 2 3 0 0 1, .sendat 1 2 0 3 0 0, .sendat 1 2 14 2 0 0, .sendat 1 2 3 0 8 0, .reply 1 0 1 0 0, .reply 1 15 2 0 0, .reply 1 3 0 0 2, .fwd 1 2 1 0, .fwd 1 2 0 3,
    .cinc 1 2 0 0 1, .cinc 1 2 0 1 0, .fset 1 0 1 0, .fset 1 0 0 1] : List Instr).any WellFormed = false := by decide
theorem test_wf_matrix_and_control : ([.post 13 1 0 0 0 0 0, .post 1 13 0 0 0 0 0, .post 1 13 0 3 0 0 0, .post 1 11 0 1 0 0 0, .post 1 11 0 2 0 0 0, .posth 13 0 0 0 0 0,
    .accrd 15 0 0 1, .accrd 13 0 0 3, .acccfg 0 3, .brCond 0 0 0, .brCond 5 0 0, .brCond 15 0 0, .loop 0 0] : List Instr).any WellFormed = false := by decide
theorem test_wf_events : WellFormed (.supplyDroop 90 65) = false ∧ WellFormed (.attestation ⟨0, h0⟩ ⟨1, List.replicate 31 0⟩) = false
    ∧ WellFormed (.imageBlock ⟨0, h0⟩ 0 (List.replicate 4001 0)) = false := by decide +kernel
theorem test_wf_rdma_length (d : List Byte) (h : d.length = 2 ^ 31 + 1) : WellFormed (.rdmaWrite ⟨0, h0⟩ 0 0 d) = false := by
  simp [WellFormed, h]
/-- The words of such terms are refused, and so are words with a must-be-zero bit, an unassigned FN and an unassigned major opcode (R297). -/
theorem test_refused_words : (([(0x0CCD1021, .mustBeZeroZ), (0x0CCD1024, .field), (0x0400500C, .field), (0x04001001, .field), (0x0C000FF0, .fn), (0x00000000, .major),
    (0xFFFFFFFF, .major), (0x3C000000, .major)] : List (BitVec 32 × DecodeError)).all fun p => match decode p.1 with
      | .error e => e == p.2
      | .ok _ => false) = true := by decide +kernel

/-! One small step each; expected values by hand from the rule. -/

/-- An instruction's next state passes a check. -/
def after (i : Instr) (s : State) (p : State → Bool) : Bool := match exec i s with
  | .next t => p t
  | _ => false
/-- Element 0 of T3 after an instruction on INT8 operands in T1 and T2. -/
def on8 (i : Instr) (a b : Nat) (r : Nat) : Bool :=
  after i (sA [(1, arr .int8 1 1 [a]), (2, arr .int8 1 1 [b]), (3, arr .int8 1 1 [0])]) fun t => (t.me.tileRaw 3).raw 0 == r && t.me.pc == 0x1004
/-- 127 + 1 wraps to −128 (R342). -/
theorem test_add_wraps : on8 (.add 3 1 2 0) 127 1 128 = true := by decide +kernel
/-- 127 + 1 saturates at 127; −128 − 1 at −128 (R342). -/
theorem test_adds_subs_saturate : on8 (.adds 3 1 2 0) 127 1 127 = true ∧ on8 (.subs 3 1 2 0) 128 1 128 = true := by decide +kernel
/-- The high half of −128 times −128 is 64, of 128 times 128 unsigned 64; of −1 times 2 it is −1 and 1 (R342). -/
theorem test_mulh : on8 (.mulh 3 1 2 0) 255 2 255 = true ∧ on8 (.mulhu 3 1 2 0) 255 2 1 = true := by decide +kernel
/-- The source is also the destination: T1 := T1 + T1 (R342). -/
theorem test_add_same : after (.add 1 1 1 0) (sA [(1, int 21)]) (fun t => (t.me.tileRaw 1).raw 0 == 42) = true := by decide +kernel
/-- Masked out, the old element stays (R327). -/
theorem test_mask_keeps : after (.add 3 1 2 1) (sA [(1, int 1), (2, int 2), (3, int 9)]) (fun t => (t.me.tileRaw 3).raw 0 == 9) = true := by decide +kernel
/-- FP32: 1 + 2^-24 is a tie, rounded to even (R353). -/
theorem test_fadd_tie : after (.fadd 3 1 2 0 0) (sA [(1, arr .fp32 1 1 [0x3F800000]), (2, arr .fp32 1 1 [0x33800000]), (3, arr .fp32 1 1 [0])])
    (fun t => (t.me.tileRaw 3).raw 0 == 0x3F800000) = true := by decide +kernel
/-- CALL of offset 3 continues 12 bytes on from its own address (R316, R349), and RET comes back behind it. -/
theorem test_call_ret : after (.call 3) (sA []) (fun t => t.me.rstack == [0x401] && t.me.pc == 0x100C && after .ret t fun u => u.me.pc == 0x1004 && u.me.rstack.isEmpty) = true := by
  decide +kernel
/-- MOVI sign-extends its immediate (R345). -/
theorem test_movi : after (.movi 3 0 0xFFFF) (sA [(3, int 5)]) (fun t => (t.me.tileRaw 3).raw 0 == 2 ^ 64 - 1) = true := by decide +kernel
/-- ADDI wraps at 64 bits (R345). -/
theorem test_addi_wraps : after (.addi 3 3 0 1) (sA [(3, int (-1))]) (fun t => (t.me.tileRaw 3).raw 0 == 0) = true := by decide +kernel
/-- A placed word is what the next step runs. -/
theorem test_withFetchWord : (match step (State.reset.withFetchWord 32 0x04001000), step (State.reset.withFetchWord 32 0x0CC91000) with
    | .next t, .next u => t != State.reset.withFetchWord 32 0x04001000 && u != State.reset.withFetchWord 32 0x0CC91000
    | _, _ => false) = true ∧ decodeTableWord 32 0x04001000 = some .done := by decide +kernel


theorem wit_BoundTilesPopAndPush_1 :
    (let s := sS [strm 1 2 0 4 [int 9] .open_] [(1, int 5)];
      s.alone = true ∧ owedTile s.me 1 = false ∧ owedTile s.me 2 = false ∧ s.me.popped = [] ∧ (s.me.tileRaw 2).residueOk = true
        ∧ (s.core cc).aluUntil ≤ s.clk.cycle ∧ 8 ≤ creditsOf s kk
        ∧ (boundTo s cc 0 2).map (fun p => (p.2.isWrite, p.2.st, p.2.queue, p.1.usable)) = some (false, .open_, [int 9], true) ∧ (boundTo s cc 0 1).isNone = true) := by
  decide +kernel
theorem wit_BoundTilesPopAndPush_2 :
    (let s := sS [strm 1 2 0 4 [] .open_] [];
      (boundTo s cc 0 2).map (fun p => (p.2.isWrite, p.2.st, p.2.queue, decide (p.2.moved < p.2.tiles))) = some (false, .open_, [], true)) := by
  decide +kernel
theorem wit_BoundTilesPopAndPush_3 :
    (let s := sS [strm 1 1 2 8 (List.replicate 7 (int 1)) .open_] [(2, int 5)];
      s.alone = true ∧ (boundTo s cc 0 2).isNone = true ∧ (s.me.tileRaw 2).residueOk = true ∧ 8 ≤ creditsOf s kk
        ∧ (boundTo s cc 0 1).map (fun p => (p.2.isWrite, p.2.st, decide (p.2.moved < p.2.tiles), p.2.queue.length)) = some (true, .open_, true, 7)
        ∧ (boundTo s cc 0 1).map (fun p => (p.2.redo, p.1.usable)) = some (none, true)) := by
  decide +kernel
/-- The same with the engine context parked. -/
def sParkedPop : State := (sA []).updCluster kk fun q => { q with ectxs := [{ ect [strm 1 2 0 4 [int 9] .open_] with st := .parked }] }
theorem wit_BoundTilesPopAndPush_parked :
    (boundTo sParkedPop cc 0 2).map (fun p => (p.2.isWrite, p.2.st, p.2.queue, p.1.usable)) = some (false, .open_, [int 9], false) := by decide +kernel
/-- Return stacks of a length. -/
def sStack (n : Nat) : State := (sA []).updMe fun x => { x with rstack := List.replicate n 0x400 }
theorem wit_ControlFlow : (sStack 0).alone = true ∧ (sStack 7).alone = true ∧ (sStack 7).me.rstack.length < 8 ∧ (sStack 1).alone = true
    ∧ (sStack 1).me.rstack = [0x400]
    ∧ (let s := sA [(1, int 0), (2, { int 1 with tag := true }), (3, arr .int32 2 2 [1])];
      s.ready [1] [1] = true ∧ (s.me.tile 1).tag = false ∧ (s.me.tile 1).scalar = true ∧ isInt (s.me.tile 1).fmt = true ∧ (s.me.tile 1).legal = true
        ∧ s.ready [2] [2] = true ∧ s.handles = true ∧ (s.me.tile 2).tag = true ∧ s.ready [3] [3] = true ∧ (s.me.tile 3).tag = false
        ∧ ((s.me.tile 3).scalar && isInt (s.me.tile 3).fmt) = false) := by decide +kernel
/-- A load of T1 by an earlier instruction, still out. -/
def sOwed : State := (sA []).updMe fun x => { x with
  icount := 3, pend := [{ tile := 1, evs := [4], sent := true, tag := false, keep := false, push := false, n := 2 }] }
theorem wit_DoneEndsTheHandler : (sA []).alone = true ∧ (sA []).me.pend.any (·.push) = false ∧ endPends (sA []).me.pend (sA []).me.icount = []
    ∧ sOwed.alone = true ∧ sOwed.me.pend.any (·.push) = false ∧ endPends sOwed.me.pend sOwed.me.icount ≠ [] := by decide +kernel
theorem wit_TrapWordAndIllegalWord : (sA []).alone = true ∧ (sA []).handles = true ∧ (sF []).alone = true ∧ (sF []).handles = true
    ∧ (sF []).firmware = true := by decide +kernel
theorem wit_FrostAndBreakRaiseAFrost : (sA []).alone = true ∧ (sA []).firmware = false ∧ ((sA []).job (sA []).myCtx.job).isSome = true
    ∧ (frostState (sA []) 5).1 = false ∧ (sA []).me.stepping = none
    ∧ (let s := (sA []).updMe fun x => { x with stepping := some 0, fhandler := true };
      s.alone = true ∧ s.me.stepping.isSome = true ∧ s.me.fhandler = true) := by decide +kernel
/-- Slot 2 is TRAPPED with a handler of the same context. -/
def sTrap (l : List (TReg × Tile)) : State := (sA l).updSlot cc 2 fun x => { x with st := .trapped, uid := 8, resumeAt := 0x500, cause := 7 }
theorem wit_ReadsOfRegistersAndEngines : (sA []).ready [] [3] = true ∧ (sA []).me.binds.contains 3 = false
    ∧ (let s := sTrap [];
      s.ready [] [3] = true ∧ (!s.firmware && jobItem false 0 15 && jobMayReach s 2) = true ∧ (s.slot cc 2).tileBusy 15 = false)
    ∧ (let s := sF [(1, int 0)];
      s.ready [] [1] = true ∧ s.firmware = true ∧ s.pairs = [] ∧ s.sound [1] = true ∧ (s.me.tile 1).tag = false ∧ (s.me.tile 1).control.isSome = true
        ∧ (s.firmware && !((3 : BitVec 2) == 3 && !csrAssigned 0x070)) = true) := by decide +kernel
theorem wit_CsrWrites : ([1, 0x1000000, 4, 20, 0].all fun v => (sCtl v 0).ready [1] [] && isCtl (sCtl v 0) 1 v && (sCtl v 0).handles) = true
    ∧ (sCtlF 0x300 0).ready [1] [] = true ∧ isCtl (sCtlF 0x300 0) 1 0x300 = true ∧ (sCtlF 0x300 0).firmware = true := by decide +kernel
theorem wit_CountersFlagsAndTimers : ([5, BitVec.allOnes 64, 0x80000, 0x1000, 0xFE00000].all fun v => (sCtl v 0).ready [1] []
      && isCtl (sCtl v 0) 1 v && (sCtl v 0).handles) = true
    ∧ trigBad 5 = none ∧ (trigBad 0x1000).isSome = true
    ∧ (let s := sA [(1, { int 5 with tag := true })];
      s.ready [1] [] = true ∧ (s.me.tile 1).control.isSome = true ∧ (s.me.tile 1).tag = true) := by decide +kernel
theorem wit_PrivilegedWordsTrap : (sA []).alone = true ∧ (sA []).handles = true ∧ (sA []).firmware = false := by decide +kernel
theorem wit_ResumeAndRewriteOfATrappedSlot :
    (let s := sTrap [(1, int 3)];
      s.alone = true ∧ s.pairs = [] ∧ s.myCtx.frozen = false ∧ (s.slot cc 2).st = .trapped ∧ (s.slot cc 2).ctx = s.me.ctx
        ∧ (s.slot cc 2).trailing = false ∧ (s.slot cc 2).cause ≠ causeCode .stream ∧ (s.slot cc 2).pend = [] ∧ streamsOn s cc = []
        ∧ s.ready [1] [] = true ∧ (s.me.tile 1).tag = false ∧ (boundTo s cc 2 15).isNone = true ∧ isCtl s 1 3 = true
        ∧ s.handles = true ∧ s.firmware = false ∧ (s.slot cc 1).st ≠ .trapped) := by decide +kernel
theorem wit_CacheInvalidations : (sA []).alone = true ∧ ownEvents (sA []) (ownerOf (sA [])) = []
    ∧ (let s := sCtl 0x2000000000010040 0;
      s.ready [1] [] = true ∧ ownEvents s (ownerOf s) = [] ∧ isCtl s 1 0x2000000000010040 = true)
    ∧ (let s := sCtlF 1023 0x2000000000010040;
      s.firmware = true ∧ s.ready [1, 2] [] = true ∧ isCtl s 1 1023 = true ∧ isCtl s 2 0x2000000000010040 = true ∧ s.alone = true) := by
  decide +kernel
/-- Firmware, a context of the job in slot 1 of the core, and an evicted context of another job there. -/
def sMove : State :=
  let s := sCtlF 0x5000000000004100 0
  let s := s.updCore cc fun k => k.setCtx 1 (some ctxA)
  { s with fw := { s.fw with dirs := [{ dirA with slot := 1 }, { dirA with addr := 0x4100, job := 6, st := .evicted, save := [0x20000] }] } }
/-- The same with the job frozen and settled, its entry named. -/
def sMove2 : State :=
  let s := (sCtlF 0x5000000000004000 0).updCore cc fun k => k.setCtx 1 (some { ctxA with frozen := true })
  { s with fw := { s.fw with dirs := [{ dirA with slot := 1 }] } }
theorem wit_ContextMoves :
    (sMove.firmware = true ∧ sMove.ready [1] [] = true ∧ isCtl sMove 1 0x5000000000004100 = true
      ∧ (dirAt sMove 0x4100).map (fun d => (d.st, d.core, d.job)) = some (.evicted, cc, 6) ∧ sMove.me.st = .ready ∧ (sMove.ctxAt cc 2).isNone = true
      ∧ (sMove.core cc).ctxOf 6 = none ∧ (2 : BitVec 2) ≠ sMove.me.ctx
      ∧ (sMove.ctxAt cc 1).map (fun k => (k.st, k.frozen)) = some (.active, false))
    ∧ (sMove2.firmware = true ∧ sMove2.ready [1] [] = true ∧ (dirAt sMove2 0x4000).map (·.job) = some 5
      ∧ (sMove2.ctxAt cc 1).map (fun k => (k.job, k.frozen)) = some (5, true) ∧ settledCore sMove2 cc 5 = true)
    ∧ (let s := sMove.updMe fun x => { x with st := .stalled (.ctxld 2) };
      s.firmware = true ∧ s.ready [1] [] = true) := by decide +kernel
/-- Firmware on core 0.1.1, and the job's context on core 0.1.0 with slot 1 frozen in its instruction. -/
def sJobs (a b : Word64) (f : Job → Job) : State :=
  let s := sCtlF a b
  let s := s.updCore 0x00101 fun _ => s.core cc
  let s := s.updCore cc fun _ => { Core.reset with
    slots := #v[Slot.reset, { slotA [] with st := .frozen none false }, Slot.reset, Slot.reset], ctxs := #v[some { ctxA with frozen := true }, none, none, none] }
  { s with cur := (0x00101, 0), fw := { s.fw with jobs := s.fw.jobs.map f } }
/-- The job FROZEN by a debugger, its wave over. -/
def frozenJob (x : Job) : Job := { x with frost := { x.frost with active := true, count := 1, cause := causeWord 4 0 } }
theorem wit_FirmwareActsOnJobs :
    (let s := sJobs 5 3999 id;
      s.firmware = true ∧ s.ready [1, 2] [1] = true ∧ isCtl s 1 5 = true ∧ isCtl s 2 3999 = true ∧ (3999 : Word64).toNat < s.now.toNat + 4000)
    ∧ (let s := sJobs 6 4000 id;
      s.ready [1, 2] [1] = true ∧ isCtl s 2 4000 = true ∧ s.now.toNat + 4000 ≤ (4000 : Word64).toNat ∧ (s.job 6).isNone = true ∧ s.me.st = .ready)
    ∧ (let s := sJobs 5 4000 id;
      s.ready [1, 2] [1] = true ∧ (s.job 5).map (fun x => (x.frost.active, x.frost.resumed.contains x.frost.count, x.harvesting, uncommitted x))
        = some (false, false, false, false))
    ∧ (let s := sJobs 5 4000 frozenJob;
      s.ready [1, 2] [1] = true ∧ (s.job 5).map (fun x => (x.frost.active, x.frost.waiting, x.frost.resume)) = some (true, [], none)
        ∧ (s.lam.reference || s.lam.path) = true ∧ s.power.warn = false ∧ (s.job 5).map (·.parts) = some [])
    ∧ ((sJobs 5 0 fun x => { x with harvesting := true }).job 5).map (·.harvesting) = some true
    ∧ ([Wait.harv 5, Wait.step cc 1].all fun w => let s := (sJobs 5 0 id).updMe fun x => { x with st := .stalled w }; s.alone && s.firmware) = true
    ∧ (let s := sJobs 0x01000005 0 id   ;
      s.ready [1] [1] = true ∧ isCtl s 1 0x01000005 = true ∧ (s.job 5).map (fun x => (x.region.contains kk, x.frost.active)) = some (true, false))
    ∧ (let s := sJobs 0x02000005 0 id;
      s.ready [1] [1] = true ∧ (s.job 5).map (fun x => x.region.contains 0x002) = some false)
    ∧ (let s := sJobs 0x01000005 0 frozenJob;
      s.ready [1] [1] = true ∧ (s.job 5).map (fun x => (x.region.contains kk, x.frost.active, decide (x.frost.cause.extractLsb' 8 4 ≠ 5)))
          = some (true, true, true)
        ∧ (s.ctxAt cc (s.slot cc 1).ctx).map (·.job) = some 5 ∧ frozenAt s cc 5 = true ∧ (s.slot cc 1).st = .frozen none false ∧ s.pairs = []
        ∧ (cc, (1 : BitVec 2)) ≠ s.cur) := by decide +kernel
/-- The same while a power-fail warning is in force. -/
def sWarned : State := { sJobs 5 4000 id with power := { State.reset.power with warn := true } }
theorem wit_FirmwareActsOnJobs_warned : sWarned.firmware = true ∧ sWarned.ready [1, 2] [1] = true ∧ isCtl sWarned 1 5 = true ∧ isCtl sWarned 2 4000 = true
    ∧ sWarned.now.toNat + 4000 ≤ (4000 : Word64).toNat ∧ sWarned.power.warn = true := by decide +kernel


/-- A route word: rank 0, core 0, selector 4, payload format UINT64, priority 3. -/
def rw : Word64 := 0x4019C
/-- T1 a route word, T2 an argument, T4 a payload, T5 two instants, in a state. -/
def sSend : State := sA [(1, Tile.ofWord rw false), (2, int 77), (4, arr .uint64 1 2 [1, 2]), (5, arr .int64 1 2 [9, 100])]
/-- A message that a handler was launched by, with a tag for the reply. -/
def msgA : Msg := Msg.formed {
  dstPart := 0, dstCore := cc, srcCore := 0x00101, srcPart := 0, vnet := 0, kind := 0, prio := 3, rcheck := 0, etag := false, job := 5, sel := 4, tag := 2,
  pfmt := 0, seq := 1, residue := 0, aux := 0, arg := 42, zeros := 0, retained := false, fixed := false, args := [], payload := [] }
/-- The running handler was launched by it. -/
def sAsked : State := sSend.updMe fun x => { x with launch := some {
  ctx := 0, sel := 4, code := 0x1000, fmt := .int64, budget := 65536, arg := 42, msg := some msgA, origin := .message, index := 0, trailer := none } }
/-- The hypotheses of a sending form that do not speak of its payload. -/
def sendReady (s : State) (l : List TReg) : Bool :=
  let x := aluIn s []
  s.ready l [] && (outFull s).isNone && (timedFull s).isNone && (x.tile 1).isWord && (x.tile 1).word == rw && !(x.tile 1).tag && (routeOf rw).low == 0
    && (routeOf rw).prio != 31 && (x.tile 2).control.isSome
    && (creditWait s (outOf s { newMsg s 0 (routeOf rw) { bytes := [], aux := 0, tag := false } 0 77 false with retained := true })).isNone
theorem wit_MessagesAreFormed :
    sendReady sSend [1, 2] = true ∧ sendReady sSend ([1, 2] ++ payloadTiles 4 0) = true ∧ sendReady sSend ([1, 5] ++ payloadTiles 0 0) = true
    ∧ (fmtOf (routeOf rw).pfmt.toNat = some .uint64 ∧ (payloadOf (aluIn sSend []) 4 0 .uint64).isSome = true)
    ∧ (((aluIn sSend []).tile 5).fmt = .int64 ∧ ((aluIn sSend []).tile 5).cells = [0, 1])
    ∧ sSend.me.launch.isNone = true
    ∧ (sendReady sAsked [2] = true ∧ sAsked.me.launch.bind (·.msg) = some msgA ∧ sAsked.me.replied = false ∧ Msg.expectsReply msgA = true)
    ∧ (sSend.alone = true ∧ (outFull sSend).isNone = true)
    ∧ (let s := sF [(3, arr .uint8 1 64 (((bytesOf 16 0).set 6 (BitVec.ofNat 8 0x10)).map (·.toNat)))];
      s.firmware = true ∧ s.ready [3] [] = true ∧ (outFull s).isNone = true ∧ ((aluIn s []).tile 3).tag = false
        ∧ (let h : BitVec 256 := ((aluIn s []).tile 3).bytes.setWidth 256;
          (h.extractLsb' 51 5).toNat = 2 ∧ (msgOf (h.extractLsb' 0 128) (h.extractLsb' 128 128) []).zeros = 0
            ∧ (creditWait s { outOf s (Msg.formed { msgOf (h.extractLsb' 0 128) (h.extractLsb' 128 128) [] with retained := false, fixed := false })
              with route := false, asIs := true }).isNone = true)) := by decide +kernel
/-- A message in an output buffer, for another part. -/
def outA (a : Option Word64) : OutMsg :=
  { msg := Msg.checked { msgA with dstPart := 1 }, slot := 0, uid := 7, evs := [], posts := [], at_ := a, route := true, loop := false, asIs := false, stepped := false, ord := 0 }
theorem wit_OutputLeavesInOrder : ((sA []).ctxAt cc ((sA []).slot cc 0).ctx).map (·.job) = some (outA none).msg.job ∧ (outA none).asIs = false
    ∧ (outA (some 9)).at_ = some 9 ∧ (outA none).msg.dstPart ≠ (sA []).part ∧ (outA none).msg.retained = false ∧ ((sA []).core cc).out = [] ∧ ((sA []).core cc).timed = []
    ∧ frozenAt (sA []) cc 5 = false ∧ heldFor (sA []) cc (Msg.checked { (outA none).msg with seq := 0 }) = false := by decide +kernel
/-- A descriptor's storage: base, stride 8, 4 rows. -/
def desc (ix : Nat) : Tile := arr .uint64 1 8 [0x2000000000100000, 8, 0, 3, if ix = 1 then 0x2000000000200000 else 0, 0, 0, if ix = 1 then 0xD0000 else 0]
/-- A binding instruction's hypotheses. -/
def bindReady (s : State) (kind : BitVec 2) : Bool :=
  let u := s.me.tile 2
  let r := streamOf s 1 kind (s.me.tileRaw 1) u.bytes
  s.ready [2] [1] && !(s.me.binds.contains 1) && decide (openStreams s < 8) && !u.tag && descriptorOk kind (s.me.tileRaw 1).fmt r u.bytes
    && streamOpOk kind (s.me.tileRaw 1).fmt r.op && (match streamPtr s r (s.me.tileRaw 1).fmt with
      | .ok _ => true
      | .error _ => false)
theorem wit_StreamsBindAndClose :
    bindReady (sA [(1, int 0), (2, desc 0)]) 0 = true ∧ bindReady (sA [(1, int 0), (2, desc 1)]) 1 = true
    ∧ bindReady (sS (List.replicate 7 (strm 1 9 2 4 [] .open_)) [(1, int 0), (2, desc 0)]) 2 = true ∧ bindReady (sA [(1, int 0), (2, desc 0)]) 3 = true
    ∧ ((sA []).alone = true ∧ owedTile (sA []).me 1 = false ∧ (boundTo (sA []) cc 0 1).isNone = true)
    ∧ ([(0, StreamSt.open_), (2, .open_), (2, .closing)].map fun p => (boundTo (sS [strm 1 1 p.1 4 [] p.2] []) cc 0 1).map fun q => (q.2.isWrite, q.2.st))
      = [some (false, .open_), some (true, .open_), some (true, .closing)] := by decide +kernel
/-- The job owns accumulator 3, in an integer format; operands of a dense INT8 post in T1 to T8. -/
def sPost : State :=
  ((sA ((List.range 8).map fun n => (BitVec.ofNat 4 (n + 1), arr .int8 8 8 [n]))).updCluster kk fun q => q.setAcc 3 { Acc.reset with owner := some 5 })
theorem wit_MatrixWordsReachTheIsland :
    (sPost.ready (groupNames 1 4 ++ groupNames 5 4) [] = true ∧ (islandFull sPost).isNone = true
      ∧ (match capture sPost (aluIn sPost []) 1 (some 5) 3 0 false false with
        | .ok _ => true
        | .error _ => false) = true)
    ∧ (sPost.ready (groupNames 1 4) [] = true ∧ (match capture sPost (aluIn sPost []) 1 none 3 0 true true with
        | .ok _ => true
        | .error _ => false) = true)
    ∧ (sPost.alone = true ∧ ((sPost.cluster kk).acc 3).owner = some sPost.myCtx.job ∧ sPost.me.st = .ready)
    ∧ ([false, true].all fun b => let s := sPost.updMe fun x => { x with st := .stalled (.accCfg (some b)) }; s.alone && s.handles) = true
    ∧ (let s := sPost.updMe fun x => x.setTile 9 (int 0x1F10);
      s.ready [9] (groupNames 15 1) = true ∧ (15 : TReg).toNat + 0 ≤ 15 ∧ s.me.binds.contains 15 = false ∧ isCtl s 9 0x1F10 = true
        ∧ (0x1F10 : Word64).extractLsb' 13 51 = 0 ∧ (0x1F10 : Word64).extractLsb' 5 3 = 0 ∧ (0x1F10 : Word64).extractLsb' 0 4 = 0
        ∧ ((0x1F10 : Word64).extractLsb' 8 5).toNat + 0 ≤ 31) := by decide +kernel
/-- Does a row of an access lie in the part? -/
def rowKeys (s : State) (t : Check Transfer) (write : Bool) : Bool := match t with
  | .ok tr => match tr.rows[firstRow s]? with
    | some r => match locate s tr r write with
      | .keys _ => true
      | _ => false
    | none => false
  | .error _ => false
/-- A COPY descriptor, destination and source. -/
def sCopy : State := sA [(1, arr .uint64 1 8 [0, 0, 0, 0, 256, 0, 0, 0x10000000]), (2, int 0x100), (3, int 0x800)]
/-- An event of the running handler. -/
def evA : MemEv := MemEv.mk 3 0 .read [0] (.slot cc 0 7) 1 1 0 [] 1 [(0, 0)] none [] 0 5 0
/-- The state with it outstanding. -/
def sOut : State := { sA [] with memq := [evA] }
/-- A legal code8 table as bytes: entry i is i, with the sign in its upper half. -/
def code8Bytes : List Byte := (List.range 256).flatMap fun i => bytesOf 4 (if i < 128 then i else i - 128 + 2 ^ 18)
/-- The reads of FMTTAB have come back. -/
def sTable : State := { ((sA []).updMe fun x => { x with st := .stalled (.memory [4]) }) with
  rets := [Ret.mk 4 (.slot cc 0 7) 0 (code8Bytes.zipIdx.map fun p => (p.2, p.1)) false none] }
theorem wit_FenceTableAndCopy :
    ((sA []).alone = true ∧ ownEvents (sA []) (ownerOf (sA [])) = [])
    ∧ (let s := sOut.updMe fun x => { x with icount := 1 };
      ((ownEvents s (ownerOf s)).filter fun e => decide (e.n < s.me.icount) && (2 : BitVec 4).getLsbD e.cls.toNat && decide (e.near.toNat ≤ 0) && e.reads).map (·.id) = [3])
    ∧ (let s := sA [(2, int 0x400)];
      s.ready [2] [] = true ∧ s.me.st = .ready ∧ (s.me.tile 2).tag = false ∧ (s.me.tile 2).isWord = true
        ∧ rowKeys s (accessChecks s (s.me.tile 2).word [{ n := 0, off := 0, len := 1024 }] 16 (fun _ => false) false) false = true)
    ∧ (sTable.alone = true ∧ sTable.me.st = .stalled (.memory [4]) ∧ (sTable.rems.filter fun r => [4].contains r.id) = []
      ∧ (sTable.rets.all fun r => !r.tag) = true
      ∧ code8Ok (((sTable.rets.filter fun r => [4].contains r.id).flatMap (·.bytes)).foldl
        (fun v d => v ||| ((d.2.setWidth 8192 : BitVec 8192) <<< (8 * d.1))) 0) = true)
    ∧ (let s := sCopy
      let u := (s.me.tile 1).bytes
      let win (w : Word64) : Option Word64 := (ptrOf w).bind (resolve s s.myCtx.job s.cur.1);
      s.ready [1, 2, 3] [] = true ∧ (s.me.tile 2).isWord = true ∧ (s.me.tile 3).isWord = true ∧ u.extractLsb' 496 16 = 0 ∧ u.extractLsb' 484 4 = 0
        ∧ u.extractLsb' 448 28 = 0 ∧ u.extractLsb' 296 24 = 0 ∧ u.extractLsb' 0 256 = 0 ∧ u.extractLsb' 490 2 ≠ 3 ∧ (u.extractLsb' 256 40).toNat = 256
        ∧ (checkRows 0x100 s.firmware (win 0x100) [{ n := 0, off := 0, len := 256 }] 16 (fun _ => true)).isNone = true
        ∧ (checkRows 0x800 s.firmware (win 0x800) [{ n := 0, off := 0, len := 256 }] 16 (fun _ => true)).isNone = true
        ∧ copiesTaken s kk < Config.copyPlaces) := by decide +kernel
/-- Rows of 4 INT32 elements from LOCAL 0x100 at a stride of 16 bytes; T4 is tagged; at a row of the transfer. -/
def sRow (n : BitVec 3) : State :=
  (sA [(1, arr .int32 2 4 [1, 2, 3, 4, 5, 6, 7, 8]), (2, int 0x100), (3, int 16), (4, { arr .int32 2 4 [] with tag := true }), (5, arr .int32 2 4 [])]).updMe
    fun x => { x with progress := { live := n != 0, row := n, tile := 1 } }
theorem wit_LoadRowsReadTheirBytes : ([0, 1].all fun n => let s := sRow n; s.alone && s.clear [1, 2, 3] && s.sound [2, 3] && s.me.st == .ready
    && (myPend s 1).isNone && (goingOf s).isNone && rowKeys s (transferCheck true 1 2 3 0 s (aluIn s [])) false) = true := by decide +kernel
theorem wit_StoreRowsWriteTheirBytes : ([0, 1].all fun n => let s := sRow n; s.alone && s.clear [1, 2, 3] && s.sound [1, 2, 3] && s.me.st == .ready
    && !((aluIn s []).tile 1).tag && (goingOf s).isNone && rowKeys s (transferCheck false 1 2 3 0 s (aluIn s [])) true) = true
    ∧ ((aluIn (sRow 0) []).tile 4).tag = true ∧ (sRow 0).sound [4, 2, 3] = true
    ∧ rowKeys (sRow 0) (transferCheck false 4 2 3 0 (sRow 0) (aluIn (sRow 0) [])) true = true := by decide +kernel
theorem wit_AtomRowsSendTheirOperations : ([0, 1].all fun n => [0, 9].all fun (fn : BitVec 5) => let s := sRow n; s.alone && s.clear [5, 2, 1] && s.sound [5, 2, 1]
    && s.me.st == .ready && (myPend s 5).isNone && (goingOf s).isNone && (match atomCheck { fn := fn, ord := true } 5 2 1 0 s (aluIn s []) with
      | .ok tr => !tr.sink
      | .error _ => false) && rowKeys s (atomCheck { fn := fn, ord := true } 5 2 1 0 s (aluIn s [])) true) = true := by decide +kernel
/-- The transfer partly done, as its issue left it: its tiles have changed since. -/
def sGoing (sink : Bool) : State := (sRow 1).updMe fun x => { x with
  going := some { ptr := 0x100, win := some rk, rows := [(0, 0, 16), (1, 16, 16)], sink := sink, told := false, tiles := x.tiles, masks := x.masks }
  tiles := x.tiles.set 2 (int 0x140) }
theorem wit_RowsGoOnAsTheyBegan : ([false, true].all fun b => let s := sGoing b; s.alone && s.clear [1, 2, 3] && s.sound [1, 2, 3] && s.me.st == .ready
    && (myPend s 1).isNone && (match goingOf s with
      | some v => v.1.sink == b && (match v.1.rows[firstRow s]? with
        | some r => [true, false].all fun w => match locate s v.1 r w with
          | .keys _ => true
          | _ => false
        | none => false)
      | none => false)) = true := by decide +kernel


theorem wit_EncodedInstructionsDecode : WellFormed (.perm8 15 8 15 3) = true ∧ (encode (.perm8 15 8 15 3)).isSome = true := by decide +kernel
theorem wit_DecodedWordsEncodeBack : decode 0x04001000 = .ok .done := by decide +kernel
theorem wit_WrittenWordsDecode : (0x03FFFFFF : BitVec 32).extractLsb' 26 6 = 0 ∧ (0xFFFFFFFF : BitVec 32).extractLsb' 26 6 = 0x3F := by decide +kernel
/-- The line of pc 0x1000 with a word first. -/
def sWord (w : Nat) (tag : Bool) : State := (sA [(3, int 1), (4, int 2)]).updCluster kk fun q => { q with code := [CodeLine.mk 3 0x1000 (BitVec.ofNat 512 w) tag] }
/-- The hypotheses of a step that issues slot 0. -/
def issues (s : State) : Bool := (dueSched s).isNone && (ownStep s).isNone && issuable s == [(cc, 0)]
theorem wit_AStepRunsTheDecodedInstruction :
    ([sWord 0x0CC91000 false, sWord 0 false, sWord 0 true, sA []].all issues) = true
    ∧ (let s := sWord 0x0CC91000 false
      let n := codeLine s (clusterOf cc) (ctxOfSlot s cc 0).asid (s.slot cc 0).pc;
      n.map (·.tag) = some false ∧ (n.bind fun n => (decode ((n.bytes >>> (8 * ((s.slot cc 0).pc.toNat % 64))).setWidth 32)).toOption) = some (.add 3 2 4 1)
        ∧ (match exec (.add 3 2 4 1) (beginIssue s cc 0) with
          | .next t => !idle s (afterStep t cc 0)
          | _ => false) = true)
    ∧ (match exec (.illegalEncoding 0) (beginIssue (sWord 0 false) cc 0) with
      | .next t => !idle (sWord 0 false) (afterStep t cc 0)
      | _ => false) = true
    ∧ (codeLine (sWord 0 true) (clusterOf cc) 3 0x1000).map (·.tag) = some true
    ∧ (match fetch (sA []) cc 0 with
      | .miss => !idle (sA []) (fetchMiss (beginIssue (sA []) cc 0))
      | _ => false) = true := by decide +kernel
theorem wit_EveryStepKeepsMemoryCanonical : (sA []).Inv ∧ (match step (sA []) with
    | .next _ => true
    | _ => false) = true := by unfold State.Inv; decide +kernel
theorem wit_MemoryReadsWhatWasWritten : Memory.wf [(3, 7), (9, 1)] = true := by decide +kernel
theorem wit_TransposeMirrorsTheTile :
    (let s := sA [(1, arr .int8 2 9 [])]; s.alone = true ∧ s.clear [1, 2] = true ∧ s.handles = true ∧ 8 < ((aluIn s []).tile 1).cols)
    ∧ (let s := sA [(1, arr .int8 2 8 [1, 2])]; s.aluReady (.trn 2 1 0) = true ∧ ((aluIn s []).tile 1).legal = true) := by decide +kernel
theorem wit_TheReturnStackHoldsEight : ((sStack 7).alone = true ∧ (sStack 7).me.rstack.length < 8) ∧ ((sStack 8).alone = true ∧ (sStack 8).handles = true
      ∧ 8 ≤ (sStack 8).me.rstack.length) ∧ ((sStack 1).alone = true ∧ (sStack 1).me.rstack = [0x400])
    ∧ ((sStack 0).alone = true ∧ (sStack 0).handles = true ∧ (sStack 0).me.rstack = [])
    ∧ (let s := (sAsked.updSlot cc 1 fun x => { x with st := .launching 0, launch := sAsked.me.launch });
      (let s := { s with clk := { s.clk with cycle := 4 } };
        (s.slot cc 1).st = .launching 0 ∧ (s.slot cc 1).trailing = false ∧ (s.slot cc 1).launch.isSome = true ∧ 0 + 4 ≤ s.clk.cycle ∧ gated s kk = false)) := by decide +kernel
/-- An entry of the job in the island queue, behind another or first. -/
def isl (n : Nat) (op : IslandOp) : IslandEntry := { entryFor sPost 3 op with id := n }
theorem wit_AccumulatorZeroingIsAQueueEntry :
    (sPost.alone = true ∧ (islandFull sPost).isNone = true ∧ ((sPost.cluster kk).acc 3).owner = some sPost.myCtx.job)
    ∧ (let s := sPost.updCluster kk fun q => { q with island := [isl 1 .accz, isl 2 .accz] };
      (s.cluster kk).island[1]? = some (isl 2 .accz) ∧ islandFirst (s.cluster kk) (isl 2 .accz) = false ∧ islandFirst (s.cluster kk) (isl 1 .accz) = true
        ∧ gated s kk = false ∧ (isl 1 .accz).lost = false ∧ ((s.cluster kk).acc 3).owner = some (isl 1 .accz).job) := by decide +kernel


/-- A message of the mesh at the core it is for. -/
def fl (m : Msg) : Flight := { id := 1, msg := m, x := meshX m.dstCore, y := meshY m.dstCore, ring := none, vn := m.vnet, host := false }
/-- It is the only one in flight. -/
def flying (s : State) (m : Msg) : State := { s with mesh := { s.mesh with flights := [fl m] } }
/-- Does the message stand at its core, as atNi asks? -/
def atCore (s : State) (m : Msg) : Bool :=
  flightOf s 1 == some (fl m) && !forGateway s m && Msg.headerOk m && Msg.netOk m && Msg.residueOk m
    && !blockedBy s (fl m) none && (!Msg.mayQueue m || niFree s m.dstCore)
/-- Does the core serve the job, as serves asks? -/
def served (s : State) (c : CoreId) (j : JobId) (i : BitVec 2) : Bool :=
  !orphaned s c j && (s.core c).leadOf j == some i && (match s.ctxAt c i with
    | some k => k.job == j && k.st == .active && !k.frozen
    | none => false) && (match s.dir c j with
    | some d => !d.diverting
    | none => false)
/-- A message of a kind to the tests' core. -/
def msgOfKind (kind : BitVec 4) (f : Msg → Msg) : Msg :=
  Msg.formed (f { msgA with kind := kind, vnet := if kind = 0 ∨ kind = 1 ∨ kind = 2 ∨ kind = 8 then 0 else 1 })
/-- The directory entry of the job changed. -/
def withDir (s : State) (f : Dir → Dir) : State := s.updDir cc 5 f
/-- The context of the job is EVICTED. -/
def sEvicted : State := withDir ((sA []).updCore cc fun k => k.setCtx 0 none) fun d => { d with st := .evicted }
/-- A message for another core in the row, and one for another row. -/
def away : Flight := { fl (msgOfKind 0 id) with x := meshX 0x00200, y := meshY 0x00200 }
/-- An initial record. -/
def recA : HostRec := { seq := 5, route := rw + 0x1000000000000, arg := 1, job := 5, kind := 0, aux := 0, plen := 0, zeroOk := true, macOk := true, payload := [] }
theorem wit_ArrivalsReachTheirContext_1 :
    (let s := { (sA []) with mesh := { (sA []).mesh with flights := [away] } }
      let t := targetOf s away.msg
      let d := away.x == meshX cc
      let next := (away.pos d + 1) % 1024;
      flightOf s 1 = some away ∧ blockedBy s away (some (d, true)) = false ∧ t = some cc ∧ Msg.headerOk away.msg = true ∧ away.ring = none ∧ away.msg.srcPart = s.part
        ∧ (away.x ≠ meshX cc → away.y = meshY away.msg.srcCore) ∧ (away.x ≠ meshX cc ∨ away.y ≠ meshY cc)
        ∧ bufferFree s d true (away.line d) next away.vn = true ∧ markOf s (ringNo d true (away.line d) away.vn) ≠ next) := by decide +kernel
theorem wit_ArrivalsReachTheirContext_2 :
    (let m := msgOfKind 0 fun m => { m with job := 0, dstCore := 0, srcCore := 0x000F0 };
      atCore (flying (sA []) m) m = true ∧ m.kind = 0 ∧ m.job = 0 ∧ isProxy m.srcCore = true ∧ m.srcPart = (sA []).part) := by decide +kernel
theorem wit_ArrivalsReachTheirContext_3 :
    ([0, 5, 6, 7, 1, 2].all fun k => let m := msgOfKind k (fun m => { m with aux := 15 }); let s := flying (sA []) m;
        atCore s m && served s cc m.job 0 && decide ((s.core cc).queue.length < 16) && m.job != 0 && !m.etag && !m.retained) = true := by decide +kernel
theorem wit_ArrivalsReachTheirContext_4 :
    (let m := msgOfKind 0 id;
      (atCore (flying sEvicted m) m = true ∧ orphaned sEvicted cc 5 = false ∧ ((sEvicted.core cc).leadOf 5).isNone = true
        ∧ (sEvicted.dir cc 5).map (fun d => (d.st, decide (d.outside < d.spillQ))) = some (.evicted, true))
      ∧ (let s := { sEvicted with fw := { sEvicted.fw with dirs := [] } };
        atCore (flying s m) m = true ∧ orphaned s cc 5 = false ∧ (s.dir cc 5).isNone = true)) := by decide +kernel
theorem wit_ArrivalsReachTheirContext_5 :
    (let m := msgOfKind 0 fun m => { m with dstCore := 0xFFF00 }
      let f : Flight := { fl m with host := true }
      let s := withJob (sA []) fun x => { x with windows := [4] };
      let s := { s with mesh := { s.mesh with flights := [f] } };
      flightOf s 1 = some f ∧ Msg.headerOk m = true ∧ Msg.netOk m = true ∧ Msg.residueOk m = true ∧ m.kind = 0 ∧ m.etag = false
        ∧ ((s.job m.job).bind fun x => x.windows[(m.dstCore.extractLsb' 0 8).toNat]?) = some 4) := by decide +kernel
theorem wit_ArrivalsReachTheirContext_6 :
    (let s := (sA []).updCore cc fun k => { k with timed := [outA (some 9), outA (some 0), outA (some 0)] };
      (s.core cc).timed = [outA (some 9)] ++ outA (some 0) :: [outA (some 0)] ∧ (0 : Word64).toNat ≤ s.now.toNat ∧ released s cc (outA (some 0)) = true ∧ behindHeld s cc (outA (some 0)) = false
        ∧ frozenAt s cc 5 = false) := by decide +kernel
theorem wit_ArrivalsReachTheirContext_7 :
    (let s := withJob (sA []) fun x => { x with initial := [{ recA with seq := 6 }, recA] };
      let s := { s with clk := { s.clk with thyme := 5 } };
      (s.job 5).map (fun x => (x.initial[1]?, x.started, x.injected.contains 1, decide (x.startAt.toNat + 5 ≤ s.now.toNat))) = some (some recA, true, false, true)
        ∧ (s.job 5).map (fun x => x.fwHolds.isEmpty) = some true ∧ (routeOf recA.route).part ≠ s.part) := by decide +kernel
/-- A message that came back to the context with a NACK, for another part. -/
def nacked : Msg := Msg.again (msgOfKind 3 fun m => { m with srcPart := 1, srcCore := 0x00300, dstPart := 0, dstCore := cc }) none
/-- A destination is held since a cycle, with the message for it. -/
def sHeld (n : Nat) : State := withDir (sA []) fun d => { d with
  ret := [Msg.checked { msgA with dstPart := 1, dstCore := 0x00300 }], holds := [{ part := 1, core := 0x00300, word := 0x00300, since := n }] }
/-- A retained record. -/
def sKept (age : Nat) : State := withDir (sA []) fun d => { d with retained := [{ msg := Msg.checked { msgA with dstPart := 1 }, place := 0, sent := true, tries := 2, age := age }] }
/-- A queue entry of the job, waiting. -/
def qe (m : Msg) (w : Nat) : QEntry := { msg := m, ctx := 0, stamp := 0, w := w, ord := 0, drained := false }
theorem wit_ReturnsAndResends_1 :
    (let m := msgOfKind 3 fun m => { m with srcPart := 1, srcCore := 0x00300 }
      let s := flying (sA []) m;
      atCore s m = true ∧ m.dstCore = cc ∧ m.job = 5 ∧ isProxy cc = false
        ∧ (s.dir cc 5).map (fun d => (d.st, decide (d.ret.length < d.spillQ), d.overflow)) = some (.resident, true, [])) := by decide +kernel
theorem wit_ReturnsAndResends_2 :
    (let m := msgOfKind 3 fun m => { m with dstCore := 0x000F1, seq := 4 }
      let s := flying (withDir (sA []) fun d => { d with core := 0x000F1 }) m
      let s := { s with eth := { s.eth with windows := [(4, newWindow 1 false 5 [] [] 7 8 0 16)] } };
      atCore s m = true ∧ isProxy m.dstCore = true ∧ (windowAt s m.seq.toNat).isSome = true ∧ (s.dir m.dstCore 5).isSome = true) := by decide +kernel
theorem wit_ReturnsAndResends_3 :
    (let m := msgOfKind 4 fun m => { m with srcPart := 1, srcCore := 0x00300 }
      let s := flying (sHeld 0) m;
      atCore s m = true ∧ (match s.dir cc 5 with
          | some d => d.ret.length == 1 && d.ret.all (fun g => g.job == 5 && g.dstPart == 1 && g.dstCore == 0x00300 && g.kind == 0)
            && d.overflow.isEmpty && d.holds.all (fun h => h.part == 1 && h.core == 0x00300 && h.word == 0x00300)
          | none => false) = true
        ∧ (s.core cc).out = [] ∧ frozenAt s cc 5 = false) := by decide +kernel
theorem wit_ReturnsAndResends_4 :
    (let s := { sHeld 0 with clk := { (sHeld 0).clk with cycle := 65536 } };
      ((s.dir cc 5).map fun d => d.holds.any fun h => decide (h.since + 65536 ≤ s.clk.cycle)) = some true) := by decide +kernel
theorem wit_ReturnsAndResends_5 :
    ([0, 1].all fun (a : BitVec 8) => let m := msgOfKind 9 (fun m => { m with seq := 1, aux := a }); let s := flying (sKept 0) m;
        atCore s m && !m.etag && ((s.dir cc 5).map fun d => (d.retained.find? fun r => r.msg.seq == m.seq).map fun r => (r.tries, r.msg.dstPart)) == some (some (2, 1))
          && !(heldFor s cc (Msg.checked { msgA with dstPart := 1 }))
          && !(badAt s ((List.range 320).map (((s.dir cc 5).map (·.retainKey)).getD 0 + ·)))) = true := by decide +kernel
theorem wit_ReturnsAndResends_6 :
    (served (sKept (2 ^ 22)) cc 5 0 = true ∧ niFree (sKept (2 ^ 22)) cc = true ∧ ((sKept (2 ^ 22)).dir cc 5).map (fun d => d.retained.map fun r => (r.msg.seq, r.msg.job, decide (2 ^ 22 ≤ r.age)))
        = some [(1, 5, true)]) := by decide +kernel
theorem wit_ReturnsAndResends_7 :
    (let m := msgOfKind 10 fun m => { m with srcCore := 0x00300 };
      let s := flying (sA []) m;
      atCore s m = true ∧ served s cc 5 0 = true ∧ isProxy cc = false ∧ m.retained = false ∧ ¬(m.srcCore = 0) ∧ (s.core cc).queue = []) := by decide +kernel
theorem wit_ReturnsAndResends_8 :
    (let m := msgOfKind 11 fun m => { m with srcCore := 0x00300, seq := 9 }
      let s := { flying (sA []) m with rems := [RemReq.mk 9 (.slot cc 0 7) 1 [] 0 0x100 none] };
      atCore s m = true ∧ m.kind = 11 ∧ m.vnet = 1 ∧ (requestOf s m.dstCore m).isSome = true) := by decide +kernel
theorem wit_ReturnsAndResends_9 :
    (let r (k : BitVec 4) : SpillRec := { msg := msgOfKind k id, stamp := 0, w := 0, evict := false };
      ([1, 0].all fun k => let s := withDir (sA []) fun d => { d with ring := [r k] };
        (s.dir cc 5).map (fun d => (d.diverting, d.refusing)) == some (true, false) && (s.core cc).queue == [] && (s.ctxAt cc 0).map (·.frozen) == some false) = true) := by decide +kernel
theorem wit_ReturnsAndResends_10 :
    (let s := withDir (sA []) fun d => { d with pendFlags := 1, refusing := true, refused := [(1, cc)] };
      (s.dir cc 5).map (fun d => (d.diverting, d.ring, d.refusing, decide (0 < d.spillQ))) = some (true, [], true, true)) := by decide +kernel
theorem wit_ReturnsAndResends_11 :
    (let s := (sA []).updCore cc fun k => { k with queue := [qe (Msg.formed { msgA with sel := 0xFFF }) (2 ^ 20)] };
      served s cc 5 0 = true ∧ niFree s cc = true ∧ ((s.core cc).queue[0]?).map (fun e => (e.ctx, e.msg.job, e.msg.sel, decide (2 ^ 20 ≤ e.w))) = some (0, 5, 0xFFF, true)
        ∧ ((s.ctxAt cc 0).map fun k => k.trig.toList.all fun w => !trigOn w)  = some true) := by decide +kernel
/-- A line of the handler table: entry 4 at code address 0x1000, receive format INT64, budget default; the rest invalid. -/
def tableLine (w : Nat) : CodeLine := CodeLine.mk 3 0x10040 (BitVec.ofNat 512 w) false
/-- A queued message for selector 4, its table line in the cache. -/
def sQueued (w : Nat) (m : Msg) : State :=
  ((sA []).updCore cc fun k => { k with queue := [qe m 0] }).updCluster kk fun q => { q with code := [tableLine w] }
/-- A launch of the job. -/
def launchA : Launch := { ctx := 0, sel := 4, code := 0x1000, fmt := .int64, budget := 0, arg := 42, msg := some msgA, origin := .message, index := 2, trailer := none }
/-- Slot 1 is LAUNCHING. -/
def sLaunch : State :=
  let s := (sA []).updSlot cc 1 fun x => { x with st := .launching 0, launch := some launchA }
  { s with clk := { s.clk with cycle := 4 } }
/-- A return for T3 of the running slot. -/
def retA : Ret := Ret.mk 4 (.slot cc 0 7) 3 [(0, 5), (63, 9)] false none
/-- The slot waits for it, alone or with another. -/
def sRet (evs : List Nat) : State :=
  { (sA []).updMe (fun x => { x with pend := [{ tile := 3, evs := evs, sent := true, tag := false, keep := false, push := false, n := 0 }], icount := 1 }) with
    rets := [retA] }
theorem wit_HandlersLaunchAndEnd_1 :
    bestOf (choiceKey (sQueued 0x1000 msgA) cc) (candidates (sQueued 0x1000 msgA) cc) = some (.entry (qe msgA 0)) := by decide +kernel
theorem wit_HandlersLaunchAndEnd_2 :
    (let s := sQueued (0x1000 * 2 ^ 80 + 6 * 2 ^ 75 + 2 ^ 74) msgA;
      slotIds.find? (slotFree s (s.core cc)) = some 1 ∧ gated s kk = false ∧ (s.core cc).dispatched ≤ s.clk.cycle
        ∧ (match readEntry s cc ctxA 4 with
          | .found en => receivable msgA en.fmt
          | _ => false) = true ∧ s.ctxAt cc 0 = some ctxA) := by decide +kernel
theorem wit_HandlersLaunchAndEnd_3 :
    (let m := Msg.formed { msgA with sel := 99 };
      bestOf (choiceKey (sQueued 0 m) cc) (candidates (sQueued 0 m) cc) = some (.entry (qe m 0)) ∧ m.kind = 0
        ∧ (match readEntry (sQueued 0 m) cc ctxA 99 with
          | .invalid => true
          | _ => false) = true) := by decide +kernel
theorem wit_HandlersLaunchAndEnd_4 :
    (let k := { ctxA with trig := ctxA.trig.set 5 0x00100004, flags := 1, table := 0x10000 }
      let s := ((sA []).updCtx cc 0 fun _ => k).updCluster kk fun q => { q with code := [tableLine (0x1000 * 2 ^ 80 + 6 * 2 ^ 75 + 2 ^ 74)] };
      trigKind (k.trigAt 5) = 0 ∧ (match bestOf (choiceKey s cc) (candidates s cc) with
          | some (.trigger 0 5) => true
          | _ => false) = true ∧ (match readEntry s cc k (trigSel (k.trigAt 5)) with
          | .found _ => true
          | _ => false) = true) := by decide +kernel
theorem wit_HandlersLaunchAndEnd_5 :
    ((sLaunch.slot cc 1).st = .launching 0 ∧ (sLaunch.slot cc 1).launch = some launchA ∧ 0 + 4 ≤ sLaunch.clk.cycle ∧ gated sLaunch kk = false
      ∧ (sLaunch.ctxAt cc 0).map (fun k => k.pair.getLsbD 37) = some false) := by decide +kernel
theorem wit_HandlersLaunchAndEnd_6 :
    (let s := (sA []).updMe fun x => { x with budget := 0 };
      (s.slot cc 0).budget = 0 ∧ (s.slot cc 0).st = .ready ∧ (s.slot cc 0).trailing = false ∧ (s.slot cc 0).stepping = none
        ∧ (s.slot cc 0).progress.live = false ∧ gated s kk = false ∧ s.handles = true) := by decide +kernel
theorem wit_HandlersLaunchAndEnd_7 :
    (let s := (sTrap []).updSlot cc 2 fun x => { x with allowance := 0 };
      (s.slot cc 2).st = .trapped ∧ (s.slot cc 2).allowance = 0 ∧ (s.slot cc 2).trailing = false ∧ (s.ctxAt cc 0).map (fun k => (k.frozen, k.job)) = some (false, 5)
        ∧ (s.job 5).isSome = true ∧ (frostState s 5).1 = false) := by decide +kernel
theorem wit_HandlersLaunchAndEnd_8 :
    ([[4], [4, 6]].all fun l => let s := sRet l; s.rets.find? (fun r => r.id == 4) == some retA && (s.slot cc 0).st == .ready && !keptFor (s.slot cc 0) 4
        && (s.slot cc 0).stepping.isNone && !frozenAt s cc 5 && (s.slot cc 0).pend.length == 1) = true := by decide +kernel
theorem wit_HandlersLaunchAndEnd_9 :
    (let s := (sRet [4]).updCtx cc 0 fun k => { k with frozen := true };
      frozenAt s cc (((s.ctxAt cc (s.slot cc 0).ctx).map (·.job)).getD 0) = true ∧ (s.core cc).replies = []) := by decide +kernel

/-- Events of the running handler at a key; number 3, then any number. -/
def evt (id key : Nat) (kind : EvKind) (after : List Nat) (arrived : Option Nat) : MemEv :=
  MemEv.mk id key kind [0, 1, 2, 3] (.slot cc 0 7) 1 1 0 after 1 [(0, 4), (3, 7)] arrived [] 0 5 0
/-- The state with events outstanding. -/
def sEvs (l : List MemEv) : State := { sA [] with memq := l, mem := [(0x1000, 9), (0x1003, 255)], nextId := 20 }
/-- An atomic operation. -/
def opA (fn : BitVec 5) (size : Nat) (ord : Bool) : AtomOp := AtomOp.mk fn size false 5 0 true ord false
/-- A copy of n bytes of its job within the window, with sectors done. -/
def cpy (n sectors : Nat) (waits : List Nat) : Copy :=
  { uid := 6, core := cc, ctx := 0, job := 5, slot := 0, dst := 0x800, src := 0x100, length := n, cls := 0, scope := 1
    fin := { done := 0, ctr := 0, rscope := 0, route := 0, arg := 0 }, wait := 0, waits := waits, sectors := sectors, faulted := false, parked := false
    ue := false, dstWindow := rk, srcWindow := rk, evs := [], reqs := [], taken := none }
/-- The state with a copy in the engine. -/
def sCpy (d : Copy) : State := (sA []).updCluster kk fun q => { q with copies := [d] }
/-- Does a range of the next sector lie in the part? -/
def sectorKeys (s : State) (p : Word64) (w : Word64) (d : Copy) (write : Bool) : Bool :=
  match engineAt s kk (.copy 6) 3 p w (d.start : Nat) d.size write with
  | .keys _ => true
  | _ => false
/-- What COPY_SECTOR asks of a copy. -/
def copyRuns (s : State) (d : Copy) : Bool :=
  findCopy s kk 6 == some d && !d.faulted && !d.parked && d.waits.isEmpty && !gated s kk && atWork s kk 6 && (s.cluster kk).misses.isEmpty
/-- Read data of a copy's event 4: one byte of its sector. -/
def retC : Ret := Ret.mk 4 (.copy kk 6) 0 [(0, 5)] false none
theorem wit_MemoryEventsTakeEffect_1 :
    (Memory.wf (sEvs []).mem = true ∧ (sEvs []).hbm.bad = [] ∧ (sEvs []).pairs = []) := by decide +kernel
theorem wit_MemoryEventsTakeEffect_2 :
    (let e := evt 3 0x1000 .read [2] none
      let s := sEvs [evt 2 0x1000 .read [] none, e];
      (s.memq.find? fun e => e.id == 3) = some e ∧ ready s e = false) := by decide +kernel
theorem wit_MemoryEventsTakeEffect_3 :
    ([EvKind.read, .write [(0, 1), (15, 2)]].all fun k => let e := evt 3 0x1000 k [] none
        let s := sEvs [e]; s.memq.find? (fun e => e.id == 3) == some e && ready s e && !isDevice e.key && e.map.all fun p => e.bytes.contains p.1) = true := by decide +kernel
theorem wit_MemoryEventsTakeEffect_4 :
    ([0x1000, vaultBase, vaultBase + 6291440].all fun k => let e := evt 3 k (.atom 0 (opA 0 32 true)) [] none
        let s := sEvs [e]; ready s e && !isDevice e.key && (decide (e.key < vaultBase) || sorrelAccepts s e)) = true := by decide +kernel
theorem wit_MemoryEventsTakeEffect_5 :
    ([Config.deviceBase, vaultBase - 16].all fun k => let e := evt 3 k (.write [(0, 1)]) [] none
        ready (sEvs [e]) e && isDevice e.key && e.key != Config.frostControl) = true := by decide +kernel
theorem wit_MemoryEventsTakeEffect_6 :
    ([(0, 8), (9, 64), (11, 32)].all fun p => let e := evt 3 vaultBase (.atom 0 (opA p.1 p.2 true)) [] (some 8)
        sorrelNext (sEvs [e, evt 4 vaultBase (.atom 0 (opA p.1 p.2 true)) [] (some 9)]) e && decide (5 < 2 ^ p.2)) = true := by decide +kernel
theorem wit_MemoryEventsTakeEffect_7 :
    ([(0, 32), (11, 32)].all fun p => let e := evt 3 0x1000 (.atom 0 (opA p.1 p.2 false)) [] (some 8)
        (sEvs [e, evt 4 0x1000 .read [] none]).memq.all fun x => !x.arrived.isSome || e.place ≤ x.place) = true := by decide +kernel
theorem wit_MemoryEventsTakeEffect_8 :
    ([cpy 16 0 [], cpy 4112 1 []].all fun d => let s := sCpy d
        copyRuns s d && decide (d.start < d.length) && sectorKeys s d.src d.srcWindow d false && (s.ctxAt d.core d.ctx).map (·.asid) == some 3) = true := by decide +kernel
theorem wit_MemoryEventsTakeEffect_9 :
    (let d := { cpy 16 0 [] with evs := [4] }
      let s := { sCpy d with rets := [retC] };
      copyRuns s d = true ∧ d.start < d.length ∧ d.reqs = [] ∧ d.evs ≠ [] ∧ d.taken = none ∧ (d.evs.all fun i => !outstanding s i) = true ∧ s.rets = [retC]
        ∧ retC.tag = false) := by decide +kernel
theorem wit_MemoryEventsTakeEffect_10 :
    (let d := { cpy 16 0 [] with taken := some (List.replicate 16 (7, false)) }
      let s := sCpy d;
      copyRuns s d = true ∧ d.start < d.length ∧ d.taken = some (List.replicate d.size (7, false)) ∧ sectorKeys s d.dst d.dstWindow d true = true) := by decide +kernel
theorem wit_MemoryEventsTakeEffect_11 :
    (let d := { cpy 16 0 [] with taken := some (List.replicate 16 (7, false)), evs := [4] }
      let s := sCpy d;
      copyRuns s d = true ∧ d.start < d.length ∧ (d.evs.all fun i => !outstanding s i) = true) := by decide +kernel
theorem wit_MemoryEventsTakeEffect_12 :
    (copyRuns (sCpy (cpy 4096 1 [])) (cpy 4096 1 []) = true ∧ (cpy 4096 1 []).length ≤ (cpy 4096 1 []).start) := by decide +kernel
/-- Not every device address has a register: there are fewer bytes of registers than addresses. -/
theorem wit_MemoryEventsTakeEffect_no_register : ∃ k, isDevice k = true ∧ k ≠ Config.frostControl ∧ regAt k = none := by
  classical
  have hlen : regNames.length ≤ 5000 := by simp [regNames]
  let regs : Finset ℕ := regNames.toFinset.biUnion fun r => Finset.Ico (Config.regAddr r) (Config.regAddr r + regLen r)
  have hcard : (insert Config.frostControl regs).card < (Finset.Ico Config.deviceBase vaultBase).card := by
    have h1 : regs.card ≤ regNames.toFinset.card * 32 := Finset.card_biUnion_le_card_mul _ _ _ fun r _ => by cases r <;> simp [regLen]
    have h2 := regNames.toFinset_card_le
    have h3 := Finset.card_insert_le Config.frostControl regs
    simp only [Nat.card_Ico, Config.deviceBase, vaultBase]
    omega
  obtain ⟨k, hk, hn⟩ := Finset.exists_mem_notMem_of_card_lt_card hcard
  simp only [Finset.mem_insert, not_or, Finset.mem_biUnion, not_exists, not_and, List.mem_toFinset, Finset.mem_Ico, regs] at hn
  refine ⟨k, by simpa [isDevice] using hk, hn.1, ?_⟩
  simp only [regAt, Option.map_eq_none_iff, List.find?_eq_none, decide_eq_true_eq, not_and]
  exact fun r hr => hn.2 r hr

/-- Page tables of ASID 3: tables at 0x3000, 0x4000, 0x5000 and 0x6000, with an entry for address 0x10000 of level 3 or 4. -/
def sPages (l : Nat) (leaf : Nat) (harvest : Bool) : State :=
  let put (m : List Host.Cell) (p : Nat × Nat) : List Host.Cell := memStore m p.1 (bytesOf 8 p.2)
  let tables := [(0x3000, 0x4001), (0x4000, 0x5001)] ++ if l = 3 then [(0x5000, leaf)] else [(0x5000, 0x6001), (0x6008, leaf)]
  let s := { sA [] with mem := (tables.foldl put []) ++ [(0xBFFFFF0030, if harvest then 3 else 1), (0xBFFFFF0033, 3)] }
  let s := s.updCluster kk fun q => { q with misses := [Miss.mk 3 1 true false (.slot cc 0) false, Miss.mk 3 1 false false (.copy 6) false] }
  withJob s fun x => { x with frames := [0x600000, 0x210000] }
/-- The same with the pair in the chiplet's miss table and a walker at a table of a level. -/
def sWalk (l : Nat) (leaf table : Nat) : State :=
  (sPages 4 leaf false).updChiplet 0 fun q => { q with table := [(3, 1)], walks := [{ asid := 3, vpn := 1, level := l, table := table, seen := [] }] }
/-- The context in slot 0 of the core alone, its slots free, in a state. -/
def sCtx (f : Ctx → Ctx) : State := ((sA []).updSlot cc 0 fun x => { x with st := .free }).updCtx cc 0 f
/-- Does the entry that the walker of sWalk reads stand as R141 asks: valid and well-formed; a leaf? -/
def entryIs (s : State) : Bool × Bool :=
  match ((s.chiplet 0).walks.find? fun w => w.asid == 3 && w.vpn == 1) with
  | some w =>
    let a := w.table + 8 * levelIndex w.level 0x10000
    let p := pteOf (entryAt s.mem a)
    (p.valid && !pteBad w.level p && !badAt s ((List.range 8).map (a + ·)), p.leaf)
  | none => (false, false)
theorem wit_TranslationAndResidency_1 :
    (let s := sPages 4 0x20000F false;
      Memory.wf s.mem = true ∧ ((s.cluster kk).misses.any fun m => !m.served && m.asid == 3 && m.vpn == 1) = true ∧ chipletOf kk = 0
        ∧ ((0x0001 : BitVec 32) ++ (0 : BitVec 16) : BitVec 48) = 0x10000 ∧ (s.chiplet 0).table = []) := by decide +kernel
theorem wit_TranslationAndResidency_2 :
    (let s := (sPages 4 0x20000F false).updChiplet 0 fun q => { q with table := [(3, 1)] };
      (asidEntry s 3).valid = true ∧ (s.chiplet 0).walks = []
        ∧ (let s := { s with mem := [] }; Memory.wf s.mem = true ∧ (asidEntry s 3).valid = false)) := by decide +kernel
theorem wit_TranslationAndResidency_3 :
    ([(1, 0x3000), (2, 0x4000), (3, 0x5000)].all fun p => entryIs (sWalk p.1 0x20000F p.2) == (true, false)) = true := by decide +kernel
theorem wit_TranslationAndResidency_4 :
    (entryIs (sWalk 4 0x20000F 0x6000) = (true, true)) := by decide +kernel
theorem wit_TranslationAndResidency_5 :
    ([0, 0x200003 + 2 ^ 63].all fun v => !(entryIs (sWalk 4 v 0x6000)).1) = true := by decide +kernel
theorem wit_TranslationAndResidency_6 :
    (let s := { sWalk 4 0x20000F 0x6000 with hbm := { State.reset.hbm with bad := [0x6000] } };
      badAt s ((List.range 8).map (0x6008 + ·)) = true) := by decide +kernel
theorem wit_TranslationAndResidency_7 :
    ([(4, (0x20004F : Nat), (0x210000 : BitVec 52)), (3, 0x40004F, 0x600000)].all fun p => let s := sPages p.1 p.2.1 true
        (s.clusters.any fun y => y.2.misses.any fun m => m.asid == 3 && m.vpn == 1 && m.write) && (jobOfAsid s 3).map (·.frames.contains p.2.2) == some true
        && (asidEntry s 3).harvest && (match walkFrom s 0x10000 4 1 (asidEntry s 3).root.toNat [] with
          | .leaf l a e _ => let q := tlbOf 3 0x10000 l e.raw
            q.w && q.c && p.2.2.toNat % q.size == 0 && decide (a + 8 ≤ p.2.2.toNat)
          | .fault _ _ => false)) = true := by decide +kernel
theorem wit_TranslationAndResidency_8 :
    (let s := (sPages 4 0x20000F false).updCluster kk fun q => { q with
        codeWaits := [(3, 0x10040, none)], tlb := [tlbOf 3 0x10000 4 0x20000F] };
      (3, 0x10040, none) ∈ (s.cluster kk).codeWaits ∧ mayRetry s kk .code 3 (vpnOf 0x10040) = true ∧ (match xlate s kk .code 3 0x10040 false true with
        | .ok pa => pa == 0x200040
        | _ => false) = true) := by decide +kernel
theorem wit_TranslationAndResidency_9 :
    ([(none, none), (some 3, none), (some 3, some 0x10000)].all fun (p : Option (BitVec 16) × Option (BitVec 48)) =>
        let s := (sPages 4 0x20000F false).updSlot cc 0 fun x => { x with st := .stalled (.tlbi p.1 p.2 true) }
        (s.slot cc 0).st == .stalled (.tlbi p.1 p.2 true) && !(s.slot cc 0).trailing && !translatedOut s) = true := by decide +kernel
theorem wit_TranslationAndResidency_10 :
    (let s := { sEvicted with fw := { sEvicted.fw with requests := [(cc, 5)] } };
      s.fw.requests.contains (cc, 5) = true ∧ (s.dir cc 5).map (·.st) = some .evicted ∧ (slotIds.find? fun n => ((s.core cc).ctx n).isNone) = some 0) := by decide +kernel
theorem wit_TranslationAndResidency_11 :
    (let s := sCtx fun k => { k with st := .saving };
      (s.ctxAt cc 0).map (fun k => (k.st, k.evicting, k.frozen)) = some (.saving, false, false) ∧ (slotIds.all fun n => !(s.slot cc n).holds 0) = true) := by decide +kernel
theorem wit_TranslationAndResidency_12 :
    (let s := sCtx fun k => { k with st := .saving, evicting := true };
      (s.ctxAt cc 0).map (fun k => (k.st, k.evicting, k.job, k.trailing)) = some (.saving, true, 5, false) ∧ (s.dir cc 5).isSome = true
        ∧ (s.cluster kk).ectxs = [] ∧ (s.cluster kk).copies = []) := by decide +kernel
theorem wit_TranslationAndResidency_13 :
    (let s := sCtx fun k => { k with st := .restoring };
      let s := { s with hbm := { s.hbm with bad := [0x10000] } };
      (s.ctxAt cc 0).map (·.st) = some .restoring ∧ (s.dir cc 5).map (fun d => imageLost s d (Ctx.ofImage ctxA (imageOf s d))) = some true) := by decide +kernel
/-- The context is RESTORING, and its save area holds an image. -/
def sImaged : State := writeImage (sCtx fun k => { k with st := .restoring }) dirA { ctxA with flags := 5 }
theorem wit_TranslationAndResidency_restored_1 :
    (sImaged.ctxAt cc 0).map (fun k => (k.st, k.evictAsked, k.trailing, k.job)) = some (.restoring, false, false, 5) := by decide +kernel
theorem wit_TranslationAndResidency_restored_2 :
    sImaged.dir cc 5 = some dirA ∧ (frostState sImaged 5).1 = false := by decide +kernel
theorem wit_TranslationAndResidency_image : imageLost sImaged dirA (Ctx.ofImage ctxA (imageOf sImaged dirA)) = false := by
  have h : imageOf sImaged dirA = ({ ctxA with flags := 5 } : Ctx).imageBytes := imageOf_writeImage _ _ _ (by decide +kernel)
  rw [h]; decide +kernel

/-- A stream of slot 0 on T2 over 5 rows of 16 bytes of the window, in tiles of 2 rows; a context resident since cycle n holds it. -/
def sFen (kind : BitVec 2) (f : Stream → Stream) (g : Ectx → Ectx) : State :=
  let r := f { strm 1 2 kind 5 [] .open_ with shape := shapeOf .int64 2 2, base := 0x100, strides := [16, 0, 0, 0], window := rk }
  (sA []).updCluster kk fun q => { q with ectxs := [g (ect [r])] }
/-- Has the stream a row to ask for, in the part, and is it its turn? -/
def asksRow (s : State) : Bool := match findStream s kk 1 with
  | some (e, r) => Stream.work s e r == some (.row r.nextRow) && !gated s kk && fennelRoom s kk && fennelTurn s kk == some 1
      && (s.cluster kk).misses.all (fun m => m.who != .stream 1) && (s.ctxAt e.core e.ctx).map (·.asid) == some 3
      && match engineAt s kk (.stream 1) 3 r.base r.window (rowOffset r r.nextRow) r.rowBytes r.isWrite with
        | .keys _ => true
        | _ => false
  | none => false
/-- A tile of two rows. -/
def two : Tile := arr .int64 2 2 [1, 2, 3, 4]
/-- The data of a row have come. -/
def back (s : State) (tag : Bool) : State := { s with rets := [Ret.mk 4 (.stream kk 1) 0 [(0, 5), (15, 6)] tag none, Ret.mk 9 (.stream kk 1) 0 [(16, 5)] tag none] }
/-- A row that is out, with its event. -/
def fly (n : Nat) : Fly := { row := n, evs := [4], index := false }
/-- A tile that is begun, with rows to come. -/
def fill (n left : Nat) : Fill := { t := n, tile := { two with bytes := 0 }, left := left }
/-- May the row end? -/
def endsRow (s : State) : Bool := match findStream s kk 1 with
  | some (_, r) => match r.flying.find? (flyDone s) with
    | some q => !q.index && !gated s kk && (s.rems.all fun x => !q.evs.contains x.id)
      && (((s.rets.filter fun x => q.evs.contains x.id).flatMap (·.bytes)).map (·.1) == [0, 15])
    | none => false
  | none => false
/-- Engine contexts of three contexts of the core, in states. -/
def sThree (a b c : EctxSt) (since : Nat) : State :=
  let e (i : BitVec 2) (st : EctxSt) (n : Nat) : Ectx := { ect [{ strm 1 2 0 4 [] .open_ with uid := i.toNat }] with ctx := i, st := st, since := n }
  let s := (sA []).updCluster kk fun q => { q with ectxs := [e 0 a since, e 1 b (since + 1), e 2 c 0], wants := [(cc, 2)] }
  { s with clk := { s.clk with cycle := 4096 } }
/-- An entry of the slot held until the island takes it. -/
def sHeldPost (n : Nat) (owner : Option JobId) (op : IslandOp) : State :=
  sPost.updCluster kk fun q => { (q.setAcc 3 { Acc.reset with owner := owner }) with heldPosts := [isl 9 op], island := List.replicate n (isl 1 .accz) }
/-- A dense post of INT8 with its B group. -/
def postOp (b : Option (List Nat × Fmt)) : IslandOp := .post [1, 2] .int8 [] b 0 true false true
/-- The island's first entry. -/
def sFire (op : IslandOp) : State := sPost.updCluster kk fun q => { q with island := [isl 1 op] }
theorem wit_EnginesServeStreamsAndMatrices_1 :
    ([0, 3, 4].all fun n => asksRow (sFen 0 (fun r => { r with nextRow := n, filling := if n = 3 then [fill 1 1] else [] }) id) && asksRow (sFen 2 (fun r => { r with nextRow := n, queue := [two] }) id)
      && !two.tag) = true := by decide +kernel
theorem wit_EnginesServeStreamsAndMatrices_2 :
    ([0, 2].all fun k => [false, true].all fun tag => [0, 3, 4].all fun n =>
        endsRow (back (sFen k (fun r => { r with nextRow := n + 1, flying := [fly n, { fly 8 with evs := [12] }], queue := if k = 2 then [two] else [], filling := if k = 0 then [fill (n / 2) 1] else [] }) id) tag)) = true := by decide +kernel
theorem wit_EnginesServeStreamsAndMatrices_3 :
    ((findStream (sFen 2 (fun r => { r with st := .closing, fin := { r.fin with done := 1, route := rw + 0x1000000000000 } }) id) kk 1).any fun p =>
        p.2.isWrite && p.2.st == .closing && p.2.flying.isEmpty && p.2.queue.isEmpty && !p.1.frozen && p.2.fin.done == 1 && (routeOf p.2.fin.route).part != 0) = true := by decide +kernel
theorem wit_EnginesServeStreamsAndMatrices_4 :
    (let s := { (sFen 0 id fun e => { e with st := .draining 0 }) with clk := { (sA []).clk with cycle := 512 } };
      (ectxOf s kk cc 0).map (fun e => (e.st, e.asleep)) = some (.draining 0, false) ∧ 0 + 512 ≤ s.clk.cycle) := by decide +kernel
theorem wit_EnginesServeStreamsAndMatrices_5 :
    (let s := sFen 0 id fun e => { e with st := .parking };
      (ectxOf s kk cc 0).map (fun e => (e.st, e.streams.all fun r => r.flying.isEmpty && (Stream.work s e r).isNone)) = some (.parking, true)
      ∧ (ectxOf (sFen 0 id fun e => { e with st := .restoring }) kk cc 0).map (·.st) = some .restoring) := by decide +kernel
theorem wit_EnginesServeStreamsAndMatrices_6 :
    (let s := sThree .resident .parked .parked 0;
      (s.cluster kk).wants = [(cc, 2)] ∧ (ectxOf s kk cc 2).map (·.st) = some .parked ∧ ((s.cluster kk).ectxs.filter Ectx.holds).length = 1) := by decide +kernel
theorem wit_EnginesServeStreamsAndMatrices_7 :
    (let s := sThree .resident .resident .parked 0;
      (s.cluster kk).wants = [(cc, 2)] ∧ (ectxOf s kk cc 2).map (·.st) = some .parked ∧ ((s.cluster kk).ectxs.filter Ectx.holds).length = 2
        ∧ ((s.cluster kk).ectxs.all fun x => x.st == .resident || x.st == .parked) = true ∧ oldestResident (s.cluster kk).ectxs = ectxOf s kk cc 0
        ∧ (ectxOf s kk cc 0).map (fun e => decide (e.since + 4096 ≤ s.clk.cycle)) = some true) := by decide +kernel
theorem wit_EnginesServeStreamsAndMatrices_8 :
    ([(some 5, .accz), (some 6, IslandOp.accz), (some 5, postOp (some ([3], .int8))), (none, .config 0), (none, .config 1), (some 5, .config 1)].all fun p =>
        [0, 15].all fun n => let s := sHeldPost n p.1 p.2
          (s.cluster kk).heldPosts.find? (fun e => e.core == cc && e.slot == 0) == some (isl 9 p.2) && (isl 9 p.2).evs.isEmpty
            && decide (((s.cluster kk).island.filter IslandEntry.counts).length < 16) && !frozenAt s cc (isl 9 p.2).job && !gated s kk && ((s.cluster kk).acc 3).owner == p.1) = true := by decide +kernel
theorem wit_EnginesServeStreamsAndMatrices_9 :
    ([postOp (some ([3], .int8)), .accrd 31 true 15 0 false, .accrd 0 false 1 3 true].all fun op => let s := sFire op
        (s.cluster kk).island[0]? == some (isl 1 op) && islandFirst (s.cluster kk) (isl 1 op) && !(isl 1 op).lost && !gated s kk && !((s.cluster kk).acc 3).fp32
          && ((s.cluster kk).acc 3).owner == some (isl 1 op).job && postClass .int8 == some 0) = true := by decide +kernel
theorem wit_EnginesServeStreamsAndMatrices_10 :
    ([IslandOp.answered true, .answered false, .config 0, .config 1, .config 2].all fun op => let s := (sFire op).updMe fun x => { x with st := .stalled (.accCfg none) }
        (s.cluster kk).island.find? (fun e => e.core == cc && e.slot == 0 && !e.counts) == some (isl 1 op) && (s.slot cc 0).uid == (isl 1 op).uid
          && islandFirst (s.cluster kk) (isl 1 op) && !gated s kk) = true := by decide +kernel

/-- The job's Frost: its part and cores still to be reached. -/
def withFrost (f : Frost → Frost) : State := withJob (sA []) fun x => { x with frost := f x.frost }
/-- The wave of a Frost of a part is on its way to the core. -/
def sWave (part : PartId) (detected : Nat) : State :=
  let s := withFrost fun f => { f with active := true, count := 1, cause := causeWord 0 4, origin := originWord part cc 2, detected := detected, waiting := [cc] }
  let s := (s.updSlot cc 2 fun x => { x with st := .trapped }).updSlot cc 1 fun x => { x with st := .stalled .tiles }
  { s with clk := { s.clk with cycle := 12 } }
/-- A Frost word for the job. -/
def fword (count : BitVec 24) (time : Word64) : FrostWord := FrostWord.mk 5 count 1 0x00300 1 4 9 time
/-- The job is FROZEN by a Frost of a count and time. -/
def sFrozen (count : BitVec 24) (time : Word64) : State :=
  withFrost fun f => { f with active := true, count := count, cause := causeWord 4 0, time := time, seq := seqWord count 0 cc 2 }
/-- A pair of the running slot with a trailer on core 0.1.1. -/
def prA : Pair :=
  { core := cc, slot := 0, uid := 7, job := 5, tcore := 0x00101, tslot := none, buf := [], sigs := [], vals := [], logVals := [], logSigs := []
    replayVals := [], replaySigs := [], oldVals := [], replies := [], snapL := slotA [(1, int 4)], snapT := slotA [(1, int 4)], count := 0, lastSig := 0, ckptPc := 0
    atL := none, atT := none, state := 0 }
/-- The state with the pair. -/
def sPair (p : Pair) : State :=
  { ((sA []).updCore 0x00101 fun _ => { Core.reset with ctxs := #v[none, some { ctxA with trailing := true }, none, none] }) with pairs := [p] }
/-- The leader's record for its trailer. -/
def recL : LaunchRec := { core := cc, slot := 0, uid := 7, launch := launchA, lfsr := 3, info := 9, tiles := (slotA []).tiles, into := none }
/-- Both sides hold an effect's signature. -/
def prB (state : BitVec 2) (a b : BitVec 32) : Pair := { prA with tslot := some 0, buf := [(a, .fclr 3, 1), (8, .sclose 2, 2)], sigs := [b, 8], state := state }
theorem wit_FrostAndPairEvents_1 :
    (let s := (sA []).updCluster kk fun q => { q with gateAt := some (0, 5) };
      (s.cluster kk).gateAt = some (0, 5) ∧ 0 ≤ s.clk.cycle ∧ (s.job 5).isSome = true ∧ clusterOf cc = kk ∧ ((s.core cc).ctxOf 5).isSome = true) := by decide +kernel
theorem wit_FrostAndPairEvents_2 :
    ([true, false].all fun b => let s := (sA []).updCluster kk fun q => { q with gate := some { endAt := 16, job := 5 } }
        let s := { s with clk := { s.clk with cycle := 16 }, fw := { s.fw with debugMode := b } }
        (s.cluster kk).gate == some { endAt := 16, job := 5 } && s.fw.debugMode == b && decide (16 ≤ s.clk.cycle)) = true := by decide +kernel
theorem wit_FrostAndPairEvents_3 :
    ([sWave 0 0, sWave 1 12].all fun s => (s.job 5).any (fun x => x.frost.waiting.contains cc
          && (x.frost.origin.extractLsb' 48 16 != s.part || decide (x.frost.detected + 12 ≤ s.clk.cycle)))
        && (s.core cc).ctxOf 5 == some 0 && !frozenAt s cc 5 && (s.slot cc 0).holds 0 && (s.slot cc 1).holds 0 && (s.slot cc 2).holds 0
        && (s.slot cc 0).st == .ready && (s.slot cc 1).st == .stalled .tiles && (s.slot cc 2).st == .trapped) = true := by decide +kernel
theorem wit_FrostAndPairEvents_4 :
    (let s := { sFrozen 1 9 with lam := { (sA []).lam with frostSeen := [(5, seqWord 1 1 0x00300 1)] } };
      s.lam.frostSeen.contains (5, seqWord 1 1 0x00300 1) = true ∧ (sFrozen 1 9).lam.frostSeen = []) := by decide +kernel
theorem wit_FrostAndPairEvents_5 :
    ([(0xFFFFFF, 0), (0, 0x7FFFFF), (3, 4)].all fun (p : BitVec 24 × BitVec 24) => let s := sFrozen p.1 9
        (s.job 5).any fun x => !countBelow (fword p.2 9).count x.frost.count && (fword p.2 9).count != x.frost.count) = true := by decide +kernel
theorem wit_FrostAndPairEvents_6 :
    (((sFrozen 4 9).job 5).any fun x => (fword 4 8).count == x.frost.count && outranks (fword 4 8) x.frost) = true := by decide +kernel
theorem wit_FrostAndPairEvents_7 :
    (((sFrozen 4 9).job 5).any fun x => countBelow (fword 3 0).count x.frost.count && !(outranks (fword 4 9) x.frost)) = true := by decide +kernel
theorem wit_FrostAndPairEvents_8 :
    (((sFrozen 4 9).job 5).any fun x => x.frost.active && !x.frost.resumed.contains x.frost.count && x.frost.resume.isNone) = true := by decide +kernel
theorem wit_FrostAndPairEvents_9 :
    (let s := withFrost fun f => { f with active := true, resume := some 0 };
      ((s.job 5).any fun x => x.frost.resume == some 0 && decide ((0 : Word64).toNat ≤ s.now.toNat) && x.frost.active && x.frost.waiting.isEmpty && x.frost.resuming.isEmpty && s.fw.dirs.all fun d => d.fbuf.isEmpty) = true) := by decide +kernel
theorem wit_FrostAndPairEvents_10 :
    (((sA []).job 5).any fun x => !x.region.isEmpty && !x.frost.active) = true := by decide +kernel
theorem wit_FrostAndPairEvents_11 :
    (let s := { sPair prA with launches := [recL] };
      s.pairs = [prA] ∧ s.launches = [recL] ∧ recL.uid = prA.uid ∧ slotIds.find? (slotFree s (s.core 0x00101)) = some 0 ∧ recL.into = none ∧ (s.core 0x00101).dispatched ≤ s.clk.cycle
        ∧ (s.core 0x00101).ctxOf 5 = some 1 ∧ (s.ctxAt 0x00101 1).isSome = true ∧ gated s kk = false) := by decide +kernel
theorem wit_FrostAndPairEvents_12 :
    ([true, false].all fun fr => let p := { prA with uid := 7 };
        let s := ((sPair p).updSlot 0x00101 2 fun x => { x with st := .launching 0 }).updCtx 0x00101 1 fun k => { k with frozen := fr }
        let s := { s with launches := [{ recL with into := some 2 }], clk := { s.clk with cycle := 4 } }
        s.pairs == [p] && recL.uid == p.uid && (s.slot 0x00101 2).st == .launching 0 && (s.core 0x00101).ctxOf 5 == some 1
          && (s.ctxAt 0x00101 1).any (fun k => k.frozen == fr) && !gated s kk) = true := by decide +kernel
theorem wit_FrostAndPairEvents_13 :
    ([0, 1].all fun st => (sPair (prB st 6 6)).pairs == [prB st 6 6] && (prB st 6 6).state != 2 && (prB st 6 6).replaySigs.isEmpty) = true := by decide +kernel
theorem wit_FrostAndPairEvents_14 :
    ((sPair (prB 0 6 7)).pairs = [prB 0 6 7] ∧ returnsDue (sPair (prB 0 6 7)) (.slot cc 0 7) = false ∧ ((0x00101 : CoreId), (0 : BitVec 2)) ≠ (cc, 0)) := by decide +kernel

/-- Port 0 up to part 1, which it reaches. -/
def sPort (f : Port → Port) : State :=
  let s := updPort { sA [] with lam := { (sA []).lam with sets := [(1, 1)] } } 0 fun x => f { x with st := 2, partner := 1, lanes := 8, far := true }
  { s with rot := { s.rot with domain := [(0, [1]), (1, [2])] } }
/-- A message to part 1, or a built-in request of the part itself. -/
def msgTo (p : PartId) : Msg := Msg.checked { msgA with dstPart := p, dstCore := 0x00300, kind := if p = 1 then 0 else 11 }
/-- The gateway that takes it. -/
def gateTo (p : PartId) : Nat := (gatewayOf (sPort id) (msgTo p)).getD 0
/-- It has come to the gateway's place. -/
def flightTo (p : PartId) : Flight :=
  { id := 1, msg := msgTo p, x := meshX (Config.gatewayCore (gateTo p)), y := meshY (Config.gatewayCore (gateTo p)), ring := none, vn := 0, host := false }
/-- The state with it. -/
def sGate (p : PartId) : State := { sPort id with mesh := { (sPort id).mesh with flights := [flightTo p] } }
theorem wit_LamconCarriesPackets_send (p : PartId) (h : p = 0 ∨ p = 1) :
    flightOf (sGate p) 1 = some (flightTo p) ∧ (flightTo p).host = false ∧ forGateway (sGate p) (msgTo p) = true ∧ gatewayOf (sGate p) (msgTo p) = some (gateTo p)
      ∧ (flightTo p).x = meshX (Config.gatewayCore (gateTo p)) ∧ (flightTo p).y = meshY (Config.gatewayCore (gateTo p)) ∧ Msg.headerOk (msgTo p) = true
      ∧ Msg.netOk (msgTo p) = true ∧ Msg.residueOk (msgTo p) = true ∧ blockedBy (sGate p) (flightTo p) none = false := by
  rcases h with rfl | rfl <;>
    exact ⟨rfl, rfl, by decide +kernel, by decide +kernel, rfl, rfl, by decide +kernel, by decide +kernel, by decide +kernel, by decide +kernel⟩
/-- The partner's port, with a place in the order of the link. -/
def peer (n : BitVec 12) : Port := { Port.reset with self := 1, partner := 0, far := true, sendSeq := n }
/-- What it sends. -/
def msgP (kind : BitVec 4) (dst : PartId) : Msg := msgOfKind kind fun m => { m with srcPart := 1, srcCore := 0x00300, dstPart := dst }
/-- A packet that comes by port 0. -/
def pkt (n : BitVec 12) (hops : BitVec 8) (dst : PartId) (kind : BitVec 4) : Packet := packetOf (peer n) 0 255 3 hops 0 (msgP kind dst)
/-- A packet comes as it was sent, when what it holds is a message: its header, its check, the message. -/
theorem look_pkt (n : BitVec 12) (hops : BitVec 8) (dst : PartId) (kind : BitVec 4) (f : State → State) (h : portAt (f (sPort id)) 0 = portAt (sPort id) 0)
    (hm : wireMessage (headOf (peer n) 255 3 hops 0 (msgP kind dst)) (32 + (Msg.wire (msgP kind dst)).length) (Msg.wire (msgP kind dst)) = some (msgP kind dst)) :
    Packet.head (pkt n hops dst kind) = headOf (peer n) 255 3 hops 0 (msgP kind dst)
      ∧ Packet.intact (pkt n hops dst kind) (portAt (f (sPort id)) 0) = true
      ∧ Packet.message (pkt n hops dst kind) (portAt (f (sPort id)) 0) = some (msgP kind dst) := by
  have g := packetOf_spec (portAt (f (sPort id)) 0) (peer n) 0 255 3 hops 0 (msgP kind dst) (by rw [h]; rfl) (by rw [h]; rfl) (by rw [h]; rfl)
  refine ⟨g.1, g.2.1, g.2.2.2.trans ?_⟩
  rw [hm]
  rfl
/-- A packet cut short. -/
def cut : Packet := { pkt 0 1 0 3 with bytes := (pkt 0 1 0 3).bytes.take 15 }
theorem wit_LamconCarriesPackets_cut :
    Packet.intact cut (portAt (sPort id) 0) = false ∧ (Packet.head cut).mode = 2 ∧ (Packet.head cut).mode = modeOf (portAt (sPort id) 0) (Packet.head cut).vc
      ∧ ((Packet.head cut).linkSeq - (portAt (sPort id) 0).recvSeq).toNat < 2048 := by
  have hm : (Packet.head cut).mode = 2 := by decide +kernel
  refine ⟨?_, hm, by decide +kernel, by decide +kernel⟩
  have hl : (Packet.trailer cut).length ≤ 15 := by
    simp only [Packet.trailer, cut, List.length_drop, List.length_take]
    omega
  simp only [Packet.intact, trailerOk, hm]
  rw [if_neg (by decide), if_neg (by decide), beq_eq_false_iff_ne]
  intro hq
  rw [hq, length_gcmTag] at hl
  omega
/-- What has come is a message of a kind that needs no job, in order and not seen before. -/
theorem wit_LamconCarriesPackets_come (k : BitVec 4) (hk : k ∈ [(3 : BitVec 4), 4, 6, 7, 9, 10]) :
    Packet.intact (pkt 0 1 0 k) (portAt (sPort id) 0) = true ∧ Packet.message (pkt 0 1 0 k) (portAt (sPort id) 0) = some (msgP k 0)
      ∧ (Packet.head (pkt 0 1 0 k)).epoch = (portAt (sPort id) 0).recvEpoch
      ∧ (Packet.head (pkt 0 1 0 k)).mode = modeOf (portAt (sPort id) 0) (Packet.head (pkt 0 1 0 k)).vc
      ∧ (Packet.head (pkt 0 1 0 k)).linkSeq = (portAt (sPort id) 0).recvSeq
      ∧ (msgP k 0).dstPart = (sPort id).part ∧ (msgP k 0).kind = k ∧ Msg.headerOk (msgP k 0) = true ∧ Msg.netOk (msgP k 0) = true ∧ Msg.residueOk (msgP k 0) = true
      ∧ (Packet.head (pkt 0 1 0 k)).pathSeq = 255 ∧ (255 - (inAt (sPort id) (msgP k 0).srcPart 3).base).toNat < 256
      ∧ (inAt (sPort id) (msgP k 0).srcPart 3).accepted.contains 255 = false
      ∧ (inAt (putIn (sPort id) { part := 1, gw := 3, base := 0, accepted := [255] }) (msgP k 0).srcPart 3).accepted.contains 255 = true := by
  have hm : wireMessage (headOf (peer 0) 255 3 1 0 (msgP k 0)) (32 + (Msg.wire (msgP k 0)).length) (Msg.wire (msgP k 0)) = some (msgP k 0) := by
    revert k
    decide +kernel
  obtain ⟨h1, h2, h3⟩ := look_pkt 0 1 0 k id rfl hm
  refine ⟨h2, h3, by rw [h1]; rfl, by rw [h1]; rfl, by rw [h1]; rfl, rfl, rfl, ?_, ?_, ?_, by rw [h1]; rfl, ?_, ?_, ?_⟩ <;> (clear hm h1 h2 h3; revert k; decide +kernel)
/-- A packet of an earlier place in the order. -/
theorem wit_LamconCarriesPackets_old (n : BitVec 12) (hn : n ∈ [(2048 : BitVec 12), 4095]) :
    Packet.intact (pkt n 1 0 3) (portAt (sPort id) 0) = true ∧ Packet.message (pkt n 1 0 3) (portAt (sPort id) 0) = some (msgP 3 0)
      ∧ 2048 ≤ ((Packet.head (pkt n 1 0 3)).linkSeq - (portAt (sPort id) 0).recvSeq).toNat := by
  have hm : wireMessage (headOf (peer n) 255 3 1 0 (msgP 3 0)) (32 + (Msg.wire (msgP 3 0)).length) (Msg.wire (msgP 3 0)) = some (msgP 3 0) := by
    revert n
    decide +kernel
  obtain ⟨h1, h2, h3⟩ := look_pkt n 1 0 3 id rfl hm
  refine ⟨h2, h3, ?_⟩
  rw [h1]
  clear hm h1 h2 h3
  revert n
  decide +kernel
/-- A packet for another part, that has hops left. -/
theorem wit_LamconCarriesPackets_pass :
    Packet.intact (pkt 0 11 1 0) (portAt (sPort id) 0) = true ∧ Packet.message (pkt 0 11 1 0) (portAt (sPort id) 0) = some (msgP 0 1)
      ∧ (msgP 0 1).dstPart ≠ (sPort id).part ∧ (Packet.head (pkt 0 11 1 0)).hops.toNat < 12 ∧ (gatewayOf (sPort id) (msgP 0 1)).isSome = true
      ∧ (let x := portAt (sPort id) ((gatewayOf (sPort id) (msgP 0 1)).getD 0 / 4); x.st = 2 ∧ x.queue = [] ∧ x.credit 0 = true) := by
  have hm : wireMessage (headOf (peer 0) 255 3 11 0 (msgP 0 1)) (32 + (Msg.wire (msgP 0 1)).length) (Msg.wire (msgP 0 1)) = some (msgP 0 1) := by
    decide +kernel
  obtain ⟨h1, h2, h3⟩ := look_pkt 0 11 1 0 id rfl hm
  exact ⟨h2, h3, by decide, by rw [h1]; decide, by decide +kernel, rfl, rfl, by decide +kernel⟩
/-- A port's retry buffer with two packets. -/
def withRetry (x : Port) : Port := { x with retry := [pkt 7 1 1 0, pkt 8 1 1 0] }
/-- What gateway 0 keeps for part 1. -/
def sOuts (held : Bool) (un : List (BitVec 32 × BitVec 2 × Msg)) : State :=
  { sPort id with lam := { (sPort id).lam with outs := [{ gw := 0, part := 1, next := 9, unacked := un, waiting := [], held := held }] } }
/-- A built-in request accepted at a gateway, over the page of address 0x10000. -/
def reqOf (m : Msg) (begun : Bool) : Request := { msg := m, id := 6, begun := begun, evs := if begun then [4] else [] }
/-- The state with it. -/
def sReq (m : Msg) (begun : Bool) : State := { sPages 4 0x20000F false with lam := { (sA []).lam with requests := [reqOf m begun] } }
/-- Its message. -/
def reqA (sel : BitVec 12) (aux : BitVec 8) (pfmt : BitVec 5) (args : List Word64) (data : List Byte) : Msg :=
  { msgA with kind := 11, sel := sel, aux := aux, pfmt := pfmt, arg := 0x10000, args := args, payload := data }
/-- Does its range lie in memory, in one piece? -/
def reqKeys (m : Msg) (n align : Nat) (write : Bool) : Bool :=
  let s := sReq m false
  firstOfLine s 0 m && hasRegion s m.job && m.srcPart == s.part && (requestOf s m.srcCore m).isNone
    && match remoteAt s m n align write with
      | .keys f _ => (List.range n).all fun i => f (m.arg.toNat + i) == f m.arg.toNat + i
      | _ => false
/-- Is it performed, with the bytes that came back? -/
def reqDone (m : Msg) : Bool :=
  let s := { sReq m true with rets := [Ret.mk 4 (.gate 6) 0 [(0, 5), (15, 6)] false none] }
  firstOfLine s 0 m && m.srcPart == s.part && [4].all fun i => !outstanding s i
theorem wit_LamconCarriesPackets_1 :
    ((msgTo 0).dstPart = (sGate 0).part) := by decide +kernel
theorem wit_LamconCarriesPackets_2 :
    (let o := outAt (sGate 1) (BitVec.ofNat 6 (gateTo 1)) 1;
      (msgTo 1).dstPart ≠ (sGate 1).part ∧ o.waiting = [] ∧ o.unacked.length < 256 ∧ (sGate 1).lam.outs = [] ∧ o.held = false
        ∧ (let x := portAt (sGate 1) (gateTo 1 / 4); x.st = 2 ∧ x.queue = [] ∧ x.credit (channelOf (sGate 1) (msgTo 1)) = true)) := by decide +kernel
theorem wit_LamconCarriesPackets_3 :
    (portAt (sPort id) 0).st = 2 := by decide +kernel
theorem wit_LamconCarriesPackets_4 :
    ((portAt (sPort withRetry) 0).retry.findIdx? (fun k => (Packet.head k).linkSeq == 8) = some 1 ∧ (portAt (sPort withRetry) 0).queue = []) := by decide +kernel
theorem wit_LamconCarriesPackets_5 :
    (let x := portAt (sPort fun x => { withRetry x with replayed := 7 }) 0; x.st = 2 ∧ x.retry ≠ [] ∧ x.replayed < 8) := by decide +kernel
theorem wit_LamconCarriesPackets_6 :
    (let x := portAt (sPort fun x => { withRetry x with replayed := 8 }) 0; x.st = 2 ∧ 8 ≤ x.replayed) := by decide +kernel
theorem wit_LamconCarriesPackets_7 :
    ([0, 1, 2].all fun n => let x := portAt (sPort fun x => { x with st := 3, failed := n }) 0; x.st == 3 && x.failed == n) = true := by decide +kernel
theorem wit_LamconCarriesPackets_8 :
    (let s := sPort fun x => { x with st := 0 }; (portAt s 0).st = 0 ∧ s.rot.domain ≠ [] ∧ (1 : PartId) ≠ s.part) := by decide +kernel
theorem wit_LamconCarriesPackets_9 :
    (let o := outAt (sOuts false [(8, 0, msgTo 1)]) 0 1; (o.unacked.any fun u => u.1 == 8) = true ∧ o.waiting = []) := by decide +kernel
theorem wit_LamconCarriesPackets_10 :
    (let o := outAt (sOuts true []) 0 1; o.held = true ∧ o.unacked = []) := by decide +kernel
theorem wit_LamconCarriesPackets_11 :
    ([0, 15].all fun (a : BitVec 8) => let n := 16 * (a.toNat + 1)
        remoteLen (reqA 1 a 0 [] []) == some n && reqKeys (reqA 1 a 0 [] []) n 16 false && reqDone (reqA 1 a 0 [] [])
          && reqKeys (reqA 2 a 0 [] (List.replicate n 1)) n 16 true && reqDone (reqA 2 a 0 [] (List.replicate n 1))) = true := by decide +kernel
theorem wit_LamconCarriesPackets_12 :
    ([(0, [(4 : Word64)]), (9, [4, 5]), (10, [4])].all fun (p : BitVec 8 × List Word64) => [6, 7].all fun f => let m := reqA 3 p.1 f p.2 []
        decide (m.args.length = if m.aux = 9 then 2 else 1) && reqKeys m 8 8 true && reqDone m) = true := by decide +kernel

/-- Port n of Lamcon changed, in a domain of two parts, at an instant. -/
def sKeys (n : Nat) (part : PartId) (f : Port → Port) : State :=
  let s := updPort { sA [] with part := part, clk := { (sA []).clk with thyme := 10000000 } } n f
  { s with rot := { s.rot with domain := [(0, [1]), (1, [2])] }, lam := { s.lam with reference := false } }
theorem wit_KeysEpochsAndThyme_1 :
    ([0, 11].all fun n => let s := sKeys n 0 fun x => { x with keWait := true }; (portAt s n).keWait && decide ((portAt s n).keSince + 10000000 ≤ s.now.toNat)) = true := by decide +kernel
theorem wit_KeysEpochsAndThyme_2 :
    (let x := portAt (sKeys 11 1 fun x => { x with st := 1, self := 1 }) 11; x.st ≠ 0 ∧ x.partner.toNat ≤ x.self.toNat) := by decide +kernel
theorem wit_KeysEpochsAndThyme_3 :
    (let x := portAt (sKeys 11 0 fun x => { x with st := 1, partner := 1, keWait := true }) 11; x.st ≠ 0 ∧ x.keWait = true ∧ x.self.toNat < x.partner.toNat) := by decide +kernel
theorem wit_KeysEpochsAndThyme_4 :
    ([true, false].all fun b => let x := portAt (sKeys 11 0 fun x => { x with st := 2, loaded := b }) 11; x.st == 2 && x.loaded == b && !x.keWait) = true := by decide +kernel
theorem wit_KeysEpochsAndThyme_5 :
    (let s := sKeys 11 0 fun x => { x with st := 2, lastThyme := 10000000 - 4000 }; (portAt s 11).st = 2 ∧ (portAt s 11).lastThyme + 4000 ≤ s.now.toNat) := by decide +kernel
/-- Part 1 in a domain whose table names part 0 alone, which is the reference whatever firmware names, with a Thyme adopted or not. -/
def sRef (b : Bool) : State :=
  let s := sKeys 11 1 fun x => { x with st := 2 }
  { s with rot := { s.rot with domain := [(0, [1])] }, lam := { s.lam with adopted := b } }
theorem wit_KeysEpochsAndThyme_reference (b : Bool) :
    (portAt (sRef b) 11).st = 2 ∧ (sRef b).lam.reference = false ∧ leadsToReference (sRef b) 11 = true ∧ (sRef b).lam.adopted = b := by
  refine ⟨rfl, rfl, ?_, rfl⟩
  have h : referencePart (sRef b) = 0 := by
    show (if [0].contains (Config.thymeReference [0]) then Config.thymeReference [0] else 0) = 0
    split
    · next h => simpa using h
    · rfl
  simp only [leadsToReference, h]
  rfl
/-- A queue pair on port 1 with nothing outstanding. -/
def qpA (st : QpSt) : Qp := { st := st, mtu := 4096, port := 1, psn := 7, held := [], evs := [], leaving := false }
/-- Queue pair 5 ready on port 1, an address of that port, a window and an rkey of the job. -/
def sEth (w : Window) : State :=
  let s := sPages 4 0x20000F false
  { s with eth := { s.eth with
      qps := [(5, qpA .ready), (6, qpA .wait)], addrs := [(1, [0x0A000001])], windows := [(4, w)]
      rkeys := [{ rkey := 77, job := 5, va := 0x10000, len := 0x10000 }] } }
/-- A window of the job, of queue pair 5. -/
def winA : Window := newWindow 5 true 5 [3] [4] 78 79 0 16
/-- Is a range of the job's rkey reached, each byte at its own place? -/
def rdmaKeys (r : Reach) (a n : Nat) : Bool := match r with
  | .keys f u => (List.range n).all fun i => f (a + i) == f a + i && !badAt u [f (a + i)]
  | _ => false
/-- A write and a read of 16 bytes of the rkey's range. -/
def wrA : Instr := .rdmaWrite ⟨5, h0⟩ 77 0x10000 (List.replicate 16 1)
/-- The read. -/
def rdA : Instr := .rdmaRead ⟨5, h0⟩ 77 0x10000 16
/-- A request that goes on. -/
def sGoes (i : Instr) (evs : List Nat) : State := putQp (sEth winA) 5 { qpA .ready with held := [i], evs := evs }
/-- The bytes of a read have come, the last granule with a tag or not. -/
def backTo (tag : Bool) : State := { sGoes rdA [4] with rets := [Ret.mk 4 (.rdma 5) 0 [(0, 5), (15, 6)] tag none] }
/-- A page of a generation, and no frame for its copy. -/
def sNoFrame : State := withJob (sPages 4 0x20004F true) fun x => { x with frames := [] }
theorem wit_TheEthernetBlockServesItsPeers_1 :
    (portWorks (sEth winA) 1 = true ∧ qpFree (sEth winA) 9 = true ∧ Nat.min 1024 4096 = 1024 ∧ Nat.min 9000 4096 = 4096
      ∧ ¬(Nat.min 1500 4096 = 1024 ∨ Nat.min 1500 4096 = 2048 ∨ Nat.min 1500 4096 = 4096)) := by decide +kernel
theorem wit_TheEthernetBlockServesItsPeers_2 :
    ((qpAt (sEth winA) 6).st = .wait ∧ (qpAt (sEth winA) 5).st ≠ .free ∧ (qpAt (sEth winA) 5).held = [] ∧ (qpAt (sGoes wrA [4]) 5).held ≠ []) := by decide +kernel
theorem wit_TheEthernetBlockServesItsPeers_3 :
    ([{ h0 with form := .atomic }, { h0 with behind := 16, ecn := true }].all fun (h : ReqHead) =>
        qpReady (sEth winA) 5 && (qpAt (sEth winA) 5).held.isEmpty && (h.form != .inside || decide (16 ≤ h.behind))) = true := by decide +kernel
theorem wit_TheEthernetBlockServesItsPeers_4 :
    ((sEth winA).rot.phase ≠ .recovery ∧ ((0x0A000001 : BitVec 32).setWidth 128 ∈ ownAddrs (sEth winA) 1)
      ∧ 0x0A000002 ∉ ((sEth winA).eth.addrs.look 1).getD []) := by decide +kernel
theorem wit_TheEthernetBlockServesItsPeers_5 :
    ((qpAt (sEth winA) 5).st = .ready ∧ portWorks (sEth winA) (qpAt (sEth winA) 5).port = true ∧ (qpAt (sEth winA) 5).held = [] ∧ (qpAt (sEth winA) 5).evs = []
      ∧ h0.form = .inside ∧ h0.ecn = false ∧ h0.behind < 16) := by decide +kernel
theorem wit_TheEthernetBlockServesItsPeers_6 :
    ([wrA, rdA].all fun i => let s := sGoes i [4]
        qpReady s 5 && (qpAt s 5).held.head? == some i && !(qpAt s 5).evs.isEmpty && !(qpAt s 5).leaving && (qpAt s 5).evs.all fun n => !outstanding s n) = true := by decide +kernel
theorem wit_TheEthernetBlockServesItsPeers_7 :
    ([true, false].all fun b => let s := backTo b; let mine := s.rets.filter fun x => (qpAt s 5).evs.contains x.id
        (mine.any fun x => x.tag && !x.bytes.isEmpty) == b && (mine.flatMap (·.bytes)).map (·.1) == [0, 15]) = true := by decide +kernel
theorem wit_TheEthernetBlockServesItsPeers_8 :
    (match reachCopy 1 sNoFrame 3 0x10000 16 with
        | .wait _ => true
        | _ => false) = true := by decide +kernel
theorem wit_TheEthernetBlockServesItsPeers_9 :
    (match reachCopy 1 (sEth winA) 3 0x20000 16 with
        | .fault _ => true
        | _ => false) = true := by decide +kernel
theorem wit_TheEthernetBlockServesItsPeers_10 :
    ([(76, 0x10000, 16), (77, 0x1FFF0, 17), (77, 0xFFFF, 1)].all fun p => rkeyAt (sEth winA) (BitVec.ofNat 32 p.1) p.2.1 p.2.2 == .none) = true := by decide +kernel
theorem wit_TheEthernetBlockServesItsPeers_11 :
    (rkeyAt (sEth winA) 78 0 320 = .window 4 winA) := by decide +kernel
theorem wit_TheEthernetBlockServesItsPeers_12 :
    ([(0x10000, 16), (0x1FFF0, 16)].all fun (p : Nat × Nat) => rkeyAt (sEth winA) 77 p.1 p.2 == .job 5 3
        && rdmaKeys (reachCopy (pagesOf p.1 p.2).length (sEth winA) 3 p.1 p.2) p.1 p.2 && rdmaKeys (reach (sEth winA) 3 p.1 p.2 false) p.1 p.2) = true := by decide +kernel
theorem wit_TheEthernetBlockServesItsPeers_13 :
    ((List.replicate 4000 (1 : Byte)).length ≤ 4000 ∧ (List.replicate 32 (1 : Byte)).length = 32 ∧ (List.replicate 1184 (1 : Byte)).length = 1184) := by decide +kernel
theorem wit_TheEthernetBlockServesItsPeers_14 :
    ([16, 4096].all fun (n : BitVec 32) => decide (16 ≤ n.toNat ∧ n.toNat ≤ 4096)) = true := by decide +kernel
theorem wit_TheEthernetBlockServesItsPeers_15 :
    (windowFree (sEth winA) 9 = true ∧ rkeyUsed (sEth winA) 80 = false) := by decide +kernel
theorem wit_TheEthernetBlockServesItsPeers_16 :
    (let w := { winA with pendingRecs := [[1], [2]], produced := 15 };
      windowAt (sEth w) 4 = some w ∧ w.open_ = true ∧ w.full = false ∧ qpReady (sEth w) w.qp = true ∧ w.pendingRecs ≠ []) := by decide +kernel
theorem wit_TheEthernetBlockServesItsPeers_17 :
    (let w := { winA with closing := true }; windowAt (sEth w) 4 = some w ∧ w.open_ = true ∧ w.pendingRecs = [] ∧ w.owed = 0) := by decide +kernel
theorem wit_TheEthernetBlockServesItsPeers_18 :
    ([0, 255].all fun n => let w := { winA with last := n, fresh := [0, 1] }
        windowAt (sEth w) 4 == some w && w.open_ && !w.closing && !w.stopped && w.fresh.contains ((w.last.toNat + 1) % 256)) = true := by decide +kernel
/-- Every queue pair is taken. -/
def allTaken : SMap Qp := (List.range' 0 4096).map fun i => (i, qpA .ready)
theorem look_taken (q k n : Nat) (h : n ≤ q) (hq : q < n + k) :
    SMap.look ((List.range' n k).map fun i => (i, qpA .ready)) q = some (qpA .ready) := by
  induction k generalizing n with
  | zero => omega
  | succ k ih =>
    rw [List.range'_succ, List.map_cons, SMap.look]
    split
    · rfl
    · exact ih (n + 1) (by omega) (by omega)
theorem wit_TheEthernetBlockServesItsPeers_full :
    let s := { sA [] with eth := { (sA []).eth with qps := allTaken } }
    portWorks s 1 = true ∧ ∀ q, qpFree s q = false := by
  refine ⟨by decide +kernel, fun q => ?_⟩
  have h := look_taken q.toNat 4096 0 (Nat.zero_le _) (by omega)
  have e : (qpAt { sA [] with eth := { (sA []).eth with qps := allTaken } } q) = qpA .ready := by
    show ((SMap.look allTaken q.toNat).getD _) = _
    rw [show SMap.look allTaken q.toNat = _ from h]
    rfl
  show ((qpAt _ q).st == _ || (qpAt _ q).st == _) = false
  rw [e]
  decide

/-- A command of window 4: selector, argument word, payload as fields of (bytes, value). -/
def cmdA (sel : BitVec 12) (arg : Nat) (l : List (Nat × Nat)) : Cmd :=
  { order := 1, window := 4, sel := sel, tag := 0, arg := BitVec.ofNat 64 arg, payload := l.flatMap fun p => bytesOf p.1 p.2 }
/-- Received in a state whose window 4 has the management right, or has not. -/
def withCmd (s : State) (mgmt : Bool) (c : Cmd) : State :=
  { s with
    eth := { s.eth with qps := [(5, qpA .ready)], windows := [(4, { winA with mgmt := mgmt })] }
    fw := { s.fw with cmds := [c] } }
/-- An address space with its level-1 table alone, one page mapped by MAP if asked, and the job. -/
def sMap (mapped : Bool) : State := if mapped then sPages 4 0x20000B false else { sPages 4 0 false with mem := asidMem }
/-- What MAP makes of a page at 0x10000. -/
def mapOf (s : State) (w : Bool) (tables : List (BitVec 52)) : Bool :=
  (mapPages s.mem 0x3000 4 0x10000 0x10000 w (mappedIn s 0x3000 0x10000 0x10000) [0x1000000] tables).isSome
/-- MAP of that page, with W or without. -/
def cMap (w : Bool) : Cmd := cmdA 0x112 (5 + 2 ^ 32) [(8, 0x10000), (4, 0), (4, w.toNat)]
/-- May it have the frame and these tables? -/
def mapMay (s : State) (w : Bool) (tables : List (BitVec 52)) : Bool :=
  let c := cMap w
  let inside := mappedIn s 0x3000 0x10000 0x10000
  let mine := [(0x1000000 : BitVec 52)].take (freshPages inside 4 0x10000 0x10000).length
  due s c 0x112 && (c.arg.extractLsb' 16 48).toNat == 0x10000 && Cmd.field c 0 8 == 0x10000 && Cmd.field c 8 4 == 0 && Cmd.field c 12 4 == w.toNat
    && (asidEntry s 3).root.toNat == 0x3000 && (inside.all fun e => e.1 == 4) && !rkeyUsed s 80 && decide ((freshPages inside 4 0x10000 0x10000).length ≤ 1)
    && (s.job 5).any fun x => x.mapWait.isNone && mine.all (fun f => frameFree s x f.toNat 65536) && tablesFree s x tables mine 65536
/-- A translated access is out. -/
def sGone (s : State) : State := { s with memq := [{ evA with key := 0x200000 }] }
/-- A harvested generation of the job. -/
def genA (n : BitVec 32) : Generation :=
  { number := n, place := 0, root := 0x8000, vault := [], accs := [], slots := [(cc, 0, slotA [])], ctxs := [(cc, 0, ctxA)], dirs := [dirA], images := [[]], pairs := [], launches := [], engines := [], ranks := [rk] }
/-- An image of the job: one context per rank on core 0, a template of one word and zeros, no section and no message, and a digest. -/
def image (asid word digest : Nat) : List Byte :=
  [(4, 0x4C414245), (2, 1), (2, 5), (2, asid), (2, 16), (8, 0), (4, 1), (8, 0), (8, 0x10000), (24, 0), (8, 128), (8, 448),
    (32, digest), (16, 0), (4, word), (316, 0)].flatMap fun p => bytesOf p.1 p.2
/-- The image with an all-zero template; its digest as SHAKE256 gives it. -/
def imgBytes : List Byte := image 3 0 114640397969574896909011212163151807877620287462978462331138398740725280891528
/-- One with a first trigger word that no trigger has. -/
def imgBad : List Byte := image 3 0xFF000000 47428837580298143382512093163905693112800272284741122305468390524021377154284
/-- The image at 0x10000, no context loaded, a job changed. -/
def sImage (b : List Byte) (f : Job → Job) : State :=
  let s := sPages 4 0x20000F false
  withJob { s with
    cores := [], clusters := [], mem := memPut s.mem 0x200000 b
    fw := { s.fw with dirs := [] } } fun x => f { x with loaded := false }
/-- The place of its context. -/
def placeA : Place := { core := cc, slot := 3, dirAddr := 0x4000, spill := 0x2000000, save := [0x3000000], retain := 0x100000, inject := 0, partner := 0, partnerSlot := 0 }
/-- LOAD of the image. -/
def cLoad : Cmd := cmdA 0x113 0x100000005 []
/-- Is the command due, with the image in memory? -/
def loads (s : State) (b : List Byte) : Bool :=
  due (withCmd s true cLoad) cLoad 0x113 && readImage s 3 0x10000 == some b && (s.job 5).any fun x => !x.loaded && fieldOf b 6 2 == x.id.toNat
theorem wit_CommandsAreAnswered_image_1 :
    loads (sImage imgBytes id) imgBytes = true ∧ fieldOf imgBytes 8 2 = 3 := by decide +kernel
theorem wit_CommandsAreAnswered_image_2 :
    ranksOk jobA (imageHead imgBytes) = true ∧ sections imgBytes (imageHead imgBytes) = [] := by decide +kernel
theorem wit_CommandsAreAnswered_image_3 :
    ((List.range 32).all fun i => (trigBad (BitVec.ofNat 32 (fieldOf ((imgBytes.drop 128).take 320) (4 * i) 4))).isNone) = true := by decide +kernel
theorem wit_CommandsAreAnswered_image_4 :
    imageCode8 imgBytes (imageHead imgBytes) = none := by decide +kernel
theorem wit_CommandsAreAnswered_places : placesOk (sImage imgBytes id) jobA (imageHead imgBytes) false [placeA] = true := by decide +kernel
theorem wit_CommandsAreAnswered_placeable : placeable (sImage imgBytes id) jobA (imageHead imgBytes) false = true := by decide +kernel
theorem wit_CommandsAreAnswered_otherImage : loads (sImage (image 4 0 0) id) (image 4 0 0) = true ∧ fieldOf (image 4 0 0) 8 2 ≠ 3 := by decide +kernel
theorem wit_CommandsAreAnswered_badImage_1 :
    loads (sImage imgBad id) imgBad = true ∧ fieldOf imgBad 8 2 = 3 ∧ ranksOk jobA (imageHead imgBad) = true := by decide +kernel
theorem wit_CommandsAreAnswered_badImage_2 :
    (trigBad (BitVec.ofNat 32 (fieldOf ((imgBad.drop 128).take 320) 0 4))).isSome = true := by decide +kernel
theorem wit_CommandsAreAnswered_badDigest : imageOk imgBad = true := by decide +kernel
theorem wit_CommandsAreAnswered_noRegion : (let s := sImage imgBytes fun x => { x with ranks := [] };
    loads s imgBytes = true ∧ ranksOk { jobA with ranks := [] } (imageHead imgBytes) = false) := by decide +kernel
theorem wit_CommandsAreAnswered_full :
    (let s := (sImage imgBytes id).updCore cc fun k => { k with ctxs := #v[some { ctxA with job := 9 }, some { ctxA with job := 8 }, some { ctxA with job := 7 }, some { ctxA with job := 6 }] };
      loads s imgBytes = true ∧ placeable s jobA (imageHead imgBytes) false = false) := by decide +kernel
theorem wit_CommandsAreAnswered_digest : imageOk imgBytes = true := by decide +kernel
theorem wit_CommandsAreAnswered_1 :
    ([16, 4096].all fun n => let c := cmdA 0x100 0x10050005 [(12, 0), (4, n)]
        let s := withCmd (sA []) true c
        due s c 0x100 && c.window != 7 && Cmd.field c 12 4 == n && (s.job (Cmd.job c)).isSome && (s.eth.qps.look (c.arg.extractLsb' 16 12).toNat).map (·.st) == some QpSt.ready
          && windowFree s 7 && !rkeyUsed s 80) = true := by decide +kernel
theorem wit_CommandsAreAnswered_2 :
    (let c := cmdA 0x101 4 []; let s := withCmd (sA []) true c;
      due s c 0x101 = true ∧ (windowAt s (c.arg.extractLsb' 0 12).toNat).map (fun w => (w.open_, w.closing)) = some (true, false)) := by decide +kernel
theorem wit_CommandsAreAnswered_3 :
    ([[0, 0, 0, 0], [1, 4, 16, 1], [2 ^ 24, 20, 2 ^ 20, 64]].all fun l => let c := cmdA 0x110 (6 + 2 ^ 16 * 1023) (l.map fun v => (4, v))
        let s := withCmd (sA []) true c
        due s c 0x110 && s.rot.phase != .testing && Cmd.job c == 6 && (s.job 6).isNone && !(asidEntry s 1023).valid
          && (setting (Cmd.field c 0 4) 65536 1 (2 ^ 24)).isSome && (setting (Cmd.field c 4 4) 12 4 20).isSome
          && (setting (Cmd.field c 8 4) 1024 16 (2 ^ 20)).isSome && (setting (Cmd.field c 12 4) 16 1 64).isSome) = true := by decide +kernel
theorem wit_CommandsAreAnswered_4 :
    (let c := cmdA 0x111 (5 + 2 ^ 16 * 2) []; let s := withCmd (withJob (sA []) fun x => { x with region := [], ranks := [] }) true c
      let grant : List (ClusterId × BitVec 17) := [(0x001, 0), (0xF44, 98304)];
      due s c 0x111 = true ∧ (s.job 5).map (·.region) = some [] ∧ grant.length = (c.arg.extractLsb' 16 12).toNat
        ∧ (grant.all fun g => grantable s (c.arg.extractLsb' 28 16) g.1 && decide (g.2.toNat ≤ 98304)) = true
        ∧ ((grant.zip (grant.drop 1)).all fun p => decide (p.1.1.toNat < p.2.1.toNat)) = true) := by decide +kernel
theorem wit_CommandsAreAnswered_5 :
    ([(false, true), (true, true), (true, false)].all fun (p : Bool × Bool) => let s := withCmd (sMap p.1) true (cMap p.2)
        mapMay s p.2 [0x2000000, 0x2001000, 0x2002000] && mapOf s p.2 [0x2000000, 0x2001000, 0x2002000] && !translatedOut s) = true := by decide +kernel
theorem wit_CommandsAreAnswered_6 :
    (let s := sGone (withCmd (sMap true) true (cMap true)); mapMay s true [] = true ∧ mapOf s true [] = true ∧ translatedOut s = true) := by decide +kernel
theorem wit_CommandsAreAnswered_7 :
    (let s := withCmd (sMap false) true (cMap true); mapMay s true [0x2000000] = true ∧ mapOf s true [0x2000000] = false) := by decide +kernel
theorem wit_CommandsAreAnswered_8 :
    ([true, false].all fun b => let s := withCmd (withJob (sMap true) fun x => { x with mapWait := some (cMap true, 80) }) true (cMap true)
        let s := if b then sGone s else s
        due s (cMap true) 0x112 && (s.job 5).map (·.mapWait) == some (some (cMap true, 80)) && translatedOut s == b) = true := by decide +kernel
theorem wit_CommandsAreAnswered_9 :
    (let c := cmdA 0x114 5 [(8, 9)]; let s := withCmd (withJob (sA []) fun x => { x with started := false }) true c;
      due s c 0x114 = true ∧ (s.job 5).map (fun x => (x.loaded, x.started)) = some (true, false)) := by decide +kernel
theorem wit_CommandsAreAnswered_10 :
    (let c := cmdA 0x115 5 []; due (withCmd (sA []) true c) c 0x115 = true) := by decide +kernel
theorem wit_CommandsAreAnswered_11 :
    ([(true, none, none), (false, some (genA 2), none), (false, some (genA 1), some (1 : BitVec 32)), (false, none, none)].all fun p => let c := cmdA 0x120 5 []
        let s := withCmd (withJob (sA []) fun x => { x with harvesting := p.1, gens := (p.2.1, none), committed := p.2.2 }) true c
        due s c 0x120 && ((s.job 5).any fun x => x.harvestCmd.isNone && x.harvesting == p.1 && x.openGen == if p.2.2.isSome then none else p.2.1)) = true := by decide +kernel
theorem wit_CommandsAreAnswered_12 :
    ([2, 3].all fun n => let c := cmdA 0x121 (5 + 2 ^ 16 * n) []
        let s := withCmd (withJob (sA []) fun x => { x with gens := (some (genA 2), none) }) true c
        due s c 0x121 && ((s.job 5).bind (·.openGen)) == some (genA 2) && c.arg.extractLsb' 16 32 == BitVec.ofNat 32 n) = true := by decide +kernel
theorem wit_CommandsAreAnswered_13 :
    ([(0x130, 0), (0x131, 0), (0x132, 1), (0x133, 0)].all fun p => let c := cmdA p.1 5 [(8, 4000)]
        due (withCmd (sA []) true c) c p.1.toNat && mgmtRight (withCmd (sA []) true c) c && ((sA []).fw.dirs.any fun d => d.job == 5 && d.st != .absent)) = true := by decide +kernel
theorem wit_CommandsAreAnswered_14 :
    (let c := cmdA 0x132 (5 + 2 ^ 36) []; let s := withCmd (sJobs 0 0 frozenJob) true c;
      (rankEntry s 5 0).isSome = true ∧ c.arg.extractLsb' 36 2 = 1 ∧ (s.job 5).map (·.harvestCmd) = some none ∧ (match beginStep s 5 cc 1 false with
        | (none, _) => true
        | _ => false) = true) := by decide +kernel
theorem wit_CommandsAreAnswered_15 :
    (let c := cmdA 0x132 (5 + 2 ^ 36) []
      let s (b : Bool) : State := (withCmd (sJobs 0 0 fun x => { frozenJob x with harvestCmd := some c }) true c).updSlot cc 1 fun x => { x with
        stepping := if b then none else some 0, st := if b then .frozen none false else .ready };
      stepOver (s true) cc 1 = true ∧ ((s true).slot cc 1).stepStatus = 0 ∧ stepOver (s false) cc 1 = false ∧ due (s true) c 0x132 = true) := by decide +kernel
theorem wit_CommandsAreAnswered_16 :
    (let c := cmdA 0x133 5 [(8, 4000)]; let s := withCmd (withFrost fun f => { f with active := true }) true c;
      s.now.toNat + 4000 ≤ (BitVec.ofNat 64 (Cmd.field c 0 8)).toNat ∧ (s.job 5).map (fun x => (x.frost.active, x.frost.waiting, x.frost.resume)) = some (true, [], none)
        ∧ (s.job 5).map (·.parts) = some [] ∧ s.lam.reference = true ∧ s.power.warn = false) := by decide +kernel
theorem wit_CommandsAreAnswered_17 :
    ([0x130, 0x131, 0x132, 0x133, 0x134].all fun n => let c := cmdA n 5 []; !mgmtRight (withCmd (sA []) false c) c && due (withCmd (sA []) false c) c n.toNat) = true := by decide +kernel
theorem wit_CommandsAreAnswered_18 :
    ([0x114, 0x115, 0x120, 0x121].all fun n => let c := cmdA n 6 []; ((sA []).job (Cmd.job c)).isNone && due (withCmd (sA []) true c) c n.toNat) = true := by decide +kernel
theorem wit_CommandsAreAnswered_19 :
    ([(0x001, true), (0x020, false), (0xFFF, false)].all fun (p : Nat × Bool) => let c := cmdA 0x122 p.1 []
        let s := withCmd (sA []) true c
        let k : ClusterId := c.arg.extractLsb' 0 4 ++ c.arg.extractLsb' 4 8
        due s c 0x122 && serviceCluster k == p.2 && (p.2 || (!(s.cluster k).retired && (holders s k).isEmpty))) = true := by decide +kernel
theorem wit_CommandsAreAnswered_20 :
    (let c := cmdA 0x134 0x010 []; let s := (withCmd (withFrost fun f => { f with active := true, seq := 8, cause := causeWord 4 0 }) true c).updCluster kk fun q => { q with
        capture := some (1, 9, 5, 8) };
      (c.arg.extractLsb' 0 4 ++ c.arg.extractLsb' 4 8 : ClusterId) = kk ∧ (s.cluster kk).capture = some (1, 9, 5, 8) ∧ due s c 0x134 = true ∧ mgmtRight s c = true
        ∧ (s.job 5).map (fun x => (x.frost.active, x.frost.seq, decide ((x.frost.cause.extractLsb' 8 4).toNat ≤ 4))) = some (true, 8, true)) := by decide +kernel
theorem wit_CommandsAreAnswered_21 :
    ([0x140, 0x141, 0x142, 0x143, 0x144, 0x145].all fun n => let c := cmdA n 0 []; due (withCmd (sA []) true c) c n.toNat && due (withCmd (sA []) false c) c n.toNat
        && !mgmtRight (withCmd (sA []) false c) c) = true := by decide +kernel
theorem wit_CommandsAreAnswered_22 :
    ([(0, 3), (253, 3), (0, 0)].all fun (p : Nat × Nat) => let c := cmdA 0x144 (7 + 2 ^ 16 * p.1 + 2 ^ 28 * p.2) [(198, 0)]
        let s := withCmd { State.reset with rot := { State.reset.rot with phase := .service, domain := List.replicate 253 (9, []) } } true c
        due s c 0x144 && mgmtRight s c && s.fw.jobs.isEmpty && (c.arg.extractLsb' 28 2).toNat == p.2 && (c.arg.extractLsb' 16 12).toNat == p.1
          && decide (66 * p.2 ≤ c.payload.length) && decide (p.1 ≤ s.rot.domain.length) && decide (p.1 + p.2 ≤ 256)) = true := by decide +kernel

/-- The supply has been below 95 % since 0, or above since 0. -/
def sSupply (supply : BitVec 8) (now : Nat) (warn : Bool) : State :=
  { sA [] with
    clk := { (sA []).clk with thyme := BitVec.ofNat 64 now }
    power := { (sA []).power with supply := supply, warn := warn, lowSince := if warn then none else some 0, highSince := if warn then some 0 else none } }
/-- The cluster's health counts. -/
def sHealth (f : Cluster → Cluster) (g : Job → Job) : State := (withJob (sA []) g).updCluster kk f
/-- The job is FROZEN by firmware and settled. -/
def sSettled (f : Job → Job) : State :=
  let s := withJob (sA []) fun x => f { x with frost := { x.frost with active := true, count := 1, cause := causeWord 5 1 } }
  (s.updCtx cc 0 fun k => { k with frozen := true }).updSlot cc 0 fun x => { x with st := .frozen none false }
/-- A retirement's choices for the job. -/
def planA : Retiring := { job := 5, image := 0x2000000000400000, imageFrame := 0x700000, orphan := 0x2000000000500000, orphanFrame := 0x800000, resumeAt := 4000 }
theorem wit_PowerHealthAndRecovery_1 :
    State.reset.rot.phase = .reset := by
  decide +kernel
theorem wit_PowerHealthAndRecovery_2 :
    ({ State.reset with rot := { State.reset.rot with phase := .testing } }).rot.phase = .testing := by
  decide +kernel
theorem wit_PowerHealthAndRecovery_3 :
    ({ State.reset with clk := { State.reset.clk with cycle := 64 } }).power.refillAt ≤ 64 := by
  decide +kernel
theorem wit_PowerHealthAndRecovery_4 :
    ((94 : BitVec 8).toNat < 95 ∧ (64 : BitVec 8).toNat ≤ 64 ∧ 95 ≤ (95 : BitVec 8).toNat) := by
  decide +kernel
theorem wit_PowerHealthAndRecovery_5 :
    ([(84, 0), (94, 2000000)].all fun p => let s := sSupply p.1 p.2 false
        !s.power.warn && s.power.lowSince == some 0 && (decide (s.power.supply.toNat < 85) || decide (0 + 2000000 ≤ s.now.toNat)) && supplyFails s) = true := by
  decide +kernel
theorem wit_PowerHealthAndRecovery_6 :
    (let s := sSupply 100 10000000 true;
      s.power.highSince = some 0 ∧ s.power.warn = true ∧ supplyFails s = false ∧ 0 + 10000000 ≤ s.now.toNat ∧ s.now.toNat + 4000 ≤ (10004000 : Word64).toNat) := by
  decide +kernel
theorem wit_PowerHealthAndRecovery_7 :
    (let s := { withFrost (fun f => { f with byWarning := true, active := true }) with power := (sSupply 100 0 true).power };
      ((s.job 5).any fun x => !x.harvesting && x.frost.byWarning && x.frost.active && x.frost.waiting.isEmpty && x.frost.resume.isNone && x.parts.isEmpty) = true
        ∧ s.lam.reference = true) := by
  decide +kernel
theorem wit_PowerHealthAndRecovery_8 :
    ((sA []).chiplet 0).wearMinute = none := by
  decide +kernel
theorem wit_PowerHealthAndRecovery_9 :
    ([2, 3].all fun m => let s := { (sA []).updChiplet 0 (fun q => { q with wearMinute := some m }) with clk := { (sA []).clk with thyme := 180000000000 } }
        (s.chiplet 0).wearMinute == some m && decide (s.now.toNat / 60000000000 = 3)) = true := by
  decide +kernel
theorem wit_PowerHealthAndRecovery_10 :
    ([0, 1].all fun n => let s := { (sHealth (fun q => { q with bistAt := n }) fun x => { x with ranks := [] }) with clk := { (sA []).clk with thyme := 86400000000001 } }
        !serviceCluster kk && !(s.cluster kk).retired && (holders s kk).isEmpty
          && ((s.cluster kk).bistAt == 0 || decide ((s.cluster kk).bistAt + 86400000000000 ≤ s.now.toNat))) = true := by
  decide +kernel
theorem wit_PowerHealthAndRecovery_11 :
    ([(fun q => { q with wear := (q.wear.fault 5 7).fault 3600000000005 1 }), (fun q => { q with wear := (((q.wear.route 1).route 2).route 3).route 4 }),
        (fun q => { q with bistFail := true })].all
        fun (f : Cluster → Cluster) => let s := sHealth f fun x => { x with ranks := [] }
        unhealthy (s.cluster kk) && !(s.cluster kk).retired && (holders s kk).isEmpty) = true := by
  decide +kernel
theorem wit_PowerHealthAndRecovery_12 :
    (let s := sHealth (fun q => { q with bistFail := true }) id;
      unhealthy (s.cluster kk) = true ∧ (holders s kk).map (fun x => (x.id, x.frost.active)) = [(5, false)] ∧ (s.fw.jobs.map (·.id)).Nodup) := by
  decide +kernel
theorem wit_PowerHealthAndRecovery_13 :
    (let s := (sSettled fun x => { x with frames := [0xA00000, 0xA10000, 0xA20000, 0xA30000] }).updCluster kk fun q => { q with wear := { q.wear with worn := true } };
      (holders s kk).map (fun x => (x.id, x.frost.active, x.frost.resume)) = [(5, true, none)] ∧ settled s 5 = true ∧ (retireJobs s kk (holders s kk) [planA]).isSome = true
        ∧ (s.job 5).map (fun x => x.ranks.findIdx? fun e => entryCluster e == kk) = some (some 0)) := by
  decide +kernel
theorem wit_PowerHealthAndRecovery_14 :
    ((0x42 : Word64).getLsbD 1 = true ∧ (0x42 : Word64).getLsbD 6 = true) := by
  decide +kernel
theorem wit_PowerHealthAndRecovery_15 :
    ((sA []).hbm.hold = false ∧ (sA []).rot.phase ≠ .reset ∧ (sA []).hbm.refreshAt.look (bankNo 0 0 0) = none) := by
  decide +kernel
theorem wit_PowerHealthAndRecovery_16 :
    ([true, false].all fun keep => let c := cmdA 0x120 5 []
        let s := withCmd (sSettled fun x => { x with harvesting := true, harvestKeep := keep, harvestCommit := true, harvestCmd := some c }) true c
        settled s 5 && ((s.job 5).any fun x => x.harvesting && !x.harvestCut && x.openGen.isNone && x.harvestCommit && x.harvestKeep == keep && x.frost.active
          && x.frost.waiting.isEmpty && x.frost.resume.isNone && x.parts.isEmpty && decide (x.asid.toNat < 1024) && tablesFree s x [0x2000000] [] 0
          && ((spaceEntries s (asidEntry s x.asid).root.toNat).filter fun q => !(pteOf q.2.2.2).leaf).isEmpty) && s.lam.reference && !s.power.warn) = true := by
  decide +kernel
theorem wit_PowerHealthAndRecovery_17 :
    (let s := { withJob (sA []) (fun x => { x with gens := (some (genA 2), none), committed := some 2 }) with cores := [] };
      (s.job 5).map (·.committedGen) = some (some (genA 2)) ∧ s.rot.phase = .service ∧ coresOf s 5 = [] ∧ ((genA 2).ctxs.map fun q => (q.1, q.2.1)).Nodup
        ∧ (genA 2).root.toNat % 4096 = 0 ∧ ((genA 2).vault.all fun p => decide (vaultBase ≤ p.1)) = true ∧ ((genA 2).images.all fun l => decide (l.length ≤ 2048)) = true
        ∧ ((genA 2).dirs.all fun d => decide (d.saveKey 0 + 2048 ≤ Config.asidTable)) = true) := by
  decide +kernel
/-- A bank refreshed at an instant to come, whatever the interval is; one whose activations reach its threshold, and one before. -/
def sBank (n : Nat) : State := { sA [] with hbm := { (sA []).hbm with refreshAt := [(bankNo 0 0 0, 1)], acts := [(bankNo 0 0 0, n)] } }
theorem wit_PowerHealthAndRecovery_early (n i : Nat) : (sBank n).hbm.refreshAt.look (bankNo 0 0 0) = some 1 ∧ ¬ 1 + i ≤ (sBank n).clk.cycle := by
  refine And.intro rfl ?_
  show ¬ 1 + i ≤ 0
  omega
theorem wit_PowerHealthAndRecovery_reached : rfmAt 0 ≤ ((sBank (rfmAt 0)).hbm.acts.look (bankNo 0 0 0)).getD 0 := Nat.le_of_eq rfl
theorem wit_PowerHealthAndRecovery_before : ((sBank 0).hbm.acts.look (bankNo 0 0 0)).getD 0 < rfmAt 0 := Nat.succ_pos _

/-! ### What ebas makes of the listings of chapters 11, 16, 17 and 18 (R315 to R323) -/

/-- The word of one statement at an address, with the addresses of labels. -/
def stmtWord (labels : List (String × Nat)) (at_ : Nat) (text : String) : Option (BitVec 32) := do
  let r ← (← Asm.lexLine text.toList) |> Asm.stmtOf
  match r.2 with
  | .instr n u ops => Asm.wordOf (fun w => (Asm.keyword labels w).map (BitVec.ofNat 64)) (BitVec.ofNat 64 at_) n u ops
  | _ => none
/-- Do statements have these words at these addresses? -/
def stmtWords (labels : List (String × Nat)) (l : List (Nat × String × Nat)) : Bool :=
  l.all fun p => stmtWord labels p.1 p.2.1 == some (BitVec.ofNat 32 p.2.2)

/-- Words of R425. -/
theorem test_asm_gemm : stmtWords [("q1", 0x100001098), ("st4", 0x10000112C), ("rloop", 0x1000010D0)]
    [(0x100001000, "ACCCFG A0, INT32", 0xAC000040), (0x100001028, "SHI T3, T1, SHR, 16", 0x5CC44010),
      (0x100001040, "SHAPEI T8, INT8, 2, 32", 0xA005F00), (0x100001050, "LD T8, [T5], T2", 0x82148000),
      (0x100001070, "CMP.EQ M1, T3, T4", 0x184D0000), (0x100001074, "BR ANY, q1 ?M1", 0xC0500009),
      (0x100001098, "POST A1, T12, T8", 0xAF204000), (0x1000010AC, "CINC.REL.CL T0, C1, T0", 0xA8004F04),
      (0x1000010D8, "CALL st4", 0xC4000015), (0x1000010E8, "ACCRD T12..T15, A2, T3", 0xAF0CB020),
      (0x100001108, "LOOP T9, rloop", 0xCA4FFFF2), (0x100001124, "SEND.REL.MD T10, T1, T0", 0xA6840F08)] = true := by decide +kernel
/-- Words of R430. -/
theorem test_asm_routing : stmtWords []
    [(0x100041044, "MAD T9, T7, T2", 0x165C8000), (0x100041058, "INS T10, T4, T15", 0x1E93C060),
      (0x10004105C, "SENDAT T5, T10, T12", 0xA56B0020), (0x10004106C, "MOVI T3, 0 ?M1", 0x40C10000),
      (0x100041094, "AINCB.ORD.C0.CL T5, [T4], T6", 0x915181A8), (0x100041128, "BCOL T7, T5, T0", 0x1DD40040),
      (0x100041130, "FCSUM T8, T6", 0x3A180090)] = true := by decide +kernel
/-- Words of R436. -/
theorem test_asm_ragged : stmtWords [("scale", 0x100001080), ("fin", 0x100001098)]
    [(0x100001000, "SHI T2, T1, SHR, 48", 0x5C844030), (0x100001018, "SHAPEI T5, BF16, 8, 4", 0x955C300),
      (0x10000102C, "RAGGED T5, T12", 0x1D7000F0), (0x100001030, "MSET M1, T10", 0x20680080),
      (0x100001034, "LD.C0.MD T5, [T3] ?M1", 0x814C1200), (0x100001040, "RMAX T8, T7", 0x3A1C0020),
      (0x100001044, "CMP.EQ M3, T11, T0", 0x18EC0000), (0x100001048, "BR ANY, scale ?M3", 0xC070000E),
      (0x100001080, "FRCP T8, T8", 0x32200000), (0x100001084, "FMUL T5, T5, T8 ?M1", 0x25561020),
      (0x100001088, "ST.C0.MD [T3], T5 ?M1", 0x854C1200), (0x10000108C, "BR ANY, fin ?M3", 0xC0700003),
      (0x100001098, "CINC.REL.MD T0, C1, T0", 0xA8004F08)] = true := by decide +kernel
/-- Words of R441. -/
theorem test_asm_hop : stmtWords [("last", 0x100001050), ("tail", 0x100001040)]
    [(0x100001014, "BR ANY, last ?M1", 0xC050000F), (0x100001018, "CSRR T3, RANK", 0x4C06002), (0x10000101C, "XORI T3, T3, 1", 0x58CC0001),
      (0x10000102C, "SEND T3, T2, T0", 0xA4C80000), (0x100001038, "BR NONE, tail ?M1", 0xC0D00002), (0x10000103C, "BRK", 0x4003000),
      (0x100001040, "CINC T0, C0, T0", 0xA8000000), (0x100001044, "MOVI T8, 8", 0x42000008),
      (0x100001048, "AADD.C0.CL T0, [T8], T1", 0x90204100)] = true := by decide +kernel
/-- Words of R449. -/
theorem test_asm_dot : stmtWords [("half1", 0x10000101C), ("half2", 0x10000103C)]
    [(0x100001000, "MOVI T2, 0x3000", 0x40803000), (0x100001004, "MOVK T2, 0x0001, 2", 0x44820001),
      (0x10000100C, "ADDI T3, T2, 0x200", 0x48C80200), (0x10000101C, "LD.C0.MD T5, [T2]", 0x81480200),
      (0x100001020, "LD.C0.MD T6, [T3]", 0x818C0200), (0x100001024, "MAD T8, T5, T6", 0x16158000),
      (0x100001028, "ADDI T2, T2, 4", 0x48880004), (0x100001030, "LOOP T7, half1", 0xC9CFFFFB), (0x100001034, "CKPT", 0x4013000),
      (0x100001050, "LOOP T7, half2", 0xC9CFFFFB), (0x100001060, "ST.C0.MD [T9], T8", 0x86240200),
      (0x100001068, "AADD.C0.MD T0, [T9], T8", 0x90260200), (0x100001078, "SEND.REL.MD T10, T8, T0", 0xA6A00F08),
      (0x10000107C, "DONE", 0x4001000)] = true := by decide +kernel
/-- Words of R457. -/
theorem test_asm_search : stmtWords [("bloop", 0x100001098), ("sloop", 0x100001054), ("tile", 0x1000010DC), ("round", 0x1000010C4)]
    [(0x10000101C, "STRM T3, T13", 0xA0F40000), (0x100001028, "STRMA T15, T13", 0xA3F40030), (0x100001098, "PERM8 T12, T4, T3", 0x1F10C0B0),
      (0x10000109C, "CVT T15, T12", 0x37F00000), (0x1000010A0, "LOOP T14, bloop", 0xCB8FFFFE),
      (0x1000010A4, "LOOP T13, sloop", 0xCB4FFFEC), (0x1000010E4, "RAMX T4, T5, T3", 0x390D4040),
      (0x1000010EC, "FCMP.LT M1, T6, T4", 0x2C590010), (0x1000010F0, "SEL T6, T4, T6 ?M1", 0x1D9190D0),
      (0x100001100, "LOOP T9, tile", 0xCA4FFFF7), (0x100001108, "SHE T14, T14, T4", 0x1FB90080),
      (0x100001118, "LOOP T10, round", 0xCA8FFFEB), (0x100001128, "SEND T13, T0, T14..T15", 0xA7439000)] = true := by decide +kernel
/-- The source that follows R324. -/
def bumpText : String := ".job 0x0101, table=0x1_0000_0000
.asid 17
.region ranks=1, cores=0-0, vault=4096
.counter C1, 4
.data global, 0x1_0000_1000
.handler bump, sel=0x010, fmt=INT32, budget=256
SHAPEI T5, INT32, 1, 16
LD.C0.CL T5, [T1], T0
ADD T5, T5, T12
ST.C0.CL [T1], T5, T0
CINC.REL.CL.C0 T0, C1, T0
DONE
.end"
theorem test_asm_bump : ((Asm.assemble bumpText).map fun b =>
    [(0x100001000, 0x09480F00), (0x100001004, 0x81440100), (0x100001008, 0x0D570000), (0x10000100C, 0x85440100), (0x100001010, 0xA8004104),
      (0x100001014, 0x04001000)].all (fun p => b.word p.1 == some (BitVec.ofNat 32 p.2)) && b.entry 0x10 == some 0x00010000100024000080000000000000 && b.entries == 17) = some true := by decide +kernel
/-- The header and the length of its image (R321), and its handler table, code, and template. -/
theorem test_asm_image : ((Asm.assemble bumpText).map fun b => let l := b.image
    l.length == 128 + 64 + 320 + 272 + 24 && (l.take 32).map (·.toNat) == [0x45, 0x42, 0x41, 0x4C, 1, 0, 1, 1, 17, 0, 17, 0, 2, 0, 0, 0, 0, 0, 0, 0, 1, 0, 0, 0, 0, 0, 0, 0, 0, 0x10, 0, 0]
      && (Machine.sections l (Machine.imageHead l)).map (fun q => (q.1, q.2.2.1, q.2.2.2)) == [(0x100000000, 272, 1), (0x100001000, 24, 1)]
      && Machine.fieldOf l 192 320 == natOf b.template) = some true := by decide +kernel
/-- A scope on a send without .REL is an assembly error (R318). -/
theorem test_asm_release : [("CINC.REL.CL T0, C1, T0", true), ("CINC.CL T0, C1, T0", false), ("CINC.REL T0, C1, T0", false), ("CINC T0, C1, T0", true),
    ("SEND.REL.MD.MD T1, T2, T0", false), ("LD.C0.C1 T1, [T2]", false), ("FADD.RZ T1, T2, T3 ?M1", true), ("ADD.RZ T1, T2, T3", false)].all (fun p =>
      (((Asm.lexLine p.1.toList).bind Asm.stmtOf).bind fun r => match r.2 with
        | .instr n u o => Asm.wordOf (fun _ => none) 0 n u o
        | _ => none).isSome == p.2) = true := by decide +kernel
/-- What R320 refuses: a selector given twice, a name given twice, one not defined, a reserved one, a malformed trigger word, sections that overlap, an
instruction in a vault section. -/
theorem test_asm_refused : [".handler a, sel=1\nDONE\n.handler b, sel=1\nDONE", ".handler a, sel=1\na: DONE", ".handler a, sel=1\nBR b", ".handler T1, sel=1\nDONE",
    ".handler a, sel=1\nDONE\n.trigger W0, counter, 1, 31, a", ".handler a, sel=1\nDONE\n.data global, 0x1000\n.byte 1", ".data vault, 0\nDONE", ".handler a, sel=1\nADDI T1, T1, 0x8000"].all
    (fun t => (Asm.assemble (".job 1, table=0\n.asid 1\n.region ranks=1, cores=0-0, vault=64\n.data global, 0x1000\n" ++ t)).isNone) = true := by decide +kernel
/-- The same frame with nothing wrong in it. -/
theorem test_asm_accepted : (Asm.assemble (".job 1, table=0\n.asid 1\n.region ranks=1, cores=0-0, vault=64\n.data global, 0x1000\n"
    ++ ".equ n, 0b1_1 * (2 - -1)\n.handler a, sel=1 ; x\nADDI T1, T1, n + 1\nBR a + 4\n.end\n?")).map (fun b => (b.word 0x1000, b.word 0x1004)) =
      some (some 0x4844000A, some 0xC0000000) := by decide +kernel

end Sys2Proof.Tests
end

section
/-! On the operands that its rule allows, an instruction of the tile ALU passes each of its checks, has a result and raises no UE event (R327 to R374);
a slot that issues alone commits it (O1). -/

namespace Sys2Proof.Machine

/-- An answer of the tile ALU that is a result, and one without a UE event (R270). -/
def Completes (r : AluRes) : Prop := ∃ o, r = .ok o ∧ o.ue = false

@[simp] theorem completes_ok (o : AluOut) : Completes (.ok o) ↔ o.ue = false := by simp [Completes]
theorem completes_one {a : TReg} {t : Tile} {n : Nat} : Completes (.ok (AluOut.one a t n)) := ⟨_, rfl, rfl⟩
theorem completes_maskOnly {a : MReg} {m : BitVec 64} {n : Nat} : Completes (.ok (AluOut.maskOnly a m n)) := ⟨_, rfl, rfl⟩

/-- A check that passes hands on to the rest of the instruction. -/
theorem completes_need {c : Cause} {p : Bool} {f : Unit → AluRes} (h : p = true) (hf : Completes (f ())) : Completes (need c p >>= f) := by
  subst h; exact hf

/-- The last check before a result. -/
theorem completes_unless {c : Cause} {p : Bool} {o : AluOut} (h : p = true) (ho : o.ue = false) :
    Completes (if !p then .error c else .ok o) := by
  subst h; exact ⟨o, rfl, ho⟩

/-- An operand that is read, with what is known of it, hands on to the rest of the instruction. -/
theorem completes_bind {β : Type} {m : Except Cause β} {P : β → Prop} {f : β → AluRes} (hm : ∃ v, m = .ok v ∧ P v)
    (hf : ∀ v, P v → Completes (f v)) : Completes (m >>= f) := by
  obtain ⟨v, rfl, hv⟩ := hm
  exact hf v hv

/-- An operand that is read, whatever it is, hands on to the rest of the instruction. -/
theorem completes_read {β : Type} {m : Except Cause β} {f : β → AluRes} (hm : ∃ v, m = .ok v) (hf : ∀ v, Completes (f v)) :
    Completes (m >>= f) := by
  obtain ⟨v, rfl⟩ := hm
  exact hf v

/-- A result that is widened without a UE event stays one. -/
theorem Completes.bind {r : AluRes} (hr : Completes r) {f : AluOut → AluRes} (hf : ∀ o, o.ue = false → Completes (f o)) :
    Completes (r >>= f) := completes_bind hr hf

/-! ### Operands that fit are read (R327, R329, R353, R357) -/

theorem intSrc_ok {ref t : Tile} (h : okInt ref t = true) : ∃ v, intSrc ref t = .ok v ∧ v.t = t := by
  unfold okInt at h; unfold intSrc
  split at h <;> simp_all
theorem shiftSrc_ok {ref t : Tile} (h : okInt ref t = true) : ∃ v, shiftSrc ref t = .ok v ∧ v.t = t := by
  unfold okInt at h; unfold shiftSrc
  split at h <;> simp_all
theorem sameSrc_ok {ref t : Tile} (h : okSame ref t = true) : ∃ v, sameSrc ref t = .ok v ∧ v.t = t := by
  unfold okSame at h; unfold sameSrc
  split at h <;> simp_all
theorem scaleSrc_ok {ref t : Tile} (hi : isInt t.fmt = true) (h : (t.scalar || decide (t.rows = ref.rows ∧ t.cols = ref.cols)) = true) :
    ∃ v, scaleSrc ref t = .ok v ∧ v.t = t := by
  unfold scaleSrc
  by_cases hs : t.scalar = true
  · simp [hi, hs]
  · simp_all
theorem arithSpec_ok {f : Fmt} (h : isArith f = true) : ∃ p, arithSpec f = .ok p := by
  cases f <;> simp_all [isArith, arithSpec, floatSpec]
theorem ctl_ok {t : Tile} (h : t.control.isSome = true) : ∃ v, ctl t = .ok v := by
  obtain ⟨v, hv⟩ := Option.isSome_iff_exists.mp h
  exact ⟨v, by simp [ctl, hv]⟩

/-! ### The three forms (R327, R328, R346, R368) and the shape group (R331) -/

theorem elementwise_completes {x : AluIn} {a : TReg} {k : MReg} (h : maskFits k (x.tile a) = true) {srcs : List Src} {r : Bool}
    {op : Nat → List Nat → Nat → Nat} {n : Nat} : Completes (elementwise x a k srcs r op n) := by
  simp [elementwise, h, AluOut.one]
theorem shaping_completes {x : AluIn} {a : TReg} {k : MReg} {s : Tile} (h : okShaping (x.tile a) k s = true) {f : Nat → Nat}
    {tag : Bool} {n : Nat} : Completes (shaping x a k s f tag n) := by
  simp only [okShaping, Bool.and_eq_true, Bool.or_eq_true, beq_iff_eq] at h
  obtain ⟨⟨hlegal, hfits⟩, hshape⟩ := h
  have : ¬ (k ≠ 0 ∧ (!(x.tile a).sameShape s) = true) := by rintro ⟨h0, h1⟩; simp_all
  simp only [shaping, hlegal, hfits, this, Bool.not_true, Bool.false_eq_true, if_false]
  exact completes_one
theorem reduced_completes {s : Tile} (h : s.legal = true) {a : TReg} {vals : List Nat} {tag : Bool} {b : Nat} :
    Completes (reduced a s vals tag b) := by
  simp [reduced, h, AluOut.one]
theorem compareInto_completes {x : AluIn} {a k : MReg} {ref : Tile} {b c : Src} (h : maskFits k ref = true) (hb : b.t.tag = false)
    (hc : c.t.tag = false) {test : Nat → Nat → Bool} : Completes (compareInto x a k ref b c test) := by
  simp [compareInto, h, hb, hc, AluOut.maskOnly]
theorem reshape_completes {s : Tile} (h : s.legal = true) {x : AluIn} {a : TReg} {tag : Bool} : Completes (reshape x a (some s) tag) := by
  simp [reshape, h, AluOut.one]

theorem shapeOf_one_legal (f : Fmt) : (shapeOf f 1 1).legal = true := by cases f <;> rfl
/-- A 1×1 result without a mask has a shape that a shaping instruction may give (R332, R347). -/
theorem okShaping_scalar (ta : Tile) (f : Fmt) : okShaping ta 0 (shapeOf f 1 1) = true := by
  simp [okShaping, shapeOf_one_legal, maskFits]
theorem scalar_completes {x : AluIn} {a : TReg} {f : Fmt} {g : Nat → Nat} {tag : Bool} {n : Nat} :
    Completes (shaping x a 0 (shapeOf f 1 1) g tag n) := shaping_completes (okShaping_scalar _ _)
/-- The shape that a reduction gives its result (R368). -/
theorem reduceForm_shape_legal {α : Type} {x : AluIn} {a : TReg} {t : Tile} {f : Fmt} (h : okReduced (x.tile a) t f = true) {k : MReg}
    {leaf : Nat → Option α} : (reduceForm x a k t f leaf).1.legal = true := by
  unfold okReduced at h; unfold reduceForm
  split at h <;> simp_all [shapeOf_one_legal]

/-! ### Integer, logic, shift, immediate and mask instructions (12 R331, R332, R342 to R347) -/

section
variable {a b c : TReg} {k : MReg} {x : AluIn}

/-- The operands that the two-source integer groups allow (R327). -/
def okInt2 (x : AluIn) (a b c : TReg) (k : MReg) : Bool :=
  isInt (x.tile a).fmt && okInt (x.tile a) (x.tile b) && okInt (x.tile a) (x.tile c) && maskFits k (x.tile a)
/-- The operands that the one-source integer groups allow (R327). -/
def okInt1 (x : AluIn) (a b : TReg) (k : MReg) : Bool := isInt (x.tile a).fmt && okInt (x.tile a) (x.tile b) && maskFits k (x.tile a)
/-- The operands that the two-source float groups allow (R327, R353). -/
def okFloat2 (x : AluIn) (a b c : TReg) (k : MReg) : Bool :=
  isArith (x.tile a).fmt && okSame (x.tile a) (x.tile b) && okSame (x.tile a) (x.tile c) && maskFits k (x.tile a)
/-- The operands that the one-source float groups allow (R327, R353). -/
def okFloat1 (x : AluIn) (a b : TReg) (k : MReg) : Bool := isArith (x.tile a).fmt && okSame (x.tile a) (x.tile b) && maskFits k (x.tile a)

theorem okInt2_iff : okInt2 x a b c k = true ↔
    isInt (x.tile a).fmt = true ∧ okInt (x.tile a) (x.tile b) = true ∧ okInt (x.tile a) (x.tile c) = true ∧ maskFits k (x.tile a) = true := by
  simp only [okInt2, Bool.and_eq_true, and_assoc]
theorem okInt1_iff : okInt1 x a b k = true ↔
    isInt (x.tile a).fmt = true ∧ okInt (x.tile a) (x.tile b) = true ∧ maskFits k (x.tile a) = true := by
  simp only [okInt1, Bool.and_eq_true, and_assoc]
theorem okFloat2_iff : okFloat2 x a b c k = true ↔
    isArith (x.tile a).fmt = true ∧ okSame (x.tile a) (x.tile b) = true ∧ okSame (x.tile a) (x.tile c) = true ∧ maskFits k (x.tile a) = true := by
  simp only [okFloat2, Bool.and_eq_true, and_assoc]
theorem okFloat1_iff : okFloat1 x a b k = true ↔
    isArith (x.tile a).fmt = true ∧ okSame (x.tile a) (x.tile b) = true ∧ maskFits k (x.tile a) = true := by
  simp only [okFloat1, Bool.and_eq_true, and_assoc]

theorem aluInt2_completes (op : Nat → Nat → Nat → Nat) (h : okInt2 x a b c k = true) : Completes (aluInt2 op a b c k x) := by
  obtain ⟨hi, hb, hc, hk⟩ := okInt2_iff.mp h
  exact completes_need hi <| completes_bind (intSrc_ok hb) fun _ _ => completes_bind (intSrc_ok hc) fun _ _ => elementwise_completes hk
theorem aluShift_completes (op : Nat → Nat → Nat → Nat) (h : okInt2 x a b c k = true) : Completes (aluShift op a b c k x) := by
  obtain ⟨hi, hb, hc, hk⟩ := okInt2_iff.mp h
  exact completes_need hi <| completes_bind (intSrc_ok hb) fun _ _ => completes_bind (shiftSrc_ok hc) fun _ _ => elementwise_completes hk
theorem aluMad_completes (h : okInt2 x a b c k = true) : Completes (aluMad a b c k x) := by
  obtain ⟨hi, hb, hc, hk⟩ := okInt2_iff.mp h
  exact completes_need hi <| completes_bind (intSrc_ok hb) fun _ _ => completes_bind (intSrc_ok hc) fun _ _ => elementwise_completes hk
theorem aluInt1_completes (op : Nat → Nat → Nat) (h : okInt1 x a b k = true) : Completes (aluInt1 op a b k x) := by
  obtain ⟨hi, hb, hk⟩ := okInt1_iff.mp h
  exact completes_need hi <| completes_bind (intSrc_ok hb) fun _ _ => elementwise_completes hk
theorem aluImm_completes (op : Nat → Nat → Nat → Nat) (n : Nat) (h : okInt1 x a b k = true) : Completes (aluImm op a b k n x) := by
  obtain ⟨hi, hb, hk⟩ := okInt1_iff.mp h
  exact completes_need hi <| completes_bind (intSrc_ok hb) fun _ _ => elementwise_completes hk
theorem aluShi_completes (o : BitVec 2) (n : BitVec 6) (h : okInt1 x a b k = true) : Completes (aluShi a b k o n x) := by
  obtain ⟨hi, hb, hk⟩ := okInt1_iff.mp h
  exact completes_need hi <| completes_bind (intSrc_ok hb) fun _ _ => elementwise_completes hk
theorem aluMovi_completes {n : BitVec 16} (h : aluAllowed (.movi a k n) x = true) : Completes (aluMovi a k n x) := by
  obtain ⟨hi, hk⟩ := Bool.and_eq_true_iff.mp h
  exact completes_need hi <| elementwise_completes hk
theorem aluMovk_completes {o : BitVec 2} {n : BitVec 16} (h : aluAllowed (.movk a o n) x = true) : Completes (aluMovk a o n x) := by
  simp only [aluAllowed] at h
  exact completes_need h <| elementwise_completes (by simp [maskFits])
theorem aluCmp_completes {m : MReg} {f : BitVec 3} (h : aluAllowed (.cmp m b c k f) x = true) : Completes (aluCmp m b c k f x) := by
  simp only [aluAllowed, Bool.and_eq_true, Bool.not_eq_true'] at h
  obtain ⟨⟨⟨⟨⟨hi, hb⟩, hc⟩, hk⟩, htb⟩, htc⟩ := h
  exact completes_need hi <| completes_bind (intSrc_ok hb) fun _ eb => completes_bind (intSrc_ok hc) fun _ ec =>
    compareInto_completes hk (eb ▸ htb) (ec ▸ htc)

theorem aluMld_completes {m : MReg} (h : aluAllowed (.mld m b) x = true) : Completes (aluMld m b x) := by
  simp only [aluAllowed, Bool.and_eq_true, Bool.or_eq_true, Bool.not_eq_true', decide_eq_true_eq] at h
  obtain ⟨htag, hmask | hctl⟩ := h
  · simp only [aluMld, hmask, htag, and_self, if_true, Bool.false_eq_true, if_false]
    exact completes_maskOnly
  · obtain ⟨v, hv⟩ := Option.isSome_iff_exists.mp hctl
    simp only [aluMld, hv, htag, Bool.false_eq_true, if_false]
    split <;> exact completes_maskOnly
theorem aluMset_completes {m : MReg} (h : aluAllowed (.mset m b) x = true) : Completes (aluMset m b x) := by
  simp only [aluAllowed, Bool.and_eq_true, Bool.not_eq_true'] at h
  obtain ⟨htag, hctl⟩ := h
  obtain ⟨v, hv⟩ := Option.isSome_iff_exists.mp hctl
  simp only [aluMset, hv, htag, Bool.false_eq_true, if_false]
  exact completes_maskOnly
theorem aluSeed_completes (h : aluAllowed (.seed b) x = true) : Completes (aluSeed b x) := by
  simp only [aluAllowed, Bool.and_eq_true, Bool.not_eq_true'] at h
  obtain ⟨htag, hctl⟩ := h
  obtain ⟨v, hv⟩ := Option.isSome_iff_exists.mp hctl
  simp only [aluSeed, hv, htag, Bool.false_eq_true, if_false]
  exact ⟨_, rfl, rfl⟩

theorem shapeFromBits_legal {n : Nat} {t : Tile} (h : shapeFromBits n = some t) : t.legal = true := by
  unfold shapeFromBits at h
  split at h
  · cases h
  · simp only [Option.ite_none_right_eq_some, Option.some.injEq] at h
    exact h.2 ▸ h.1
theorem completes_none : Completes (.ok AluOut.none_) := ⟨_, rfl, rfl⟩
theorem aluShape_completes (h : aluAllowed (.shape a b) x = true) : Completes (aluShape a b x) := by
  unfold aluShape
  split
  · exact completes_none
  · next ha =>
    simp only [aluAllowed, Bool.or_eq_true, beq_iff_eq, ha, false_or] at h
    split at h
    · next v hv =>
      obtain ⟨t, ht⟩ := Option.isSome_iff_exists.mp h
      simp only [hv, ht]
      exact reshape_completes (shapeFromBits_legal ht)
    · cases h
theorem aluRagged_completes (h : aluAllowed (.ragged a b) x = true) : Completes (aluRagged a b x) := by
  unfold aluRagged
  split
  · exact completes_none
  · next ha =>
    simp only [aluAllowed, Bool.or_eq_true, beq_iff_eq, ha, false_or] at h
    split at h
    · next v hv => rw [hv]; exact reshape_completes h
    · cases h
theorem aluShapei_completes {f : BitVec 5} {r : BitVec 3} {n : BitVec 6} (h : aluAllowed (.shapei a f r n) x = true) :
    Completes (aluShapei a f r n x) := by
  unfold aluShapei
  split
  · exact completes_none
  · next ha =>
    simp only [aluAllowed, Bool.or_eq_true, beq_iff_eq, ha, false_or] at h
    split at h
    · next g hg => rw [hg]; exact reshape_completes h
    · cases h
theorem aluRaggedi_completes {r : BitVec 3} {n : BitVec 6} (h : aluAllowed (.raggedi a r n) x = true) : Completes (aluRaggedi a r n x) := by
  unfold aluRaggedi
  split
  · exact completes_none
  · next ha =>
    simp only [aluAllowed, Bool.or_eq_true, beq_iff_eq, ha, false_or] at h
    exact reshape_completes h

/-! ### The movement group (12 R334 to R341) -/

theorem aluMov_completes (h : aluAllowed (.mov a b k) x = true) : Completes (aluMov a b k x) := by
  unfold aluMov
  split
  · exact completes_one
  · next hk0 =>
    simp only [aluAllowed, Bool.or_eq_true, Bool.and_eq_true, beq_iff_eq, hk0, false_or] at h
    exact completes_bind (sameSrc_ok h.1) fun _ _ => elementwise_completes h.2
theorem aluZero_completes (h : maskFits k (x.tile a) = true) : Completes (aluZero a k x) := by
  unfold aluZero
  split
  · exact completes_one
  · exact elementwise_completes h
theorem aluTrn_completes (h : aluAllowed (.trn a b k) x = true) : Completes (aluTrn a b k x) := by
  simp only [aluAllowed, Bool.and_eq_true, decide_eq_true_eq] at h
  rw [aluTrn, if_neg (Nat.not_lt.mpr h.1)]
  exact shaping_completes h.2
theorem aluBrow_completes (h : aluAllowed (.brow a b c k) x = true) : Completes (aluBrow a b c k x) := by
  simp only [aluAllowed, Bool.and_eq_true] at h
  obtain ⟨⟨hc, hm⟩, hs⟩ := h
  exact completes_read (ctl_ok hc) fun _ => completes_need hm <| shaping_completes hs
theorem aluBcol_completes (h : aluAllowed (.bcol a b c k) x = true) : Completes (aluBcol a b c k x) := by
  simp only [aluAllowed, Bool.and_eq_true] at h
  obtain ⟨⟨hc, hm⟩, hs⟩ := h
  exact completes_read (ctl_ok hc) fun _ => completes_need hm <| shaping_completes hs
theorem aluXtr_completes (h : aluAllowed (.xtr a b c k) x = true) : Completes (aluXtr a b c k x) := by
  simp only [aluAllowed, Bool.and_eq_true] at h
  obtain ⟨⟨hc, hm⟩, hs⟩ := h
  exact completes_read (ctl_ok hc) fun _ => completes_need hm <| shaping_completes hs
theorem aluRote_completes (h : aluAllowed (.rote a b c k) x = true) : Completes (aluRote a b c k x) := by
  simp only [aluAllowed, Bool.and_eq_true] at h
  obtain ⟨⟨hc, hm⟩, hs⟩ := h
  exact completes_read (ctl_ok hc) fun _ => completes_need hm <| shaping_completes hs
theorem aluIns_completes (h : aluAllowed (.ins a b c k) x = true) : Completes (aluIns a b c k x) := by
  simp only [aluAllowed, Bool.and_eq_true, decide_eq_true_eq] at h
  obtain ⟨⟨⟨⟨hc, hm⟩, hscalar⟩, hfmt⟩, hk⟩ := h
  have hsrc : okSame (x.tile a) (x.tile b) = true := by simp [okSame, hscalar, hfmt]
  have hneed : (notMask1 (x.tile a) && notMask1 (x.tile b) && (x.tile b).scalar) = true := by
    simpa [notMask1, hscalar, hfmt] using hm
  exact completes_read (ctl_ok hc) fun _ => completes_need hneed <| completes_bind (sameSrc_ok hsrc) fun _ _ =>
    completes_need hk completes_one
theorem aluSlc_completes (h : aluAllowed (.slc a b c k) x = true) : Completes (aluSlc a b c k x) := by
  simp only [aluAllowed] at h
  split at h
  · cases h
  · next v hv =>
    obtain ⟨hd, hs⟩ := Bool.and_eq_true_iff.mp h
    refine completes_bind (P := (· = v)) ⟨v, by simp [ctl, hv], rfl⟩ fun _ hw => ?_
    subst hw
    exact completes_need hd (shaping_completes hs)
theorem aluShe_completes (h : aluAllowed (.she a b c k) x = true) : Completes (aluShe a b c k x) := by
  simp only [aluAllowed, Bool.and_eq_true, decide_eq_true_eq, bne_iff_ne] at h
  obtain ⟨⟨⟨hfmt, hm⟩, hlen⟩, hs⟩ := h
  rw [aluShe, if_neg (not_or.mpr ⟨not_not.mpr hfmt, hm⟩), if_neg (Nat.not_lt.mpr hlen)]
  exact shaping_completes hs
theorem aluPerm_completes (h : aluAllowed (.perm a b c k) x = true) : Completes (aluPerm a b c k x) := by
  obtain ⟨hn, hs⟩ := Bool.and_eq_true_iff.mp h
  exact completes_need hn <| shaping_completes hs
theorem aluPerm8_completes (h : aluAllowed (.perm8 a b c k) x = true) : Completes (aluPerm8 a b c k x) := by
  obtain ⟨hn, hs⟩ := Bool.and_eq_true_iff.mp h
  exact completes_need hn <| shaping_completes hs
theorem aluLut16_completes (h : aluAllowed (.lut16 a b c k) x = true) : Completes (aluLut16 a b c k x) := by
  obtain ⟨hn, hs⟩ := Bool.and_eq_true_iff.mp h
  exact completes_need hn <| shaping_completes hs
theorem aluSel_completes (h : aluAllowed (.sel a b c k) x = true) : Completes (aluSel a b c k x) := by
  simp only [aluAllowed, Bool.and_eq_true] at h
  obtain ⟨⟨hb, hc⟩, hk⟩ := h
  exact completes_bind (sameSrc_ok hb) fun _ _ => completes_bind (sameSrc_ok hc) fun _ _ => completes_need hk completes_one

/-! ### Float, compare and conversion instructions (13 R356 to R367) -/

theorem aluF2_completes (op : RMode → FVal → FVal → FVal) (r : BitVec 2) (h : okFloat2 x a b c k = true) : Completes (aluF2 op a b c k r x) := by
  obtain ⟨hf, hb, hc, hk⟩ := okFloat2_iff.mp h
  exact completes_read (arithSpec_ok hf) fun _ => completes_bind (sameSrc_ok hb) fun _ _ => completes_bind (sameSrc_ok hc) fun _ _ =>
    elementwise_completes hk
theorem aluFdiv_completes (r : BitVec 2) (h : okFloat2 x a b c k = true) : Completes (aluFdiv a b c k r x) := by
  obtain ⟨hf, hb, hc, hk⟩ := okFloat2_iff.mp h
  exact completes_read (arithSpec_ok hf) fun _ => completes_bind (sameSrc_ok hb) fun _ _ => completes_bind (sameSrc_ok hc) fun _ _ =>
    elementwise_completes hk
theorem aluFused_completes (p o : Bool) (r : BitVec 2) (h : okFloat2 x a b c k = true) : Completes (aluFused p o a b c k r x) := by
  obtain ⟨hf, hb, hc, hk⟩ := okFloat2_iff.mp h
  exact completes_read (arithSpec_ok hf) fun _ => completes_bind (sameSrc_ok hb) fun _ _ => completes_bind (sameSrc_ok hc) fun _ _ =>
    elementwise_completes hk
theorem aluSign_completes (sign : Bool → Bool → Bool) (h : okFloat2 x a b c k = true) : Completes (aluSign sign a b c k x) := by
  obtain ⟨hf, hb, hc, hk⟩ := okFloat2_iff.mp h
  exact completes_read (arithSpec_ok hf) fun _ => completes_bind (sameSrc_ok hb) fun _ _ => completes_bind (sameSrc_ok hc) fun _ _ =>
    elementwise_completes hk
/-- FABS and FNEG read their one source twice. -/
theorem okFloat2_of_okFloat1 (h : okFloat1 x a b k = true) : okFloat2 x a b b k = true :=
  let ⟨hf, hb, hk⟩ := okFloat1_iff.mp h
  okFloat2_iff.mpr ⟨hf, hb, hb, hk⟩
theorem aluF1_completes (op : FVal → FVal) (md : RMode) (n : Nat) (h : okFloat1 x a b k = true) : Completes (aluF1 op md n a b k x) := by
  obtain ⟨hf, hb, hk⟩ := okFloat1_iff.mp h
  exact completes_read (arithSpec_ok hf) fun _ => completes_bind (sameSrc_ok hb) fun _ _ => elementwise_completes hk
theorem aluApprox_completes (f : FVal → FVal) (h : okFloat1 x a b k = true) : Completes (aluApprox f a b k x) := aluF1_completes _ _ _ h
theorem aluFscl_completes {r : BitVec 2} (h : aluAllowed (.fscl a b c k r) x = true) : Completes (aluFscl a b c k r x) := by
  simp only [aluAllowed, Bool.and_eq_true] at h
  obtain ⟨⟨⟨⟨hf, hb⟩, hk⟩, hi⟩, hc⟩ := h
  exact completes_read (arithSpec_ok hf) fun _ => completes_bind (sameSrc_ok hb) fun _ _ => completes_bind (scaleSrc_ok hi hc) fun _ _ =>
    elementwise_completes hk
theorem aluFclass_completes (h : aluAllowed (.fclass a b k) x = true) : Completes (aluFclass a b k x) := by
  obtain ⟨hf, hs⟩ := Bool.and_eq_true_iff.mp h
  exact completes_read (arithSpec_ok hf) fun _ => shaping_completes hs
theorem aluFcmp_completes {m : MReg} {f : BitVec 2} (h : aluAllowed (.fcmp m b c k f) x = true) : Completes (aluFcmp m b c k f x) := by
  simp only [aluAllowed, Bool.and_eq_true, Bool.not_eq_true'] at h
  obtain ⟨⟨⟨⟨⟨hf, hb⟩, hc⟩, hk⟩, htb⟩, htc⟩ := h
  exact completes_read (arithSpec_ok hf) fun _ => completes_bind (sameSrc_ok hb) fun _ eb => completes_bind (sameSrc_ok hc) fun _ ec =>
    compareInto_completes hk (eb ▸ htb) (ec ▸ htc)

theorem aluConv_completes (f : Nat → Nat) (h : okShaping (x.tile a) k (convShape (x.tile b) (x.tile a).fmt) = true) :
    Completes (aluConv a b k x f) := shaping_completes h
theorem aluCvt_completes {r : BitVec 2} (h : aluAllowed (.cvt a b k r) x = true) : Completes (aluCvt a b k r x) := by
  simp only [aluAllowed, Bool.and_eq_true] at h
  obtain ⟨⟨⟨hb, ha⟩, hr⟩, hs⟩ := h
  exact completes_need (Bool.and_eq_true_iff.mpr ⟨hb, ha⟩) <| completes_need hr <| aluConv_completes _ hs
theorem aluCvtq_completes {r : BitVec 2} (h : aluAllowed (.cvtq a b k r) x = true) : Completes (aluCvtq a b k r x) := by
  simp only [aluAllowed, Bool.and_eq_true, decide_eq_true_eq] at h
  obtain ⟨⟨ha, hr⟩, hs⟩ := h
  exact completes_need (by simp [ha]) <| completes_need hr <| aluConv_completes _ hs
theorem aluCvtd_completes (h : aluAllowed (.cvtd a b k) x = true) : Completes (aluCvtd a b k x) := by
  simp only [aluAllowed, Bool.and_eq_true, decide_eq_true_eq] at h
  obtain ⟨⟨hb, ha⟩, hs⟩ := h
  exact completes_need (Bool.and_eq_true_iff.mpr ⟨by simp [hb], ha⟩) <| aluConv_completes _ hs
theorem aluCvts_completes (h : aluAllowed (.cvts a b k) x = true) : Completes (aluCvts a b k x) := by
  obtain ⟨hf, hs⟩ := Bool.and_eq_true_iff.mp h
  exact completes_need hf <| (shaping_completes hs).bind fun o ho => (completes_ok _).mpr ho
theorem aluMxsc_completes {r : BitVec 2} (h : aluAllowed (.mxsc a b c k r) x = true) : Completes (aluMxsc a b c k r x) := by
  simp only [aluAllowed, Bool.and_eq_true] at h
  obtain ⟨⟨⟨hf, hr⟩, hc⟩, hs⟩ := h
  exact completes_need hf <| completes_need hr <| completes_need (by simpa using hc) <| shaping_completes hs
theorem aluMxq_completes (h : aluAllowed (.mxq a b c k) x = true) : Completes (aluMxq a b c k x) := by
  obtain ⟨hf, hs⟩ := Bool.and_eq_true_iff.mp h
  exact completes_need hf <| (shaping_completes hs).bind fun o ho => (completes_ok _).mpr ho

/-! ### Reductions and scans (13 R368 to R373) -/

theorem aluRsum_completes (h : aluAllowed (.rsum a b k) x = true) : Completes (aluRsum a b k x) := by
  obtain ⟨hf, hs⟩ := Bool.and_eq_true_iff.mp h
  exact completes_need hf <| reduced_completes (reduceForm_shape_legal hs)
theorem aluFrsum_completes {r : BitVec 2} (h : aluAllowed (.frsum a b k r) x = true) : Completes (aluFrsum a b k r x) := by
  obtain ⟨hf, hs⟩ := Bool.and_eq_true_iff.mp h
  exact completes_need hf <| reduced_completes (reduceForm_shape_legal hs)
theorem aluRext_completes (pick : Fmt → Nat → Nat → Bool) (empty : Fmt → Nat)
    (h : (redFmt (x.tile b).fmt && okReduced (x.tile a) (x.tile b) (x.tile b).fmt) = true) : Completes (aluRext pick empty a b k x) := by
  obtain ⟨hf, hs⟩ := Bool.and_eq_true_iff.mp h
  exact completes_need hf <| reduced_completes (reduceForm_shape_legal hs)
/-- The shape of RAMX's indices is its values' shape in another format. -/
theorem reduceForm_index_legal {α : Type} {t : Tile} {f g : Fmt} (h : okReduced (x.tile a) t g = true) {leaf : Nat → Option α} :
    ({ (reduceForm x a k t f leaf).1 with fmt := g } : Tile).legal = true := by
  have : ({ (reduceForm x a k t f leaf).1 with fmt := g } : Tile) = (reduceForm x a k t g leaf).1 := by
    unfold reduceForm; split <;> rfl
  rw [this]
  exact reduceForm_shape_legal h
theorem aluRamx_completes (h : aluAllowed (.ramx a b c k) x = true) : Completes (aluRamx a b c k x) := by
  simp only [aluAllowed, Bool.and_eq_true] at h
  obtain ⟨⟨⟨hf, hac⟩, hs⟩, hi⟩ := h
  exact completes_need (Bool.and_eq_true_iff.mpr ⟨hf, hac⟩) <| (reduced_completes (reduceForm_shape_legal hs)).bind fun _ ho =>
    completes_unless (reduceForm_index_legal hi) ho
theorem aluDot_completes {r : BitVec 2} (h : aluAllowed (.dot a b c k r) x = true) : Completes (aluDot a b c k r x) := by
  simp only [aluAllowed, Bool.and_eq_true] at h
  obtain ⟨⟨⟨hf, hshape⟩, hr⟩, hs⟩ := h
  have hround : (r == 0 || !(isInt (x.tile b).fmt || (x.tile b).fmt == .fp32)) = true := by simpa using hr
  refine completes_need (Bool.and_eq_true_iff.mpr ⟨hf, hshape⟩) <| completes_need hround ?_
  dsimp only
  split
  · next hi =>
    rw [if_pos hi] at hs
    exact reduced_completes (reduceForm_shape_legal hs)
  · next hi =>
    rw [if_neg hi] at hs
    exact reduced_completes (reduceForm_shape_legal hs)
theorem aluScanBy_completes {t : Tile} (h : (shapeOfV t.fmt t.rows t.cols t.vrows t.vcols).legal = true) {node : Nat → Nat → Nat}
    {leaf out : Nat → Nat} : Completes (aluScanBy node leaf out a t k x) := by
  simp [aluScanBy, h, AluOut.one]
theorem aluScan_completes (h : aluAllowed (.scan a b k) x = true) : Completes (aluScan a b k x) := by
  obtain ⟨hf, hs⟩ := Bool.and_eq_true_iff.mp h
  exact completes_need hf <| aluScanBy_completes hs
theorem aluFscan_completes {r : BitVec 2} (h : aluAllowed (.fscan a b k r) x = true) : Completes (aluFscan a b k r x) := by
  obtain ⟨hf, hs⟩ := Bool.and_eq_true_iff.mp h
  exact completes_need hf <| aluScanBy_completes hs
theorem aluCsum_completes (h : aluAllowed (.csum a b k) x = true) : Completes (aluCsum a b k x) := by
  obtain ⟨hf, hs⟩ := Bool.and_eq_true_iff.mp h
  exact completes_need hf <| reduced_completes hs
theorem aluFcsum_completes {r : BitVec 2} (h : aluAllowed (.fcsum a b k r) x = true) : Completes (aluFcsum a b k r x) := by
  obtain ⟨hf, hs⟩ := Bool.and_eq_true_iff.mp h
  exact completes_need hf <| reduced_completes hs

end

/-! ### Every instruction of the tile ALU -/

/-- On allowed operands an instruction of aluForm has a result and raises no UE event. -/
theorem aluForm_completes {i : Instr} {r w : List TReg} {g : AluIn → AluRes} {x : AluIn} (hf : aluForm i = some ⟨r, w, g⟩)
    (h : aluAllowed i x = true) : Completes (g x) := by
  cases i
  -- 12 R342 to R345
  case add | sub | adds | addsu | subs | subsu | mul | mulh | mulhu | min | max | minu | maxu | avgu | and | or | xor | andn =>
    cases hf; exact aluInt2_completes _ h
  case abs | neg | not | popc | clz | ctz => cases hf; exact aluInt1_completes _ h
  case shl | shr | sar | rol => cases hf; exact aluShift_completes _ h
  case mad => cases hf; exact aluMad_completes h
  case addi | muli | andi | ori | xori => cases hf; exact aluImm_completes _ _ h
  case shi => cases hf; exact aluShi_completes _ _ h
  case movi => cases hf; exact aluMovi_completes h
  case movk => cases hf; exact aluMovk_completes h
  -- 12 R346, R347
  case cmp => obtain ⟨-, ⟨⟩⟩ := Option.ite_none_left_eq_some.mp hf; exact aluCmp_completes h
  case mand | mor | mxor | mnot => obtain ⟨-, ⟨⟩⟩ := Option.ite_none_left_eq_some.mp hf; exact completes_maskOnly
  case mpop | mfst | mst => cases hf; exact scalar_completes
  case mld => obtain ⟨-, ⟨⟩⟩ := Option.ite_none_left_eq_some.mp hf; exact aluMld_completes h
  case mset => obtain ⟨-, ⟨⟩⟩ := Option.ite_none_left_eq_some.mp hf; exact aluMset_completes h
  -- 12 R331, R332
  case shape => cases hf; exact aluShape_completes h
  case ragged => cases hf; exact aluRagged_completes h
  case gshape => cases hf; exact scalar_completes
  case shapei => cases hf; exact aluShapei_completes h
  case raggedi => cases hf; exact aluRaggedi_completes h
  -- 12 R334 to R341
  case mov => cases hf; exact aluMov_completes h
  case zero => cases hf; exact aluZero_completes h
  case trn => cases hf; exact aluTrn_completes h
  case brow => cases hf; exact aluBrow_completes h
  case bcol => cases hf; exact aluBcol_completes h
  case xtr => cases hf; exact aluXtr_completes h
  case ins => cases hf; exact aluIns_completes h
  case slc => cases hf; exact aluSlc_completes h
  case she => cases hf; exact aluShe_completes h
  case rote => cases hf; exact aluRote_completes h
  case perm => cases hf; exact aluPerm_completes h
  case perm8 => cases hf; exact aluPerm8_completes h
  case lut16 => cases hf; exact aluLut16_completes h
  case sel => cases hf; exact aluSel_completes h
  -- 13 R356 to R360
  case fadd | fsub | fmul | fmin | fmax => cases hf; exact aluF2_completes _ _ h
  case fabs | fneg => cases hf; exact aluSign_completes _ (okFloat2_of_okFloat1 h)
  case fcpys => cases hf; exact aluSign_completes _ h
  case fdiv => cases hf; exact aluFdiv_completes _ h
  case fsqrt | frnd => cases hf; exact aluF1_completes _ _ _ h
  case frcp | frsq | fexp2 | flog2 => cases hf; exact aluApprox_completes _ h
  case fscl => cases hf; exact aluFscl_completes h
  case fclass => cases hf; exact aluFclass_completes h
  case fma | fms | fnma => cases hf; exact aluFused_completes _ _ _ h
  case fcmp => obtain ⟨-, ⟨⟩⟩ := Option.ite_none_left_eq_some.mp hf; exact aluFcmp_completes h
  -- 13 R362 to R367
  case cvt => cases hf; exact aluCvt_completes h
  case cvts => cases hf; exact aluCvts_completes h
  case cvtq => cases hf; exact aluCvtq_completes h
  case cvtd => cases hf; exact aluCvtd_completes h
  case mxsc => cases hf; exact aluMxsc_completes h
  case mxq => cases hf; exact aluMxq_completes h
  -- 13 R369 to R373
  case rsum => cases hf; exact aluRsum_completes h
  case frsum => cases hf; exact aluFrsum_completes h
  case rmax | rmin => cases hf; exact aluRext_completes _ _ h
  case ramx => cases hf; exact aluRamx_completes h
  case dot => cases hf; exact aluDot_completes h
  case scan => cases hf; exact aluScan_completes h
  case fscan => cases hf; exact aluFscan_completes h
  case csum => cases hf; exact aluCsum_completes h
  case fcsum => cases hf; exact aluFcsum_completes h
  case seed => cases hf; exact aluSeed_completes h
  -- no other instruction has a form
  all_goals cases hf

/-- A shape-group instruction whose destination no stream binds goes the way of the others (R159). -/
theorem issueShape_clear {s : State} {a : TReg} (h : s.clear [a] = true) (reads : List TReg) (f : AluIn → AluRes) :
    issueShape s a reads f = issueAlu s a reads [a] f := by
  refine if_neg fun ⟨ha, _, hb⟩ => ?_
  rw [State.clear_unbound h (List.mem_singleton.mpr rfl) ha] at hb
  cases hb

/-- An instruction of aluForm reads and writes the tiles that its form names, and computes what its form says. -/
theorem exec_aluForm {i : Instr} {f : AluForm} {s : State} (hf : aluForm i = some f) (hw : s.clear f.writes = true) :
    ∃ a, exec i s = .next (issueAlu s a f.reads f.writes f.f) := by
  cases i
  case shape | ragged | shapei | raggedi => cases hf; exact ⟨_, congrArg _ (issueShape_clear hw _ _)⟩
  case cmp | fcmp | mand | mor | mxor | mnot | mld | mset =>
    obtain ⟨ha, ⟨⟩⟩ := Option.ite_none_left_eq_some.mp hf
    exact ⟨_, if_neg ha⟩
  all_goals cases hf
  all_goals exact ⟨_, rfl⟩

/-- What State.aluReady asks, part by part; where the form has a result, the tile ALU is free for it. -/
theorem aluReady_iff {s : State} {i : Instr} {f : AluForm} (hf : aluForm i = some f) : s.aluReady i = true ↔
    s.alone = true ∧ s.clear (f.reads ++ f.writes) = true ∧ s.sound f.reads = true ∧ aluAllowed i (aluIn s []) = true
      ∧ ∀ o, f.f (aluIn s []) = .ok o → aluFree s o = true := by
  unfold State.aluReady
  rw [hf]
  simp only [Bool.and_eq_true, and_assoc]
  cases f.f (aluIn s []) <;> simp [aluFree]

/-- Settles O1: each check of the instruction passes on allowed operands, and a slot that issues alone commits the result. -/
theorem aluCompletes : Obligations.AluCompletes := by
  unfold Obligations.AluCompletes
  intro i s f hf hready
  obtain ⟨halone, hclear, hsound, hallowed, hfree⟩ := (aluReady_iff hf).mp hready
  obtain ⟨o, ho, hue⟩ := aluForm_completes hf hallowed
  obtain ⟨a, hexec⟩ := exec_aluForm hf (State.clear_append hclear).2
  refine ⟨o, _, ho, hexec, ?_⟩
  rw [issueAlu_alone halone hclear hsound ho (hfree o ho)]
  exact aluWrote_commit halone o hue a

end Sys2Proof.Machine
end

section
/-! What reset leaves (O42), and a Harvest that a host and the power-fail warning both asked for, whose answer is not the only record (O60). -/

namespace Sys2Proof.Machine

/-- No slot holds a handler at reset. -/
theorem slot_reset (c : CoreId) (i : BitVec 2) : State.reset.slot c i = Slot.reset := by
  have h (n : Nat) (hn : n < 4) : (Vector.replicate 4 Slot.reset)[n] = Slot.reset := Vector.getElem_replicate hn
  exact h i.toNat i.isLt

/-- Settles O42: the tables of State.reset list nothing, so every register reads as its record's reset. -/
theorem resetLeavesTheStatedValues : Obligations.ResetLeavesTheStatedValues := by
  unfold Obligations.ResetLeavesTheStatedValues
  refine ⟨⟨rfl, rfl, rfl, rfl, fun _ => rfl, fun p hp => ?_, rfl, rfl, fun c i => ?_⟩, rfl, rfl⟩
  · obtain rfl : p = Port.reset := List.eq_of_mem_replicate (n := 12) (by simpa [State.reset] using hp)
    exact ⟨rfl, rfl, rfl, rfl, rfl⟩
  · rw [slot_reset]; rfl

/-! ### A Harvest that both the host and the power-fail warning asked for (R18, R73, R283) -/

/-- HARVEST of job 5, received in window 3. -/
def harvestOrder : Cmd := { order := 1, window := 3, sel := 0x120, tag := 0, arg := 5, payload := [] }
/-- Window 3, bound to job 5, with nothing queued for its mailbox. -/
def harvestWindow : Window := newWindow 0 false 5 [] [] 1 2 0 16
/-- Job 5 as warnJob leaves it where a Harvest by command was under way (R18): that Harvest goes on, to be committed, and is still to be answered. -/
def harvestedJob : Job :=
  { newJob 5 3 65536 12 1024 16 9 2 with
    windows := [3], harvesting := true, harvestKeep := true, harvestCommit := true, harvestCmd := some harvestOrder
    frost := { Frost.reset with active := true, count := 1, cause := causeWord 5 1 } }
/-- A part in service that holds this job alone, with none of its contexts resident: the job is settled. -/
def warnedHarvest : State :=
  { State.reset with
    rot := { State.reset.rot with phase := .service }
    power := { State.reset.power with warn := true, warnSeen := true, quarter := true, supply := 90, lowSince := some 0 }
    fw := { State.reset.fw with jobs := [harvestedJob], cmds := [harvestOrder], quiesce := true }
    eth := { State.reset.eth with windows := [(3, harvestWindow)] } }

/-- How many records wait for the mailbox of window 3 after an occurrence. -/
def queuedRecords (o : Host.Outcome State Fault Refusal) : Option Nat :=
  match o with
  | .next t => (windowAt t 3).map (·.pendingRecs.length)
  | _ => none

/-- The dump queues the power-fail record of R18 and behind it the answer of the command. -/
theorem harvestDump_queues_two_records : queuedRecords (exec (.harvestDump 5 [0x2000000] 0) warnedHarvest) = some 2 := by
  decide +kernel

/-- An answer to a command of window 3 alone queues one record there. -/
theorem queuedRecords_of_answered {t : State} {status : Nat} {arg : Word64} {l : List Byte}
    (h : Answered warnedHarvest t harvestOrder status arg l) : queuedRecords (.next t) = some 1 := by
  obtain ⟨-, hwindow⟩ := h
  obtain ⟨v, hv, -, hrecs⟩ := hwindow harvestWindow rfl
  have hv' : windowAt t 3 = some v := hv
  simp only [queuedRecords, hv', Option.map_some, hrecs]
  rfl

/-- Refutes O60: where the warning has a Harvest committed that a host commanded from a window bound to the job, the dump queues the power-fail record
(R18 step 5, R73) at that window before the answer (R283), so the answer is not the one record that is added there. -/
theorem not_powerHealthAndRecovery : ¬ Obligations.PowerHealthAndRecovery := by
  unfold Obligations.PowerHealthAndRecovery
  intro h
  obtain ⟨-, -, -, -, -, -, -, -, -, -, -, -, hjobs⟩ := h warnedHarvest
  obtain ⟨hdump, -⟩ := hjobs 5 harvestedJob rfl (by decide)
  obtain ⟨t, _, hexec, -, -, -, -, -, -, hanswer, -⟩ := hdump 0x2000000 [] 0 rfl rfl (by decide +kernel) (by decide +kernel)
    (by decide +kernel) (.inl rfl) rfl
  have htwo := harvestDump_queues_two_records
  rw [hexec, queuedRecords_of_answered (hanswer harvestOrder rfl)] at htwo
  cases htwo

end Sys2Proof.Machine
end

section
/-! What Lamcon's transport does to the part (chapter 02): handing packets to ports, giving messages back, moving port sets. Whatever goes wrong on
the way, it fills ports' queues and retry buffers, gateways' lists, the mesh and the mailboxes, and leaves the rest of the part as it was. -/

namespace Sys2Proof.Machine

/-! ### Ports -/

@[simp] theorem portAt_updPort_same (s : State) {p : Nat} (f : Port → Port) (h : p < 12) : portAt (updPort s p f) p = f (portAt s p) := by
  simp [portAt, updPort, h]
theorem portAt_updPort_other (s : State) {p q : Nat} (f : Port → Port) (h : p ≠ q) : portAt (updPort s p f) q = portAt s q := by
  unfold updPort
  split
  · simp [portAt, h]
  · rfl
theorem portAt_of_le (s : State) {p : Nat} (h : 12 ≤ p) : portAt s p = Port.reset := by
  simp [portAt, h]
/-- A port that is not down is one of the twelve (R31). -/
theorem lt_of_portAt_st {s : State} {p : Nat} (h : (portAt s p).st ≠ 0) : p < 12 := by
  by_contra hp
  rw [portAt_of_le s (by omega)] at h
  exact h rfl
/-- A port with packets in its retry buffer is one of the twelve. -/
theorem lt_of_portAt_retry {s : State} {p : Nat} (h : (portAt s p).retry ≠ []) : p < 12 := by
  by_contra hp
  rw [portAt_of_le s (by omega)] at h
  exact h rfl
theorem updPort_ports {s : State} {p : Nat} (hp : p < 12) (f : Port → Port) :
    updPort s p f = { s with lam := { s.lam with ports := s.lam.ports.set p (f s.lam.ports[p]) } } := dif_pos hp
theorem updPort_of_le (s : State) {p : Nat} (hp : 12 ≤ p) (f : Port → Port) : updPort s p f = s := dif_neg (by omega)
@[simp] theorem updPort_mem (s : State) (p : Nat) (f : Port → Port) : (updPort s p f).mem = s.mem := by unfold updPort; split <;> rfl
@[simp] theorem updPort_clk (s : State) (p : Nat) (f : Port → Port) : (updPort s p f).clk = s.clk := by unfold updPort; split <;> rfl
@[simp] theorem updPort_freeCnt (s : State) (p : Nat) (f : Port → Port) : (updPort s p f).freeCnt = s.freeCnt := by unfold updPort; split <;> rfl
@[simp] theorem updPort_part (s : State) (p : Nat) (f : Port → Port) : (updPort s p f).part = s.part := by unfold updPort; split <;> rfl
@[simp] theorem updPort_keOut (s : State) (p : Nat) (f : Port → Port) : (updPort s p f).lam.keOut = s.lam.keOut := by unfold updPort; split <;> rfl
@[simp] theorem updPort_thymeOut (s : State) (p : Nat) (f : Port → Port) : (updPort s p f).lam.thymeOut = s.lam.thymeOut := by
  unfold updPort; split <;> rfl
@[simp] theorem updPort_sent (s : State) (p : Nat) (f : Port → Port) : (updPort s p f).lam.sent = s.lam.sent := by unfold updPort; split <;> rfl
@[simp] theorem updPort_now (s : State) (p : Nat) (f : Port → Port) : (updPort s p f).now = s.now := by simp [State.now]

/-- A port that packets were handed to: its queue, retry buffer, link sequence and nonce counts may differ (R36, R44, R46). -/
def Port.Carries (x y : Port) : Prop :=
  { y with queue := x.queue, retry := x.retry, sendSeq := x.sendSeq, counts := x.counts } = x

theorem Port.Carries.refl (x : Port) : Port.Carries x x := rfl
theorem Port.Carries.trans {x y z : Port} (h : Port.Carries x y) (g : Port.Carries y z) : Port.Carries x z :=
  (congrArg (fun v : Port => { v with queue := x.queue, retry := x.retry, sendSeq := x.sendSeq, counts := x.counts }) g :).trans h

theorem updPort_updPort (s : State) (p : Nat) (f g : Port → Port) : updPort (updPort s p f) p g = updPort s p fun x => g (f x) := by
  unfold updPort
  split
  · simp
  · rfl
theorem updPort_fixed {s : State} {p : Nat} {f : Port → Port} (h : f (portAt s p) = portAt s p) : updPort s p f = s := by
  unfold updPort
  split
  · next hp =>
    have hx : portAt s p = s.lam.ports[p] := by simp [portAt, hp]
    rw [hx] at h
    rw [h, Vector.set_getElem_self]
  · rfl

/-- t is s after packets were handed to ports: those and what was sent on them differ (R36, R46). -/
structure Feeds (s t : State) : Prop where
  rest : { t with lam := { t.lam with ports := s.lam.ports, sent := s.lam.sent } } = s
  ports : ∀ p, Port.Carries (portAt s p) (portAt t p)
  sent : ∃ l, t.lam.sent = s.lam.sent ++ l

theorem Feeds.refl (s : State) : Feeds s s := ⟨rfl, fun _ => rfl, [], by simp⟩
theorem Feeds.trans {s t u : State} (h : Feeds s t) (g : Feeds t u) : Feeds s u := by
  obtain ⟨l, hl⟩ := h.sent
  obtain ⟨k, hk⟩ := g.sent
  refine ⟨?_, fun p => (h.ports p).trans (g.ports p), l ++ k, by rw [hk, hl, List.append_assoc]⟩
  exact (congrArg (fun v : State => { v with lam := { v.lam with ports := s.lam.ports, sent := s.lam.sent } }) g.rest :).trans h.rest
theorem Feeds.outs {s t : State} (h : Feeds s t) : t.lam.outs = s.lam.outs := (congrArg (fun v : State => v.lam.outs) h.rest :)
theorem Feeds.mesh {s t : State} (h : Feeds s t) : t.mesh = s.mesh := (congrArg State.mesh h.rest :)
theorem Feeds.mem {s t : State} (h : Feeds s t) : t.mem = s.mem := (congrArg State.mem h.rest :)

/-- What every step of a run over a list does, the run does. -/
theorem foldl_rel {α : Type} {R : State → State → Prop} (refl : ∀ s, R s s) (trans : ∀ {s t u}, R s t → R t u → R s u)
    {f : State → α → State} (hf : ∀ s a, R s (f s a)) (l : List α) (s : State) : R s (l.foldl f s) := by
  induction l generalizing s with
  | nil => exact refl s
  | cons a l ih => exact trans (hf s a) (ih _)
theorem foldl_feeds {α : Type} {f : State → α → State} (hf : ∀ s a, Feeds s (f s a)) (l : List α) (s : State) : Feeds s (l.foldl f s) :=
  foldl_rel Feeds.refl Feeds.trans hf l s

theorem updPort_feeds (s : State) (p : Nat) {f : Port → Port} (hf : ∀ x, Port.Carries x (f x)) : Feeds s (updPort s p f) := by
  by_cases hp : p < 12
  · have hport (q : Nat) : Port.Carries (portAt s q) (portAt (updPort s p f) q) := by
      by_cases h : p = q
      · subst h
        rw [portAt_updPort_same s f hp]
        exact hf _
      · rw [portAt_updPort_other s f h]
        exact .refl _
    have hs := updPort_ports hp f (s := s)
    exact ⟨by rw [hs], hport, [], by simp [hs]⟩
  · rw [updPort_of_le s (by omega)]
    exact .refl s
theorem transmit_feeds (s : State) (p : Nat) (q : Queued) : Feeds s (transmit s p q) := by
  refine (updPort_feeds s p ?_).trans ⟨rfl, fun _ => rfl, _, rfl⟩
  exact fun _ => rfl
theorem portPump_feeds (n : Nat) (s : State) (p : Nat) (vc : BitVec 2) : Feeds s (portPump n s p vc) := by
  induction n generalizing s with
  | zero => exact .refl s
  | succ n ih =>
    unfold portPump
    dsimp only
    split
    · exact .refl s
    · split
      · exact .refl s
      · refine (updPort_feeds s p ?_).trans ((transmit_feeds _ p _).trans (ih _))
        exact fun _ => rfl
theorem portGo_feeds (s : State) (p : Nat) : Feeds s (portGo s p) := foldl_feeds (fun _ vc => portPump_feeds _ _ p vc) _ s
theorem portSend_feeds (s : State) (p : Nat) (n : BitVec 32) (g h : BitVec 8) (vc : BitVec 2) (m : Msg) : Feeds s (portSend s p n g h vc m) := by
  refine (updPort_feeds s p ?_).trans (portPump_feeds _ _ p vc)
  exact fun _ => rfl

/-! ### Transport -/

/-- t is s after transport that may have moved port sets too: packets went to ports, messages back, records to mailboxes. -/
structure Transports (s t : State) : Prop where
  rest : { t with lam := s.lam, mesh := s.mesh, eth := s.eth, nextId := s.nextId } = s
  lam : { t.lam with ports := s.lam.ports, outs := s.lam.outs, sets := s.lam.sets, path := s.lam.path, sent := s.lam.sent } = s.lam
  ports : ∀ p, Port.Carries (portAt s p) (portAt t p)
  sent : ∃ l, t.lam.sent = s.lam.sent ++ l

theorem Transports.refl (s : State) : Transports s s := ⟨rfl, rfl, fun _ => rfl, [], by simp⟩
theorem Transports.trans {s t u : State} (h : Transports s t) (g : Transports t u) : Transports s u := by
  obtain ⟨l, hl⟩ := h.sent
  obtain ⟨k, hk⟩ := g.sent
  refine ⟨?_, ?_, fun p => (h.ports p).trans (g.ports p), l ++ k, by rw [hk, hl, List.append_assoc]⟩
  · exact (congrArg (fun v : State => { v with lam := s.lam, mesh := s.mesh, eth := s.eth, nextId := s.nextId }) g.rest :).trans h.rest
  · exact (congrArg (fun v : Lam => { v with ports := s.lam.ports, outs := s.lam.outs, sets := s.lam.sets, path := s.lam.path, sent := s.lam.sent })
      g.lam :).trans h.lam
theorem Transports.mem {s t : State} (h : Transports s t) : t.mem = s.mem := (congrArg State.mem h.rest :)
theorem Transports.keOut {s t : State} (h : Transports s t) : t.lam.keOut = s.lam.keOut := (congrArg Lam.keOut h.lam :)

/-- Transport that leaves the port sets as they are. -/
structure Carries (s t : State) : Prop extends Transports s t where
  sets : t.lam.sets = s.lam.sets

theorem Carries.refl (s : State) : Carries s s := ⟨.refl s, rfl⟩
theorem Carries.trans {s t u : State} (h : Carries s t) (g : Carries t u) : Carries s u :=
  ⟨h.toTransports.trans g.toTransports, g.sets.trans h.sets⟩

theorem foldl_carries {α : Type} {f : State → α → State} (hf : ∀ s a, Carries s (f s a)) (l : List α) (s : State) : Carries s (l.foldl f s) :=
  foldl_rel Carries.refl Carries.trans hf l s

/-! ### The parts of transport -/

theorem putFlight_carries (s : State) (c : CoreId) (m : Msg) (h : Bool) : Carries s (putFlight s c m h) :=
  ⟨⟨rfl, rfl, fun _ => rfl, [], by simp⟩, rfl⟩
theorem toMailboxes_carries (s : State) (j : JobId) (r : List Byte) : Carries s (toMailboxes s j r) := by
  unfold toMailboxes
  split
  · exact .refl s
  · exact ⟨⟨rfl, rfl, fun _ => rfl, [], by simp⟩, rfl⟩
theorem withOuts_carries (s : State) (l : List GwOut) : Carries s { s with lam := { s.lam with outs := l } } :=
  ⟨⟨rfl, rfl, fun _ => rfl, [], by simp⟩, rfl⟩
theorem putOut_carries (s : State) (o : GwOut) : Carries s (putOut s o) := withOuts_carries s _
theorem withPath_carries (s : State) (b : Bool) : Carries s { s with lam := { s.lam with path := b } } :=
  ⟨⟨rfl, rfl, fun _ => rfl, [], by simp⟩, rfl⟩
theorem Feeds.carries {s t : State} (h : Feeds s t) : Carries s t :=
  ⟨⟨(congrArg (fun v : State => { v with lam := s.lam, mesh := s.mesh, eth := s.eth, nextId := s.nextId }) h.rest :),
    (congrArg (fun v : State => { v.lam with
      ports := s.lam.ports, outs := s.lam.outs, sets := s.lam.sets, path := s.lam.path, sent := s.lam.sent }) h.rest :), h.ports, h.sent⟩,
    (congrArg (fun v : State => v.lam.sets) h.rest :)⟩
theorem pump_carries (s : State) (gw : BitVec 6) (part : PartId) : Carries s (pump s gw part) := by
  unfold pump
  dsimp only
  split
  · exact .refl s
  · exact (putOut_carries s _).trans ((foldl_feeds (fun _ _ => portSend_feeds ..) _ _).carries)
theorem gwSend_carries (s : State) (g : Nat) (m : Msg) : Carries s (gwSend s g m) := (putOut_carries s _).trans (pump_carries _ _ _)
theorem lamReturn_carries (s : State) (c : CoreId) (m : Msg) : Carries s (lamReturn s c m) := by
  unfold lamReturn
  dsimp only
  split
  · split
    · exact toMailboxes_carries ..
    · exact .refl s
  · split
    · exact putFlight_carries ..
    · split
      · exact gwSend_carries ..
      · exact .refl s
theorem pumpPart_carries (s : State) (part : PartId) : Carries s (pumpPart s part) := foldl_carries (fun _ _ => pump_carries ..) _ s
theorem pumpPort_carries (s : State) (p : Nat) : Carries s (pumpPort s p) := foldl_carries (fun _ _ => pump_carries ..) _ s
theorem reroute_carries (s : State) (part : PartId) : Carries s (reroute s part) := by
  refine foldl_carries (fun s o => (putOut_carries s _).trans (foldl_carries (fun s u => ?_) _ _)) _ s
  split
  · exact (portSend_feeds ..).carries
  · exact .refl s
theorem requeue_carries (s : State) (part : PartId) : Carries s (requeue s part) := by
  refine (withOuts_carries s _).trans (foldl_carries (fun s m => ?_) _ _)
  split
  · exact gwSend_carries ..
  · exact .refl s
theorem abandon_carries (s : State) (part : PartId) : Carries s (abandon s part) :=
  foldl_carries (fun s _ => (putOut_carries s _).trans (foldl_carries (fun _ _ => lamReturn_carries ..) _ _)) _ s
theorem topologyPlain_carries (s : State) (j : JobId) (r : BitVec 4) (p : PartId) : Carries s (topologyPlain s j r p) :=
  (foldl_carries (fun _ _ => putFlight_carries ..) _ s).trans (toMailboxes_carries ..)
theorem topologyFor_carries (s : State) (part : PartId) (r : BitVec 4) : Carries s (topologyFor s part r) :=
  foldl_carries (fun _ _ => topologyPlain_carries ..) _ s
theorem checkPath_carries (s : State) : Carries s (checkPath s) := by
  unfold checkPath
  split
  · exact .refl s
  · split
    · exact (withPath_carries s false).trans (foldl_carries (fun _ _ => topologyPlain_carries ..) _ _)
    · exact withPath_carries s true

/-- A port set that is changed reads as what it was changed to (R32, R35). -/
theorem changeSet_sets (s : State) (part : PartId) (set : BitVec 12) : ((changeSet s part set).lam.sets.look part.toNat).getD 0 = set := by
  unfold changeSet
  dsimp only
  split
  · next h => exact h.symm
  · split
    · rw [((abandon_carries _ part).trans (topologyFor_carries _ part 1)).sets]; simp
    · have h := (reroute_carries { s with lam := { s.lam with sets := s.lam.sets.put part.toNat set } } part).trans (requeue_carries _ part)
      split
      · rw [(h.trans (topologyFor_carries _ part 2)).sets]; simp
      · rw [h.sets]; simp
theorem changeSet_transports (s : State) (part : PartId) (set : BitVec 12) : Transports s (changeSet s part set) := by
  have hput : Transports s { s with lam := { s.lam with sets := s.lam.sets.put part.toNat set } } := ⟨rfl, rfl, fun _ => rfl, [], by simp⟩
  unfold changeSet
  dsimp only
  split
  · exact .refl s
  · split
    · exact hput.trans ((abandon_carries _ part).trans (topologyFor_carries _ part 1)).toTransports
    · have h := hput.trans ((reroute_carries _ part).trans (requeue_carries _ part)).toTransports
      split
      · exact h.trans (topologyFor_carries _ part 2).toTransports
      · exact h

/-- The record of a port that is down (R45, R47). -/
def Port.down (x : Port) (sec : Bool) : Port :=
  { x with
    st := 0, lanes := 0, secEvent := x.secEvent || sec, queue := [], retry := [], replayed := 0, failed := 0, tagFail := false, keWait := false, keTries := 0 }
/-- A port that goes down is taken from the port sets, which is transport (R47). -/
theorem portDown_transports (s : State) (p : Nat) (sec : Bool) : Transports (updPort s p (Port.down · sec)) (portDown s p sec) := by
  refine Transports.trans (foldl_rel Transports.refl Transports.trans (fun s e => ?_) _ _) (checkPath_carries _).toTransports
  split
  · exact changeSet_transports ..
  · exact .refl s
theorem portDown_mem (s : State) (p : Nat) (sec : Bool) : (portDown s p sec).mem = s.mem :=
  (portDown_transports s p sec).mem.trans (updPort_mem ..)
/-- The port is down afterwards, with sec_event where it is asked for. -/
theorem portAt_portDown (s : State) {p : Nat} (hp : p < 12) (sec : Bool) :
    (portAt (portDown s p sec) p).st = 0 ∧ (portAt (portDown s p sec) p).secEvent = ((portAt s p).secEvent || sec)
      ∧ (portAt (portDown s p sec) p).keWait = false := by
  have h := (portDown_transports s p sec).ports p
  rw [portAt_updPort_same s _ hp] at h
  exact ⟨congrArg Port.st h, congrArg Port.secEvent h, congrArg Port.keWait h⟩

end Sys2Proof.Machine
end

section
/-! Keys, epochs and Thyme (02 R44, R45, R48, R52; O57). -/

namespace Sys2Proof.Machine

/-! ### Key numbers and the tables of a port (R44) -/

/-- A table after a run of puts reads, at one of the keys put, as what was put there, where no other key of the run is the same. -/
theorem look_foldl_put_mem {α β : Type} (k : β → Nat) (v : β → α) (l : List β) (m : SMap α) {q : β} (hq : q ∈ l) (hk : ∀ a ∈ l, k a = k q → a = q) :
    (l.foldl (fun (t : SMap α) a => t.put (k a) (v a)) m).look (k q) = some (v q) := by
  induction l using List.reverseRecOn with
  | nil => cases hq
  | append_singleton l a ih =>
    rw [List.foldl_append, List.foldl_cons, List.foldl_nil]
    by_cases h : k a = k q
    · obtain rfl := hk a (by simp) h
      exact SMap.look_put_same _ _ _
    · rw [SMap.look_put_other _ _ _ _ h]
      have hne : q ≠ a := fun e => h (e ▸ rfl)
      exact ih ((List.mem_append.mp hq).resolve_right (by simpa using hne)) fun b hb => hk b (by simp [hb])
/-- At any other key it reads as before. -/
theorem look_foldl_put_other {α β : Type} (k : β → Nat) (v : β → α) (l : List β) (m : SMap α) {n : Nat} (hn : ∀ a ∈ l, k a ≠ n) :
    (l.foldl (fun (t : SMap α) a => t.put (k a) (v a)) m).look n = m.look n := by
  induction l generalizing m with
  | nil => rfl
  | cons a l ih =>
    rw [List.foldl_cons, ih _ fun b hb => hn b (List.mem_cons_of_mem a hb)]
    exact SMap.look_put_other _ _ _ _ (hn a List.mem_cons_self)

/-- The directions and channels whose keys an epoch has (R44). -/
def keySlots : List (Bool × Nat) := [false, true].flatMap fun d => [0, 1, 2, 3].map fun vc => (d, vc)
theorem mem_keySlots (d : Bool) (vc : BitVec 2) : (d, vc.toNat) ∈ keySlots := by revert d vc; decide
theorem keyNo_inj_keySlots (d : Bool) (vc : BitVec 2) (e : BitVec 1) : ∀ a ∈ keySlots, keyNo a.1 (BitVec.ofNat 2 a.2) e = keyNo d vc e → a = (d, vc.toNat) := by
  revert d vc e; decide
theorem keyNo_ne_other_epoch (d : Bool) (vc : BitVec 2) (e : BitVec 1) : ∀ a ∈ keySlots, keyNo a.1 (BitVec.ofNat 2 a.2) e ≠ keyNo d vc (~~~e) := by
  revert d vc e; decide

/-- A register of each direction and channel of an epoch is put; the other epoch's stay. -/
theorem look_keySlots {α : Type} (v : Bool × Nat → α) (m : SMap α) (e : BitVec 1) (d : Bool) (vc : BitVec 2) :
    (keySlots.foldl (fun (t : SMap α) q => t.put (keyNo q.1 (BitVec.ofNat 2 q.2) e) (v q)) m).look (keyNo d vc e) = some (v (d, vc.toNat)) := by
  have h := look_foldl_put_mem (fun q : Bool × Nat => keyNo q.1 (BitVec.ofNat 2 q.2) e) v keySlots m (mem_keySlots d vc)
    (by simpa using keyNo_inj_keySlots d vc e)
  simpa using h

/-! ### Key messages on their way (R45) -/

/-- The flits of a key message on a port (R45). -/
def keWire (x : Port) (p : Nat) (l : List Byte) : List Byte :=
  let n := sendKey x 3 x.epoch
  padTo 64 (if kePlain x then l else protect (modeOf x 3) (x.schedule n) (nonceOf x.self (BitVec.ofNat 4 p) 3 (x.count n)) [] l)
theorem keWire_plain {x : Port} (h : kePlain x = true) (p : Nat) (l : List Byte) : keWire x p l = padTo 64 l := congrArg (padTo 64) (if_pos h)
/-- The nonce count of a key number goes on with a key message, where keys are in force (R44). -/
def keCount (s : State) (p n : Nat) : State :=
  if kePlain (portAt s p) = true then s else updPort s p fun x => { x with counts := x.counts.put n (x.count n + 1) }
theorem keCount_spec (s : State) {p : Nat} (hp : p < 12) (n : Nat) : (∃ counts, portAt (keCount s p n) p = { portAt s p with counts := counts })
    ∧ (keCount s p n).mem = s.mem ∧ (keCount s p n).now = s.now ∧ (keCount s p n).freeCnt = s.freeCnt ∧ (keCount s p n).lam.keOut = s.lam.keOut := by
  unfold keCount
  split
  · exact ⟨⟨(portAt s p).counts, rfl⟩, rfl, rfl, rfl, rfl⟩
  · exact ⟨⟨_, portAt_updPort_same s _ hp⟩, updPort_mem .., updPort_now .., updPort_freeCnt .., updPort_keOut ..⟩
theorem keSend_eq (s : State) (p : Nat) (l : List Byte) : keSend s p l = (let u := keCount s p (sendKey (portAt s p) 3 (portAt s p).epoch);
    { u with lam := { u.lam with keOut := u.lam.keOut ++ [(BitVec.ofNat 4 p, keWire (portAt s p) p l)] } }) := rfl
/-- A key message is put out; what the port keeps of it is a nonce count. -/
theorem keSend_spec (s : State) {p : Nat} (hp : p < 12) (l : List Byte) : (∃ counts, portAt (keSend s p l) p = { portAt s p with counts := counts })
    ∧ (keSend s p l).mem = s.mem ∧ (keSend s p l).lam.keOut = s.lam.keOut ++ [(BitVec.ofNat 4 p, keWire (portAt s p) p l)] := by
  obtain ⟨hport, hmem, -, -, hout⟩ := keCount_spec s hp (sendKey (portAt s p) 3 (portAt s p).epoch)
  rw [keSend_eq]
  exact ⟨hport, hmem, congrArg (· ++ [_]) hout⟩

/-- KE1 of a port with the n-th KEM key (R45). -/
def Port.ke1 (x : Port) (n : Nat) : KeyMsg :=
  { part := x.self, round := x.round, kem := freshKem n, key := identity, signature := signBy (ke1Digest x.self x.round (freshKem n) identity) }
theorem isKe1_ke1 (s : State) (x : Port) : IsKe1 s x (x.ke1 s.freeCnt) := by
  simp only [IsKe1, Port.ke1, and_self]

/-- KE1 is sent: the port waits from now on, for the answer to this message (R45). -/
theorem sendKe1_begins (s : State) {port : BitVec 4} (hp : port.toNat < 12) (hlt : (portAt s port.toNat).self.toNat < (portAt s port.toNat).partner.toNat) :
    KeysBegun s (sendKe1 s port.toNat) port ∧ (sendKe1 s port.toNat).mem = s.mem
      ∧ (portAt (sendKe1 s port.toNat) port.toNat).keTries = (portAt s port.toNat).keTries := by
  let x := portAt s port.toNat
  let k := x.ke1 s.freeCnt
  let d := ke1Digest x.self x.round (freshKem s.freeCnt) identity
  let u := updPort { s with freeCnt := s.freeCnt + 1 } port.toNat fun x =>
    { x with keWait := true, keSince := s.now.toNat, keDigest := d, keKem := s.freeCnt }
  have hu : portAt u port.toNat = { x with keWait := true, keSince := s.now.toNat, keDigest := d, keKem := s.freeCnt } :=
    portAt_updPort_same _ _ hp
  have hsend : sendKe1 s port.toNat = keSend u port.toNat (KeyMsg.bytes false k) := rfl
  obtain ⟨⟨counts, hport⟩, hmem, hout⟩ := keSend_spec u hp (KeyMsg.bytes false k)
  rw [hu] at hport hout
  have hplain : kePlain x = true → _ = padTo 64 (KeyMsg.bytes false k) := fun h => keWire_plain (x := { x with
    keWait := true, keSince := s.now.toNat, keDigest := d, keKem := s.freeCnt }) h port.toNat _
  rw [hsend]
  refine ⟨?_, hmem.trans (updPort_mem ..), by rw [hport]⟩
  unfold KeysBegun
  rw [hport, hout, BitVec.ofNat_toNat, BitVec.setWidth_eq, updPort_keOut]
  exact ⟨rfl, rfl, rfl, rfl, rfl, fun _ => ⟨k, _, isKe1_ke1 s x, rfl, by simp only [k, d, Port.ke1], rfl, hplain⟩, fun hle => absurd hlt (by omega)⟩

/-- Key establishment begins (R45). -/
theorem startKeys_begins (s : State) {port : BitVec 4} (hp : port.toNat < 12) :
    KeysBegun s (startKeys s port.toNat) port ∧ (startKeys s port.toNat).mem = s.mem
      ∧ (portAt (startKeys s port.toNat) port.toNat).keTries = (portAt s port.toNat).keTries := by
  unfold startKeys
  split
  · next hlt => exact sendKe1_begins s hp hlt
  · next hge =>
    have hport := portAt_updPort_same s (fun x => { x with keWait := true, keSince := s.now.toNat }) hp
    refine ⟨?_, updPort_mem .., by rw [hport]⟩
    unfold KeysBegun
    rw [hport]
    exact ⟨rfl, rfl, rfl, rfl, rfl, fun hlt => absurd hlt hge, fun _ => updPort_keOut ..⟩

/-- Two states that are one to key establishment on a port: only nonce counts and the tries made may differ. -/
structure SameKeys (s u : State) (p : Nat) : Prop where
  port : { portAt u p with counts := (portAt s p).counts, keTries := (portAt s p).keTries } = portAt s p
  now : u.now = s.now
  freeCnt : u.freeCnt = s.freeCnt
  keOut : u.lam.keOut = s.lam.keOut

theorem KeysBegun.of_same {s u t : State} {port : BitVec 4} (h : SameKeys s u port.toNat) (hb : KeysBegun u t port) : KeysBegun s t port := by
  obtain ⟨hport, hnow, hfree, hout⟩ := h
  unfold KeysBegun IsKe1 at *
  rw [hnow, hfree, hout] at hb
  rw [← hport]
  exact hb

/-- A failed try (R45): three more, then the port is down. -/
theorem keyFail_fails (s : State) {port : BitVec 4} (hp : port.toNat < 12) :
    KeysFailed s (keyFail s port.toNat) port ∧ (keyFail s port.toNat).mem = s.mem := by
  unfold KeysFailed keyFail
  dsimp only
  by_cases h : (portAt s port.toNat).keTries < 3
  · rw [if_pos h, if_neg (by omega)]
    let u := updPort s port.toNat fun x => { x with keTries := (portAt s port.toNat).keTries + 1 }
    have hu : portAt u port.toNat = { portAt s port.toNat with keTries := (portAt s port.toNat).keTries + 1 } := portAt_updPort_same _ _ hp
    obtain ⟨hbegun, hmem, htries⟩ := startKeys_begins u hp
    have hsame : SameKeys s u port.toNat := ⟨by rw [hu], updPort_now .., updPort_freeCnt .., updPort_keOut ..⟩
    exact ⟨⟨hbegun.of_same hsame, htries.trans (by rw [hu])⟩, hmem.trans (updPort_mem ..)⟩
  · rw [if_neg h, if_pos (by omega)]
    obtain ⟨hst, hsec, hwait⟩ := portAt_portDown s hp true
    exact ⟨⟨hst, by simp [hsec], hwait⟩, portDown_mem ..⟩
/-- The same where a message was taken before its check failed. -/
theorem keyFail_keCount_fails (s : State) {port : BitVec 4} (hp : port.toNat < 12) (n : Nat) :
    KeysFailed s (keyFail (keCount s port.toNat n) port.toNat) port ∧ (keyFail (keCount s port.toNat n) port.toNat).mem = s.mem := by
  obtain ⟨hfail, hmem⟩ := keyFail_fails (keCount s port.toNat n) hp
  obtain ⟨⟨counts, hport⟩, hmem', hnow, hfree, hout⟩ := keCount_spec s hp n
  have hsame : SameKeys s (keCount s port.toNat n) port.toNat := ⟨by rw [hport], hnow, hfree, hout⟩
  refine ⟨?_, hmem.trans hmem'⟩
  unfold KeysFailed at *
  rw [hport] at hfail
  dsimp only at hfail ⊢
  split
  · next h =>
    rw [if_pos h] at hfail
    exact ⟨hfail.1.of_same hsame, hfail.2⟩
  · next h =>
    rw [if_neg h] at hfail
    exact hfail

/-! ### Keys that are loaded (R44) -/

/-- The port of loadKeys, before the packets that waited for the link go. -/
def Port.keyed (x : Port) (secret : List Byte) (round : BitVec 32) : Port :=
  let e : BitVec 1 := if x.st = 1 then 0 else ~~~x.epoch
  { x with
    keys := keySlots.foldl (fun (t : SMap (List Byte)) q => t.put (keyNo q.1 (BitVec.ofNat 2 q.2) e) (linkKeyOf secret x.self x.partner q.1 q.2 e.toNat round)) x.keys
    counts := keySlots.foldl (fun (t : SMap Nat) q => t.put (keyNo q.1 (BitVec.ofNat 2 q.2) e) 0) x.counts
    round := round + 1, keTries := 0, keWait := false, st := if x.st = 1 then 2 else x.st, epoch := if x.st = 1 then 0 else x.epoch
    recvEpoch := if x.st = 1 then 0 else x.recvEpoch, recvNew := x.st != 1, loaded := x.st != 1 }

theorem loadKeys_eq (s : State) {p : Nat} (hp : p < 12) (secret : List Byte) (round : BitVec 32) : loadKeys s p secret round =
    if (portAt s p).st = 1 then pumpPort (updPort s p (Port.keyed · secret round)) p else updPort s p (Port.keyed · secret round) := by
  have hx : portAt s p = s.lam.ports[p] := by simp [portAt, hp]
  by_cases h : (portAt s p).st = 1 <;>
    simp only [loadKeys, Port.keyed, updPort_ports hp, ← hx, h, beq_self_eq_true, beq_iff_eq, if_true, if_false] <;> rfl

/-- What loadKeys leaves of the part: the port keyed, and at bring-up the packets that waited gone to it. -/
theorem loadKeys_port (s : State) {p : Nat} (hp : p < 12) (secret : List Byte) (round : BitVec 32) :
    Port.Carries ((portAt s p).keyed secret round) (portAt (loadKeys s p secret round) p)
      ∧ ((portAt s p).st ≠ 1 → portAt (loadKeys s p secret round) p = (portAt s p).keyed secret round)
      ∧ (loadKeys s p secret round).mem = s.mem ∧ (loadKeys s p secret round).lam.keOut = s.lam.keOut := by
  have hport := portAt_updPort_same s (Port.keyed · secret round) hp
  rw [loadKeys_eq s hp]
  split
  · next h =>
    have hpump := pumpPort_carries (updPort s p (Port.keyed · secret round)) p
    have hcarries := hpump.ports p
    rw [hport] at hcarries
    exact ⟨hcarries, fun h' => absurd h h', hpump.mem.trans (updPort_mem ..), hpump.keOut.trans (updPort_keOut ..)⟩
  · exact ⟨hport ▸ .refl _, fun _ => hport, updPort_mem .., updPort_keOut ..⟩

/-- Keys that are loaded on a port stand on it (R44), whatever nonce counts its key messages raised. -/
theorem loadKeys_loaded {s u : State} {port : BitVec 4} (hp : port.toNat < 12) {counts : SMap Nat}
    (hu : portAt u port.toNat = { portAt s port.toNat with counts := counts }) (secret : List Byte) (round : BitVec 32) :
    KeysLoaded s (loadKeys u port.toNat secret round) port secret round := by
  obtain ⟨hcarries, heq, -, -⟩ := loadKeys_port u hp secret round
  rw [hu] at hcarries heq
  have hkeys := (congrArg Port.keys hcarries :)
  refine ⟨(congrArg Port.st hcarries :), (congrArg Port.epoch hcarries :), (congrArg Port.recvEpoch hcarries :), (congrArg Port.loaded hcarries :),
    (congrArg Port.keWait hcarries :), (congrArg Port.keTries hcarries :), (congrArg Port.round hcarries :), fun dir vc => ⟨?_, ?_, fun hst => ?_⟩⟩
  · dsimp only at hkeys ⊢
    rw [hkeys]
    exact look_keySlots (fun q => linkKeyOf secret _ _ q.1 q.2 _ round) _ _ dir vc
  · dsimp only at hkeys ⊢
    rw [hkeys]
    exact look_foldl_put_other _ _ _ _ (keyNo_ne_other_epoch dir vc _)
  · rw [heq hst]
    exact look_keySlots (fun _ => 0) _ _ dir vc

/-! ### KE1 and KE2 at the port they come to (R45) -/

/-- KE2 of a port in answer to KE1 (R45). -/
def Port.ke2 (x : Port) (m : KeyMsg) (n : Nat) : KeyMsg :=
  let c := encapsulate m.kem n
  { part := x.self, round := m.round, kem := c.1, key := identity
    signature := signBy (ke2Digest x.self m.round c.1 identity (ke1Digest m.part m.round m.kem m.key)) }

theorem Port.ke2_spec (x : Port) (m : KeyMsg) (n : Nat) : (x.ke2 m n).part = x.self ∧ (x.ke2 m n).round = m.round
    ∧ (x.ke2 m n).kem = (encapsulate m.kem n).1 ∧ (x.ke2 m n).key = identity ∧ (x.ke2 m n).signature
      = signBy (ke2Digest x.self m.round (encapsulate m.kem n).1 identity (ke1Digest m.part m.round m.kem m.key)) := by
  simp only [Port.ke2, and_self]

/-- The checks of KE1 beyond its form (R45). -/
def Port.takesKe1 (x : Port) (m : KeyMsg) : Prop :=
  keySender x m = true ∧ Config.mlDsaVerify m.key (ke1Digest m.part m.round m.kem m.key) m.signature = true ∧ x.round.toNat ≤ m.round.toNat
/-- The checks of KE2 beyond its form (R45). -/
def Port.takesKe2 (x : Port) (m : KeyMsg) : Prop :=
  keySender x m = true ∧ Config.mlDsaVerify m.key (ke2Digest m.part m.round m.kem m.key x.keDigest) m.signature = true ∧ m.round = x.round

section
variable {s : State} {port : BitVec 4} {wire : List Byte} {x : Port} {m : KeyMsg} (hx : portAt s port.toNat = x)
include hx

theorem execKe1_unread (hst : x.st ≠ 0) (hle : x.partner.toNat ≤ x.self.toNat) (hgot : (keOpen x (keLen false) wire).bind (keRead false) = none) :
    execKe1 port wire s = .next (keyFail s port.toNat) := by
  have hguard : (decide (x.st = 0) || decide (x.self.toNat < x.partner.toNat)) = false := by
    rw [decide_eq_false hst, decide_eq_false (Nat.not_lt.mpr hle), Bool.or_self]
  simp only [execKe1, hx, hguard, hgot, Bool.false_eq_true, if_false]
theorem execKe1_taken (hst : x.st ≠ 0) (hle : x.partner.toNat ≤ x.self.toNat) (hgot : (keOpen x (keLen false) wire).bind (keRead false) = some m)
    (h : x.takesKe1 m) : execKe1 port wire s = .next (
      let u := keCounted s port.toNat
      loadKeys (keSend { u with freeCnt := u.freeCnt + 1 } port.toNat (KeyMsg.bytes true (x.ke2 m u.freeCnt))) port.toNat (encapsulate m.kem u.freeCnt).2 m.round) := by
  have hguard : (decide (x.st = 0) || decide (x.self.toNat < x.partner.toNat)) = false := by
    rw [decide_eq_false hst, decide_eq_false (Nat.not_lt.mpr hle), Bool.or_self]
  simp only [execKe1, hx, hguard, hgot, Bool.false_eq_true, if_false]
  obtain ⟨hsender, hverify, hround⟩ := h
  rw [if_neg (by simp [hsender, hverify, hround])]
  rfl
theorem execKe1_refused (hst : x.st ≠ 0) (hle : x.partner.toNat ≤ x.self.toNat) (hgot : (keOpen x (keLen false) wire).bind (keRead false) = some m)
    (h : ¬ x.takesKe1 m) : execKe1 port wire s = .next (keyFail (keCounted s port.toNat) port.toNat) := by
  have hguard : (decide (x.st = 0) || decide (x.self.toNat < x.partner.toNat)) = false := by
    rw [decide_eq_false hst, decide_eq_false (Nat.not_lt.mpr hle), Bool.or_self]
  simp only [execKe1, hx, hguard, hgot, Bool.false_eq_true, if_false]
  refine congrArg _ (if_pos ?_)
  by_contra hn
  simp only [Bool.or_eq_true, Bool.not_eq_true', decide_eq_true_eq, not_or, Bool.not_eq_false, not_lt] at hn
  obtain ⟨⟨hsender, hverify⟩, hround⟩ := hn
  exact h ⟨hsender, hverify, hround⟩

theorem execKe2_unread (hst : x.st ≠ 0) (hwait : x.keWait = true) (hlt : x.self.toNat < x.partner.toNat)
    (hgot : (keOpen x (keLen true) wire).bind (keRead true) = none) : execKe2 port wire s = .next (keyFail s port.toNat) := by
  have hguard : (decide (x.st = 0) || !x.keWait || decide (x.partner.toNat ≤ x.self.toNat)) = false := by
    rw [decide_eq_false hst, hwait, decide_eq_false (Nat.not_le.mpr hlt)]; rfl
  simp only [execKe2, hx, hguard, hgot, Bool.false_eq_true, if_false]
theorem execKe2_taken (hst : x.st ≠ 0) (hwait : x.keWait = true) (hlt : x.self.toNat < x.partner.toNat)
    (hgot : (keOpen x (keLen true) wire).bind (keRead true) = some m) (h : x.takesKe2 m) :
    execKe2 port wire s = .next (loadKeys (keCounted s port.toNat) port.toNat (decapsulate x.keKem m.kem) m.round) := by
  have hguard : (decide (x.st = 0) || !x.keWait || decide (x.partner.toNat ≤ x.self.toNat)) = false := by
    rw [decide_eq_false hst, hwait, decide_eq_false (Nat.not_le.mpr hlt)]; rfl
  simp only [execKe2, hx, hguard, hgot, Bool.false_eq_true, if_false]
  obtain ⟨hsender, hverify, hround⟩ := h
  rw [if_neg (by rw [hsender, hverify, bne_eq_false_iff_eq.mpr hround]; simp)]
theorem execKe2_refused (hst : x.st ≠ 0) (hwait : x.keWait = true) (hlt : x.self.toNat < x.partner.toNat)
    (hgot : (keOpen x (keLen true) wire).bind (keRead true) = some m) (h : ¬ x.takesKe2 m) :
    execKe2 port wire s = .next (keyFail (keCounted s port.toNat) port.toNat) := by
  have hguard : (decide (x.st = 0) || !x.keWait || decide (x.partner.toNat ≤ x.self.toNat)) = false := by
    rw [decide_eq_false hst, hwait, decide_eq_false (Nat.not_le.mpr hlt)]; rfl
  simp only [execKe2, hx, hguard, hgot, Bool.false_eq_true, if_false]
  refine congrArg _ (if_pos ?_)
  by_contra hn
  simp only [Bool.or_eq_true, Bool.not_eq_true', bne_iff_ne, not_or, Bool.not_eq_false, not_not] at hn
  obtain ⟨⟨hsender, hverify⟩, hround⟩ := hn
  exact h ⟨hsender, hverify, hround⟩

end

/-- A message that was taken is counted, an answer is sent, and the keys are loaded (R44, R45). -/
theorem loadKeys_answer (s : State) {port : BitVec 4} (hp : port.toNat < 12) (n c : Nat) (l secret : List Byte) (round : BitVec 32) :
    let u := keCount s port.toNat n
    let t := loadKeys (keSend { u with freeCnt := c } port.toNat l) port.toNat secret round
    KeysLoaded s t port secret round ∧ t.mem = s.mem
      ∧ ∃ out, t.lam.keOut = s.lam.keOut ++ [(port, out)] ∧ (kePlain (portAt s port.toNat) = true → out = padTo 64 l) := by
  intro u t
  obtain ⟨⟨k, hcount⟩, hmem, -, -, hout⟩ := keCount_spec s hp n
  have hu : portAt { u with freeCnt := c } port.toNat = { portAt s port.toNat with counts := k } := hcount
  obtain ⟨⟨k', hsent⟩, hmem', hout'⟩ := keSend_spec { u with freeCnt := c } hp l
  rw [hu] at hsent hout'
  obtain ⟨-, -, hmem'', hout''⟩ := loadKeys_port (keSend { u with freeCnt := c } port.toNat l) hp secret round
  refine ⟨loadKeys_loaded hp hsent secret round, hmem''.trans (hmem'.trans hmem), _, ?_,
    fun h => keWire_plain (x := { portAt s port.toNat with counts := k }) h port.toNat l⟩
  rw [hout'', hout', show ({ u with freeCnt := c } : State).lam.keOut = s.lam.keOut from hout, BitVec.ofNat_toNat, BitVec.setWidth_eq]

/-- What KE1 comes to at the higher part number (R45). -/
theorem ke1_spec (s : State) {port : BitVec 4} (wire : List Byte) (hp : port.toNat < 12) {x : Port} (hx : portAt s port.toNat = x) (hst : x.st ≠ 0)
    (hle : x.partner.toNat ≤ x.self.toNat) : ∃ t, execKe1 port wire s = .next t ∧ t.mem = s.mem
      ∧ ((keOpen x (keLen false) wire).bind (keRead false) = none → KeysFailed s t port)
      ∧ ∀ m, (keOpen x (keLen false) wire).bind (keRead false) = some m →
        (x.takesKe1 m → KeysLoaded s t port (encapsulate m.kem s.freeCnt).2 m.round ∧ ∃ out, t.lam.keOut = s.lam.keOut ++ [(port, out)]
          ∧ (kePlain x = true → out = padTo 64 (KeyMsg.bytes true (x.ke2 m s.freeCnt))))
        ∧ (¬ x.takesKe1 m → KeysFailed s t port) := by
  let n := recvKey (portAt s port.toNat) 3 (portAt s port.toNat).recvEpoch
  cases hgot : (keOpen x (keLen false) wire).bind (keRead false) with
  | none =>
    obtain ⟨hfail, hmem⟩ := keyFail_fails s hp
    exact ⟨_, execKe1_unread hx hst hle hgot, hmem, fun _ => hfail, nofun⟩
  | some m =>
    by_cases h : x.takesKe1 m
    · obtain ⟨-, -, -, hfree, -⟩ := keCount_spec s hp n
      replace hfree : (keCounted s port.toNat).freeCnt = s.freeCnt := hfree
      have hexec := execKe1_taken hx hst hle hgot h
      dsimp only at hexec
      rw [hfree] at hexec
      obtain ⟨hloaded, hmem, hout⟩ := loadKeys_answer s hp n (s.freeCnt + 1) (KeyMsg.bytes true (x.ke2 m s.freeCnt)) (encapsulate m.kem s.freeCnt).2 m.round
      rw [hx] at hout
      refine ⟨_, hexec, hmem, nofun, fun k hk => ?_⟩
      cases hk
      exact ⟨fun _ => ⟨hloaded, hout⟩, fun h' => absurd h h'⟩
    · obtain ⟨hfail, hmem⟩ := keyFail_keCount_fails s hp n
      refine ⟨_, execKe1_refused hx hst hle hgot h, hmem, nofun, fun k hk => ?_⟩
      cases hk
      exact ⟨fun h' => absurd h' h, fun _ => hfail⟩

/-- What KE2 comes to at the waiting lower part number (R45). -/
theorem ke2_spec (s : State) {port : BitVec 4} (wire : List Byte) (hp : port.toNat < 12) {x : Port} (hx : portAt s port.toNat = x) (hst : x.st ≠ 0)
    (hwait : x.keWait = true) (hlt : x.self.toNat < x.partner.toNat) : ∃ t, execKe2 port wire s = .next t ∧ t.mem = s.mem
      ∧ ((keOpen x (keLen true) wire).bind (keRead true) = none → KeysFailed s t port)
      ∧ ∀ m, (keOpen x (keLen true) wire).bind (keRead true) = some m →
        (x.takesKe2 m → KeysLoaded s t port (decapsulate x.keKem m.kem) m.round ∧ t.lam.keOut = s.lam.keOut) ∧ (¬ x.takesKe2 m → KeysFailed s t port) := by
  let n := recvKey (portAt s port.toNat) 3 (portAt s port.toNat).recvEpoch
  cases hgot : (keOpen x (keLen true) wire).bind (keRead true) with
  | none =>
    obtain ⟨hfail, hmem⟩ := keyFail_fails s hp
    exact ⟨_, execKe2_unread hx hst hwait hlt hgot, hmem, fun _ => hfail, nofun⟩
  | some m =>
    by_cases h : x.takesKe2 m
    · obtain ⟨⟨c, hcount⟩, hmem, -, -, hout⟩ := keCount_spec s hp n
      obtain ⟨-, -, hmem', hout'⟩ := loadKeys_port (keCount s port.toNat n) hp (decapsulate x.keKem m.kem) m.round
      refine ⟨_, execKe2_taken hx hst hwait hlt hgot h, hmem'.trans hmem, nofun, fun k hk => ?_⟩
      cases hk
      exact ⟨fun _ => ⟨loadKeys_loaded hp hcount _ _, hout'.trans hout⟩, fun h' => absurd h h'⟩
    · obtain ⟨hfail, hmem⟩ := keyFail_keCount_fails s hp n
      refine ⟨_, execKe2_refused hx hst hwait hlt hgot h, hmem, nofun, fun k hk => ?_⟩
      cases hk
      exact ⟨fun h' => absurd h' h, fun _ => hfail⟩

/-! ### Epochs and Thyme (R44, R52) -/

theorem execEpochSwitch_loaded {s : State} {port : BitVec 4} (hst : (portAt s port.toNat).st = 2) (h : (portAt s port.toNat).loaded = true) :
    execEpochSwitch port s = .next (updPort s port.toNat fun y => { y with epoch := ~~~y.epoch, loaded := false }) := by
  simp only [execEpochSwitch, hst, h, ne_eq, not_true, if_true, if_false]
theorem execEpochSwitch_unloaded {s : State} {port : BitVec 4} (hst : (portAt s port.toNat).st = 2) (h : (portAt s port.toNat).loaded = false)
    (hwait : (portAt s port.toNat).keWait = false) : execEpochSwitch port s = .next (startKeys s port.toNat) := by
  simp only [execEpochSwitch, hst, h, hwait, ne_eq, not_true, if_false, Bool.false_eq_true]
/-- Every 4 µs a link that is up sends Thyme (R52). -/
theorem thymeExchange_sends {s : State} {port : BitVec 4} (hp : port.toNat < 12) (hst : (portAt s port.toNat).st = 2)
    (hdue : (portAt s port.toNat).lastThyme + 4000 ≤ s.now.toNat) : ∃ t, execThymeExchange port s = .next t ∧ t.mem = s.mem
      ∧ t.lam.thymeOut = s.lam.thymeOut ++ [(port, s.now)] ∧ portAt t port.toNat = { portAt s port.toNat with lastThyme := s.now.toNat } := by
  have hport := portAt_updPort_same s (fun x => { x with lastThyme := s.now.toNat }) hp
  refine ⟨_, congrArg Host.Outcome.next (if_neg ?_), updPort_mem .., ?_, hport⟩
  · simp [hst, hdue]
  · simp
/-- A word from the reference's side: the first is taken whole, a later one brings a part that is behind forward and holds back one that is ahead (R52). -/
theorem execThymeWordReceive_led {s : State} {port : BitVec 4} {value : Word64} {delay : Nat} (hst : (portAt s port.toNat).st = 2)
    (href : s.lam.reference = false) (hlead : leadsToReference s port.toNat = true) : execThymeWordReceive port value delay s = .next (
      if s.lam.adopted = false then { s with
        clk := { s.clk with thyme := BitVec.ofNat 64 (value.toNat + delay), hold := 0 }, lam := { s.lam with adopted := true } }
      else { s with clk := if s.now.toNat < value.toNat + delay then { s.clk with thyme := BitVec.ofNat 64 (value.toNat + delay), hold := 0 }
        else { s.clk with hold := s.now.toNat - (value.toNat + delay) } }) := by
  have hguard : ((portAt s port.toNat).st ≠ 2 || s.lam.reference || !leadsToReference s port.toNat) = false := by simp [hst, href, hlead]
  simp only [execThymeWordReceive, hguard, Bool.false_eq_true, if_false, Bool.not_eq_true']
  split
  · rfl
  · split <;> rfl

/-- Settles O57: each check of a key message passes or fails the try, keys that are loaded stand on the port, and transport does not touch them. -/
theorem keysEpochsAndThyme : Obligations.KeysEpochsAndThyme := by
  unfold Obligations.KeysEpochsAndThyme
  intro s port wire hp
  refine ⟨fun hwait hdue => ?_, fun hst hle => ?_, fun hst hwait hlt => ?_, execEpochSwitch_loaded, fun hst hloaded hwait => ?_,
    thymeExchange_sends hp, fun value delay hst href hlead => ⟨fun h => ?_, fun h => ?_⟩⟩
  · obtain ⟨hfail, hmem⟩ := keyFail_fails s hp
    exact ⟨_, congrArg Host.Outcome.next (if_neg (by simp [hwait, hdue])), hmem, hfail⟩
  · obtain ⟨t, hexec, hmem, hnone, hsome⟩ := ke1_spec s wire hp rfl hst hle
    refine ⟨t, hexec, hmem, hnone, fun m hm => ?_⟩
    obtain ⟨htaken, hrefused⟩ := hsome m hm
    dsimp only
    split
    · next h =>
      obtain ⟨hloaded, out, hout, hplain⟩ := htaken h
      obtain ⟨hpart, hround, hkem, hkey, hsign⟩ := Port.ke2_spec (portAt s port.toNat) m s.freeCnt
      exact ⟨hloaded, _, out, hout, hpart, hround, hkem, hkey, hsign, hplain⟩
    · next h => exact hrefused h
  · obtain ⟨t, hexec, hmem, hnone, hsome⟩ := ke2_spec s wire hp rfl hst hwait hlt
    refine ⟨t, hexec, hmem, hnone, fun m hm => ?_⟩
    obtain ⟨htaken, hrefused⟩ := hsome m hm
    split
    · next h => exact htaken h
    · next h => exact hrefused h
  · obtain ⟨hbegun, hmem, -⟩ := startKeys_begins s hp
    exact ⟨_, execEpochSwitch_unloaded hst hloaded hwait, hmem, hbegun⟩
  · exact (execThymeWordReceive_led hst href hlead).trans (by simp [h])
  · exact (execThymeWordReceive_led hst href hlead).trans (by simp [h])

end Sys2Proof.Machine
end

section
/-! Gateways, links, ports and remote requests (02 R32 to R41, R46 to R48, R53, R136, R264; O56). -/

namespace Sys2Proof.Machine

/-! ### The record that a gateway keeps for a part (R39) -/

section
variable {α : Type} {same : α → Bool} {a : α} (l : List α)

/-- A list in which the entries of a key are replaced, or one is added, has it there. -/
theorem find?_replace_same (ha : same a = true) :
    (if l.any same = true then l.map fun q => if same q = true then a else q else l ++ [a]).find? same = some a := by
  split
  · next h =>
    induction l with
    | nil => cases h
    | cons b l ih =>
      cases hb : same b
      · simpa [hb, List.find?_cons] using ih (by simpa [hb] using h)
      · simp [hb, ha]
  · next h =>
    have hnone : l.find? same = none := by simpa using h
    rw [List.find?_append, hnone]
    simp [ha]
/-- It has what it had at another key. -/
theorem find?_replace_other {other : α → Bool} (ha : other a = false) (h : ∀ q, same q = true → other q = false) :
    (if l.any same = true then l.map fun q => if same q = true then a else q else l ++ [a]).find? other = l.find? other := by
  split
  · clear * - ha h
    induction l with
    | nil => rfl
    | cons b l ih =>
      cases hb : same b
      · simp [hb, List.find?_cons, ih]
      · simp [hb, ha, h b hb, ih]
  · simp [ha]

end

theorem outAt_congr {s t : State} (h : t.lam.outs = s.lam.outs) (gw : BitVec 6) (part : PartId) : outAt t gw part = outAt s gw part := by
  unfold outAt
  rw [h]
theorem outAt_key (s : State) (gw : BitVec 6) (part : PartId) : (outAt s gw part).gw = gw ∧ (outAt s gw part).part = part := by
  unfold outAt
  cases h : s.lam.outs.find? fun o => o.gw == gw && o.part == part with
  | none => exact ⟨rfl, rfl⟩
  | some o => simpa using List.find?_some h
theorem outAt_putOut_same (s : State) (o : GwOut) : outAt (putOut s o) o.gw o.part = o := by
  unfold outAt putOut
  dsimp only
  rw [find?_replace_same _ (by simp)]
  rfl
theorem outAt_putOut_other (s : State) (o : GwOut) {gw : BitVec 6} {part : PartId} (h : ¬ (o.gw = gw ∧ o.part = part)) :
    outAt (putOut s o) gw part = outAt s gw part := by
  unfold outAt putOut
  dsimp only
  rw [find?_replace_other]
  · simpa using h
  · rintro q hq
    simp only [Bool.and_eq_true, beq_iff_eq] at hq
    rw [hq.1, hq.2]
    simpa using h
theorem mem_putOut {s : State} {o q : GwOut} (h : q ∈ (putOut s o).lam.outs) : q = o ∨ q ∈ s.lam.outs := by
  unfold putOut at h
  dsimp only at h
  split at h
  · obtain ⟨r, hr, rfl⟩ := List.mem_map.mp h
    split
    · exact .inl rfl
    · exact .inr hr
  · exact (List.mem_append.mp h).symm.imp List.mem_singleton.mp id

/-- The packets that go next of what waits at a gateway (R39): path_seq, channel, message. -/
def GwOut.going (o : GwOut) : List (BitVec 32 × BitVec 2 × Msg) :=
  (o.waiting.take (256 - o.unacked.length)).zipIdx.map fun p => (o.next + BitVec.ofNat 32 p.2, p.1.1, p.1.2)
/-- The record once they went. -/
def GwOut.gone (o : GwOut) : GwOut :=
  { o with waiting := o.waiting.drop o.going.length, next := o.next + BitVec.ofNat 32 o.going.length, unacked := o.unacked ++ o.going }

/-- What a gateway may send leaves by its port (R35, R39). -/
theorem pump_eq (s : State) (gw : BitVec 6) (part : PartId) : pump s gw part =
    if (s.lam.outs.any fun q => q.part == part && q.held) || (portAt s (gw.toNat / 4)).st ≠ 2 then s
    else (outAt s gw part).going.foldl (fun (s : State) (p : BitVec 32 × BitVec 2 × Msg) => portSend s (gw.toNat / 4) p.1 (gw.setWidth 8) 1 p.2.1 p.2.2)
      (putOut s (outAt s gw part).gone) := rfl
theorem pump_outs (s : State) (gw : BitVec 6) (part : PartId) :
    pump s gw part = s ∨ (pump s gw part).lam.outs = (putOut s (outAt s gw part).gone).lam.outs := by
  rw [pump_eq]
  split
  · exact .inl rfl
  · exact .inr (foldl_feeds (fun _ _ => portSend_feeds ..) _ _).outs
theorem outAt_pump (s : State) (gw : BitVec 6) (part : PartId) :
    outAt (pump s gw part) gw part = outAt s gw part ∨ outAt (pump s gw part) gw part = (outAt s gw part).gone := by
  refine (pump_outs s gw part).imp (fun h => by rw [h]) fun h => ?_
  obtain ⟨hgw, hpart⟩ := outAt_key s gw part
  have hput := outAt_putOut_same s (outAt s gw part).gone
  rw [show (outAt s gw part).gone.gw = gw from hgw, show (outAt s gw part).gone.part = part from hpart] at hput
  rw [outAt_congr h, hput]
theorem outAt_pump_other (s : State) {gw gw' : BitVec 6} {part part' : PartId} (h : ¬ (gw' = gw ∧ part' = part)) :
    outAt (pump s gw' part') gw part = outAt s gw part := by
  obtain hid | houts := pump_outs s gw' part'
  · rw [hid]
  · obtain ⟨hgw, hpart⟩ := outAt_key s gw' part'
    rw [outAt_congr houts]
    refine outAt_putOut_other s _ ?_
    rwa [show (outAt s gw' part').gone.gw = gw' from hgw, show (outAt s gw' part').gone.part = part' from hpart]
/-- Nothing waits, nothing goes. -/
theorem GwOut.gone_of_waiting {o : GwOut} (h : o.waiting = []) : o.gone = o := by
  cases o
  subst h
  simp [GwOut.gone, GwOut.going]
/-- Sending does not end a hold (R35). -/
theorem pump_held (s : State) (gw gw' : BitVec 6) (part part' : PartId) :
    (outAt (pump s gw' part') gw part).held = (outAt s gw part).held := by
  by_cases h : gw' = gw ∧ part' = part
  · obtain ⟨rfl, rfl⟩ := h
    obtain h | h := outAt_pump s gw' part' <;> rw [h]
    rfl
  · rw [outAt_pump_other s h]
theorem pumpPart_held (s : State) (gw : BitVec 6) (part part' : PartId) : (outAt (pumpPart s part') gw part).held = (outAt s gw part).held :=
  foldl_rel (R := fun s t => (outAt t gw part).held = (outAt s gw part).held) (fun _ => rfl) (fun h g => g.trans h)
    (fun _ _ => pump_held ..) _ s

/-! ### A packet that leaves at once (R36, R39, R46) -/

/-- The header of a packet is the one formed for it (R38). -/
theorem head_packetOf (y : Port) (port : BitVec 4) (pathSeq : BitVec 32) (srcGw hops : BitVec 8) (vc : BitVec 2) (m : Msg) :
    Packet.head (packetOf y port pathSeq srcGw hops vc m) = headOf y pathSeq srcGw hops vc m :=
  (packetOf_spec { y with self := y.partner, partner := y.self, partnerPort := port } y port pathSeq srcGw hops vc m rfl rfl rfl).1

/-- A message handed to a port that runs, with room in its channel and nothing before it, leaves (R36). -/
theorem portSend_now {s : State} {p : Nat} {vc : BitVec 2} (hst : (portAt s p).st = 2) (hqueue : (portAt s p).queue = [])
    (hcredit : (portAt s p).credit vc = true) (n : BitVec 32) (g h : BitVec 8) (m : Msg) :
    portSend s p n g h vc m = transmit s p { vc := vc, pathSeq := n, srcGw := g, hops := h, msg := m } := by
  have hp : p < 12 := lt_of_portAt_st (by rw [hst]; decide)
  let q : Queued := { vc := vc, pathSeq := n, srcGw := g, hops := h, msg := m }
  have hport : portAt (updPort s p fun x => { x with queue := x.queue ++ [q] }) p = { portAt s p with queue := [q] } := by
    rw [portAt_updPort_same s _ hp, hqueue]; rfl
  have hback : updPort (updPort s p fun x => { x with queue := x.queue ++ [q] }) p (fun x => { x with queue := x.queue.erase q }) = s := by
    rw [updPort_updPort]
    refine updPort_fixed ?_
    rw [hqueue]
    simp only [List.nil_append, List.erase_cons_head]
    rw [← hqueue]
  have hfind : [q].find? (fun r => r.vc == vc) = some q := by simp [q]
  have hcredit' : ({ portAt s p with queue := [q] } : Port).credit vc = true := hcredit
  unfold portSend
  rw [hqueue]
  simp only [List.length_nil, portPump]
  rw [hport]
  dsimp only
  rw [hfind]
  dsimp only
  rw [hback]
  exact if_neg (by simpa [hst] using hcredit')

theorem transmit_spec (s : State) {p : Nat} (hp : p < 12) (q : Queued) :
    let k := packetOf (portAt s p) (BitVec.ofNat 4 p) q.pathSeq q.srcGw q.hops q.vc q.msg
    (transmit s p q).lam.sent = s.lam.sent ++ [(BitVec.ofNat 4 p, k)] ∧ (portAt (transmit s p q) p).retry = (portAt s p).retry ++ [k]
      ∧ (portAt (transmit s p q) p).sendSeq = (portAt s p).sendSeq + 1 := by
  intro k
  have hport := portAt_updPort_same s (fun x => { x with
    sendSeq := x.sendSeq + 1, retry := x.retry ++ [k],
    counts := if modeOf x q.vc = 0 then x.counts else x.counts.put (sendKey (portAt s p) q.vc (portAt s p).epoch)
      (x.count (sendKey (portAt s p) q.vc (portAt s p).epoch) + 1) }) hp
  exact ⟨congrArg (· ++ [_]) (updPort_sent ..), congrArg Port.retry hport, congrArg Port.sendSeq hport⟩

theorem portsOf_lt {set : BitVec 12} {p : Nat} (h : p ∈ portsOf set) : p < 12 := List.mem_range.mp (List.mem_of_mem_filter h)
theorem getD_mod_lt {l : List Nat} (hl : ∀ p ∈ l, p < 12) (h : Nat) : l.getD (h % l.length) 0 < 12 := by
  by_cases hlt : h % l.length < l.length
  · rw [List.getD_eq_getElem _ _ hlt]
    exact hl _ (List.getElem_mem hlt)
  · rw [List.getD_eq_default _ _ (Nat.le_of_not_lt hlt)]
    decide
/-- A gateway is one of 48, four to a port (R33). -/
theorem gatewayOf_lt {s : State} {m : Msg} {g : Nat} (h : gatewayOf s m = some g) : g < 48 := by
  have hbits : bitsOf (pathHash (pathLine m)) 7 6 < 4 := Nat.mod_lt _ (by decide)
  have hlt (l : List Nat) (hl : ∀ p ∈ l, p < 12) (h : (if l = [] then none
      else some (4 * l.getD (pathHash (pathLine m) % l.length) 0 + bitsOf (pathHash (pathLine m)) 7 6)) = some g) : g < 48 := by
    have := getD_mod_lt hl (pathHash (pathLine m))
    split at h
    · cases h
    · have := Option.some.inj h
      omega
  refine hlt _ ?_ h
  split
  · exact fun p => List.mem_range.mp
  · exact fun p => portsOf_lt

end Sys2Proof.Machine
end

section
/-! Packets that a gateway sends and a port takes (02 R35, R38 to R40, R46, R53; O56). -/

namespace Sys2Proof.Machine

/-! ### A message at its gateway (R39, R136) -/

theorem gatewayChecked_of_ok {m : Msg} (h : Msg.residueOk m = true) : gatewayChecked m = m := if_pos (by rw [h]; rfl)
theorem gatewayCount_of_ok {m : Msg} (h : Msg.residueOk m = true) (s : State) (c : CoreId) : gatewayCount s c m = s := if_pos h

/-- A sound message at its gateway is accepted there, or goes out (R39, R136). -/
theorem execLamconPacketSend_atGateway {s : State} {id g : Nat} {f : Flight} (hf : flightOf s id = some f) (hhost : f.host = false)
    (hfor : forGateway s f.msg = true) (hg : gatewayOf s f.msg = some g) (hx : f.x = meshX (Config.gatewayCore g)) (hy : f.y = meshY (Config.gatewayCore g))
    (hhead : Msg.headerOk f.msg = true) (hnet : Msg.netOk f.msg = true) (hres : Msg.residueOk f.msg = true) (hblocked : blockedBy s f none = false) :
    execLamconPacketSend id s = .next (if f.msg.dstPart = s.part then acceptRequest (dropFlight s id) (Config.gatewayCore g) f.msg
      else gwSend (dropFlight s id) g f.msg) := by
  simp only [execLamconPacketSend, hf, hhost, hfor, hg, hx, hy, hhead, hnet, hblocked, gatewayCount_of_ok hres, gatewayChecked_of_ok hres, ne_eq, not_true,
    Bool.not_true, Bool.or_self, Bool.false_eq_true, or_self, if_false]
  rfl

/-- The packet that leaves where one message alone waits at a gateway (R39). -/
theorem GwOut.going_single {o : GwOut} {vc : BitVec 2} {m : Msg} (hwait : o.waiting = []) (hroom : o.unacked.length < 256) :
    ({ o with waiting := o.waiting ++ [(vc, m)] } : GwOut).going = [(o.next, vc, m)]
      ∧ ({ o with waiting := o.waiting ++ [(vc, m)] } : GwOut).gone
        = { o with waiting := [], next := o.next + 1, unacked := o.unacked ++ [(o.next, vc, m)] } := by
  have hgoing : ({ o with waiting := o.waiting ++ [(vc, m)] } : GwOut).going = [(o.next, vc, m)] := by
    have htake : [(vc, m)].take (256 - o.unacked.length) = [(vc, m)] := List.take_of_length_le (by simp; omega)
    simp [GwOut.going, hwait, htake]
  refine ⟨hgoing, ?_⟩
  rw [GwOut.gone, hgoing]
  simp [hwait]

/-- A message for another part goes at once where nothing is before it at its gateway or on its port (R35, R36, R39). -/
theorem gwSend_now {s : State} {g : Nat} {m : Msg} (hg : g < 48) {o : GwOut} (ho : outAt s (BitVec.ofNat 6 g) m.dstPart = o)
    (hwait : o.waiting = []) (hroom : o.unacked.length < 256) (hfree : ∀ q ∈ s.lam.outs, q.part = m.dstPart → q.held = false) (hheld : o.held = false)
    (hst : (portAt s (g / 4)).st = 2) (hqueue : (portAt s (g / 4)).queue = []) (hcredit : (portAt s (g / 4)).credit (channelOf s m) = true) :
    ∃ u, gwSend s g m = transmit u (g / 4) { vc := channelOf s m, pathSeq := o.next, srcGw := BitVec.ofNat 8 g, hops := 1, msg := m }
      ∧ { u with lam := { u.lam with outs := s.lam.outs } } = s
      ∧ outAt u (BitVec.ofNat 6 g) m.dstPart = { o with waiting := [], next := o.next + 1, unacked := o.unacked ++ [(o.next, channelOf s m, m)] } := by
  obtain ⟨hgw, hpart⟩ := outAt_key s (BitVec.ofNat 6 g) m.dstPart
  rw [ho] at hgw hpart
  obtain ⟨hgoing, hgone⟩ := GwOut.going_single (m := m) (vc := channelOf s m) hwait hroom
  have hport : (BitVec.ofNat 6 g).toNat = g := by rw [BitVec.toNat_ofNat]; omega
  have hsrc : (BitVec.ofNat 6 g).setWidth 8 = BitVec.ofNat 8 g := by
    refine BitVec.eq_of_toNat_eq ?_
    rw [BitVec.toNat_setWidth, hport, BitVec.toNat_ofNat]
  let o1 : GwOut := { o with waiting := o.waiting ++ [(channelOf s m, m)] }
  let v := putOut s o1
  have hout : outAt v (BitVec.ofNat 6 g) m.dstPart = o1 := by
    have h := outAt_putOut_same s o1
    rwa [show o1.gw = BitVec.ofNat 6 g from hgw, show o1.part = m.dstPart from hpart] at h
  have hnone : (v.lam.outs.any fun q => q.part == m.dstPart && q.held) = false := by
    simp only [List.any_eq_false, Bool.and_eq_true, beq_iff_eq, not_and, Bool.not_eq_true]
    intro q hq hqpart
    obtain rfl | hmem := mem_putOut hq
    · exact hheld
    · exact hfree q hmem hqpart
  have hgo : gwSend s g m = portSend (putOut v o1.gone) (g / 4) o.next (BitVec.ofNat 8 g) 1 (channelOf s m) m := by
    have h := pump_eq v (BitVec.ofNat 6 g) m.dstPart
    rw [hout, hnone, hport, hgoing, hsrc] at h
    subst ho
    have hst' : (portAt v (g / 4)).st = 2 := hst
    exact h.trans (if_neg (by simp [hst']))
  have hsame : portAt (putOut v o1.gone) (g / 4) = portAt s (g / 4) := rfl
  refine ⟨putOut v o1.gone, hgo.trans ?_, rfl, ?_⟩
  · exact portSend_now (by rwa [hsame]) (by rwa [hsame]) (by rwa [hsame]) ..
  rw [← hgone]
  have h := outAt_putOut_same v o1.gone
  rwa [show o1.gone.gw = BitVec.ofNat 6 g from hgw, show o1.gone.part = m.dstPart from hpart] at h

/-- What left stands in the retry buffer of its port and among the unacknowledged packets of its gateway (R38, R39, R46). -/
theorem gwSend_sends {s : State} {g : Nat} {m : Msg} (hg : g < 48) {o : GwOut} {x : Port} (ho : outAt s (BitVec.ofNat 6 g) m.dstPart = o)
    (hx : portAt s (g / 4) = x) (hwait : o.waiting = []) (hroom : o.unacked.length < 256)
    (hfree : ∀ q ∈ s.lam.outs, q.part = m.dstPart → q.held = false) (hheld : o.held = false) (hst : x.st = 2) (hqueue : x.queue = [])
    (hcredit : x.credit (channelOf s m) = true) :
    let t := gwSend s g m
    let k := packetOf x (BitVec.ofNat 4 (g / 4)) o.next (BitVec.ofNat 8 g) 1 (channelOf s m) m
    t.mem = s.mem ∧ t.mesh = s.mesh ∧ t.lam.sent = s.lam.sent ++ [(BitVec.ofNat 4 (g / 4), k)]
      ∧ (portAt t (g / 4)).retry = x.retry ++ [k] ∧ (portAt t (g / 4)).sendSeq = x.sendSeq + 1
      ∧ outAt t (BitVec.ofNat 6 g) m.dstPart
        = { o with waiting := [], next := o.next + 1, unacked := o.unacked ++ [(o.next, channelOf s m, m)] } := by
  subst hx
  intro t k
  obtain ⟨u, hgo, hrest, hout⟩ := gwSend_now hg ho hwait hroom hfree hheld hst hqueue hcredit
  have hmem : u.mem = s.mem := (congrArg State.mem hrest :)
  have hmesh : u.mesh = s.mesh := (congrArg State.mesh hrest :)
  have hsent : u.lam.sent = s.lam.sent := (congrArg (fun v : State => v.lam.sent) hrest :)
  have hport : portAt u (g / 4) = portAt s (g / 4) := (congrArg (fun v : State => portAt v (g / 4)) hrest :)
  have hfeeds := transmit_feeds u (g / 4) { vc := channelOf s m, pathSeq := o.next, srcGw := BitVec.ofNat 8 g, hops := 1, msg := m }
  obtain ⟨htsent, htretry, htseq⟩ := transmit_spec u (p := g / 4) (by omega)
    { vc := channelOf s m, pathSeq := o.next, srcGw := BitVec.ofNat 8 g, hops := 1, msg := m }
  rw [← hgo] at hfeeds htsent htretry htseq
  rw [hport] at htsent htretry htseq
  exact ⟨hfeeds.mem.trans hmem, hfeeds.mesh.trans hmesh, hsent ▸ htsent, htretry, htseq, (outAt_congr hfeeds.outs ..).trans hout⟩

end Sys2Proof.Machine
end

section
/-! Packets that a port takes (02 R35, R38 to R40, R46, R53; O56). -/

namespace Sys2Proof.Machine

/-! ### The record that a part keeps for a source gateway (R39) -/

theorem inAt_congr {s t : State} (h : t.lam.ins = s.lam.ins) (part : PartId) (gw : BitVec 8) : inAt t part gw = inAt s part gw := by
  unfold inAt
  rw [h]
theorem inAt_key (s : State) (part : PartId) (gw : BitVec 8) : (inAt s part gw).part = part ∧ (inAt s part gw).gw = gw := by
  unfold inAt
  cases h : s.lam.ins.find? fun o => o.part == part && o.gw == gw with
  | none => exact ⟨rfl, rfl⟩
  | some o => simpa using List.find?_some h
theorem inAt_putIn_same (s : State) (o : GwIn) : inAt (putIn s o) o.part o.gw = o := by
  unfold inAt putIn
  dsimp only
  rw [find?_replace_same _ (by simp)]
  rfl

/-- The base moves by at most n, and where it does not move, nothing that is marked is dropped. -/
theorem advanceBase_base (n : Nat) (b : BitVec 32) (l : List (BitVec 32)) :
    ∃ k, k ≤ n ∧ (advanceBase n b l).1 = b + BitVec.ofNat 32 k ∧ (k = 0 → (advanceBase n b l).2 = l) := by
  induction n generalizing b l with
  | zero => exact ⟨0, le_refl 0, by simp [advanceBase], fun _ => rfl⟩
  | succ n ih =>
    unfold advanceBase
    split
    · obtain ⟨k, hk, hbase, -⟩ := ih (b + 1) (l.filter (· != b))
      refine ⟨k + 1, by omega, ?_, fun h => by omega⟩
      rw [hbase, BitVec.ofNat_add, BitVec.add_assoc, BitVec.add_comm (1 : BitVec 32)]
      rfl
    · exact ⟨0, Nat.zero_le _, by simp, fun _ => rfl⟩
/-- A value that is accepted is marked, or the base has moved past it (R39). -/
theorem GwIn.accept_marks (o : GwIn) (q : BitVec 32) : q ∈ (o.accept q).accepted ∨ (o.accept q).base ≠ o.base := by
  obtain ⟨k, hk, hbase, hkeep⟩ := advanceBase_base 256 o.base (q :: o.accepted)
  by_cases h : k = 0
  · refine .inl (?_ : q ∈ (advanceBase 256 o.base (q :: o.accepted)).2)
    rw [hkeep h]
    exact List.mem_cons_self
  · refine .inr fun heq => h ?_
    have hzero : o.base + BitVec.ofNat 32 k = o.base := hbase.symm.trans heq
    have hk0 : BitVec.ofNat 32 k = 0#32 := by simpa using hzero
    have := congrArg BitVec.toNat hk0
    simp only [BitVec.toNat_ofNat] at this
    omega

/-! ### The port's part (R38, R44, R46) -/

/-- The port keeps a packet's link header for a management read. -/
def captureHead (s : State) (p : Nat) (k : Packet) : State := updPort s p fun x => { x with captured := fit 16 k.bytes }
/-- A packet in link order is taken and acknowledged: the port's record of it, given the port before. -/
def Port.taking (x : Port) (h : LinkHead) (y : Port) : Port :=
  { y with
    recvSeq := y.recvSeq + 1
    counts := if h.mode != 0 then y.counts.put (recvKey x h.vc h.epoch) (y.count (recvKey x h.vc h.epoch) + 1) else y.counts
    recvEpoch := if h.mode != 0 then h.epoch else y.recvEpoch, recvNew := y.recvNew && (!(h.mode != 0) || h.epoch == y.recvEpoch) }
/-- The state then. -/
def received (s : State) (port : BitVec 4) (k : Packet) : State :=
  ackLink (updPort (captureHead s port.toNat k) port.toNat ((portAt s port.toNat).taking (Packet.head k))) port (Packet.head k).linkSeq
theorem received_part (s : State) (port : BitVec 4) (k : Packet) : (received s port k).part = s.part := (updPort_part ..).trans (updPort_part ..)

section
variable {s : State} {port : BitVec 4} {k : Packet} (hst : (portAt s port.toNat).st = 2) (hmode3 : (Packet.head k).mode ≠ 3)
  (hmode : (Packet.head k).mode = modeOf (portAt s port.toNat) (Packet.head k).vc)
include hst hmode3 hmode

/-- A packet that fails its check is not acknowledged (R46). -/
theorem execReceive_failed (hbad : Packet.intact k (portAt s port.toNat) = false)
    (hnew : (Packet.head k).mode = 0 ∨ ((Packet.head k).linkSeq - (portAt s port.toNat).recvSeq).toNat < 2048) :
    execLamconPacketReceive port k s = .next (updPort (captureHead s port.toNat k) port.toNat fun x =>
      { x with tagFail := x.tagFail || (Packet.head k).mode != 0 }) := by
  have hfresh : ((Packet.head k).mode != 0 && decide (2048 ≤ ((Packet.head k).linkSeq - (portAt s port.toNat).recvSeq).toNat)) = false := by
    obtain h | h := hnew
    · rw [h]; rfl
    · rw [decide_eq_false (Nat.not_le.mpr h), Bool.and_false]
  simp only [execLamconPacketReceive, hst, hmode3, ← hmode, hfresh, hbad, ne_eq, not_true, or_self, Bool.not_false, Bool.or_true, Bool.false_eq_true,
    if_true, if_false]
  rfl
/-- One that is behind the link's order was taken before, and is acknowledged again (R46). -/
theorem execReceive_old {m : Msg} (hok : Packet.intact k (portAt s port.toNat) = true)
    (hepoch : (Packet.head k).mode = 0 ∨ (Packet.head k).epoch = (portAt s port.toNat).recvEpoch) (hm : Packet.message k (portAt s port.toNat) = some m)
    (hold : 2048 ≤ ((Packet.head k).linkSeq - (portAt s port.toNat).recvSeq).toNat) :
    execLamconPacketReceive port k s = .next (ackLink (captureHead s port.toNat k) port (Packet.head k).linkSeq) := by
  have hknown : (!(Packet.head k).mode != 0 || (Packet.head k).epoch == (portAt s port.toNat).recvEpoch || (portAt s port.toNat).recvNew) = true := by
    obtain h | h := hepoch <;> simp [h]
  have hne : ((Packet.head k).linkSeq - (portAt s port.toNat).recvSeq).toNat ≠ 0 := by omega
  simp only [execLamconPacketReceive, hst, hmode3, ← hmode, hok, hm, hknown, hold, hne, if_true, ite_self, ne_eq, not_true, not_false_eq_true,
    or_self, Bool.not_true, Bool.or_self, Bool.false_eq_true, if_false, decide_true, Bool.and_true]
  rfl
/-- One in order is taken (R39, R46). -/
theorem execReceive_taken {m : Msg} (hok : Packet.intact k (portAt s port.toNat) = true)
    (hepoch : (Packet.head k).mode = 0 ∨ (Packet.head k).epoch = (portAt s port.toNat).recvEpoch) (hm : Packet.message k (portAt s port.toNat) = some m)
    (hnext : ((Packet.head k).linkSeq - (portAt s port.toNat).recvSeq).toNat = 0) :
    execLamconPacketReceive port k s = .next (if m.dstPart = s.part then receiveOwn (received s port k) port.toNat (Packet.head k) m
      else forwardPacket (received s port k) port.toNat (Packet.head k) m) := by
  have hknown : (!(Packet.head k).mode != 0 || (Packet.head k).epoch == (portAt s port.toNat).recvEpoch || (portAt s port.toNat).recvNew) = true := by
    obtain h | h := hepoch <;> simp [h]
  simp only [execLamconPacketReceive, hst, hmode3, ← hmode, hnext, hok, hm, hknown, ne_eq, not_true, or_self, Bool.not_true, Bool.or_self, Bool.false_eq_true,
    if_false, Nat.reduceLeDiff, decide_false, Bool.and_false]
  rw [← received_part s port k]
  rfl

end
theorem updPort_rest (s : State) (p : Nat) (f : Port → Port) : { updPort s p f with lam := { (updPort s p f).lam with ports := s.lam.ports } } = s := by
  unfold updPort
  split <;> rfl
/-- A port that took a packet sends as before: only what it keeps of its receipt differs. -/
def Port.Takes (x y : Port) : Prop :=
  { y with captured := x.captured, recvSeq := x.recvSeq, counts := x.counts, recvEpoch := x.recvEpoch, recvNew := x.recvNew } = x

theorem received_eq (s : State) (port : BitVec 4) (k : Packet) : received s port k = ackLink (updPort s port.toNat fun x =>
    (portAt s port.toNat).taking (Packet.head k) { x with captured := fit 16 k.bytes }) port (Packet.head k).linkSeq := by
  rw [received, captureHead, updPort_updPort]
theorem received_ports (s : State) (port : BitVec 4) (k : Packet) (q : Nat) : Port.Takes (portAt s q) (portAt (received s port k) q) := by
  rw [received_eq]
  change Port.Takes _ (portAt (updPort s port.toNat _) q)
  by_cases hq : port.toNat = q
  · subst hq
    by_cases hp : port.toNat < 12
    · rw [portAt_updPort_same s _ hp]
      rfl
    · rw [updPort_of_le s (by omega)]
      rfl
  · rw [portAt_updPort_other s _ hq]
    rfl
theorem received_recvSeq {s : State} {port : BitVec 4} {k : Packet} (hp : port.toNat < 12)
    (hnext : ((Packet.head k).linkSeq - (portAt s port.toNat).recvSeq).toNat = 0) :
    (portAt (received s port k) port.toNat).recvSeq = (Packet.head k).linkSeq + 1 := by
  have hseq : (Packet.head k).linkSeq = (portAt s port.toNat).recvSeq := by bv_omega
  rw [received_eq]
  change (portAt (updPort s port.toNat _) port.toNat).recvSeq = _
  rw [portAt_updPort_same s _ hp, hseq]
  rfl
/-- Ports and the acknowledgement aside, nothing has changed. -/
theorem received_rest (s : State) (port : BitVec 4) (k : Packet) :
    { received s port k with lam := { (received s port k).lam with ports := s.lam.ports, acks := s.lam.acks } } = s := by
  rw [received_eq]
  exact (congrArg (fun v : State => { v with lam := { v.lam with acks := s.lam.acks } }) (updPort_rest s port.toNat _) :)
theorem received_acks (s : State) (port : BitVec 4) (k : Packet) :
    (received s port k).lam.acks = s.lam.acks ++ [(port, (Packet.head k).linkSeq)] := by
  rw [received_eq]
  exact (congrArg (fun v : State => v.lam.acks ++ [(port, (Packet.head k).linkSeq)]) (updPort_rest s port.toNat _) :)

/-! ### The message of a packet (R38, R40, R53) -/

/-- A message of a kind that travels on as it is goes on the mesh; firmware may note the part that it came from (R40). -/
theorem enterPart_flies {m : Msg} (hkind : m.kind.toNat ∈ [3, 4, 6, 7, 9, 10]) (hhead : Msg.headerOk m = true) (hnet : Msg.netOk m = true)
    (hres : Msg.residueOk m = true) (s : State) (p : Nat) : ∃ fw, enterPart s p m = putFlight { s with fw := fw } (portGateway p m) m false := by
  have hnum : m.kind.toNat < 12 ∧ m.kind ≠ 11 ∧ ¬ (m.kind.toNat ≤ 2 ∨ m.kind = 5) := by
    revert hkind
    generalize m.kind = kind
    revert kind
    decide
  obtain ⟨hlt, hbuiltin, hroute⟩ := hnum
  have hgo : enterPart s p m = putFlight (if m.kind = 10 then s else notePart s m.job m.srcPart) (portGateway p m) m false := by
    simp only [enterPart, hhead, hnet, gatewayCount_of_ok hres, gatewayChecked_of_ok hres, hbuiltin, hroute, Nat.not_le.mpr hlt, Bool.not_true, Bool.or_self,
      Bool.false_eq_true, false_and, if_false]
  rw [hgo]
  split
  · exact ⟨s.fw, rfl⟩
  · exact ⟨_, rfl⟩

theorem receiveOwn_known {u : State} {n : Nat} {h : LinkHead} {m : Msg} (hin : (h.pathSeq - (inAt u m.srcPart h.srcGw).base).toNat < 256)
    (hknown : (inAt u m.srcPart h.srcGw).accepted.contains h.pathSeq = true) : receiveOwn u n h m = ackEnd u m.srcPart h.srcGw h.pathSeq := by
  simp only [receiveOwn, Nat.not_le.mpr hin, hknown, if_true, if_false]
theorem receiveOwn_new {u : State} {n : Nat} {h : LinkHead} {m : Msg} (hin : (h.pathSeq - (inAt u m.srcPart h.srcGw).base).toNat < 256)
    (hnew : (inAt u m.srcPart h.srcGw).accepted.contains h.pathSeq = false) : receiveOwn u n h m
      = enterPart (ackEnd (putIn u ((inAt u m.srcPart h.srcGw).accept h.pathSeq)) m.srcPart h.srcGw h.pathSeq) n m := by
  simp only [receiveOwn, Nat.not_le.mpr hin, hnew, Bool.false_eq_true, if_false]

/-- A message that is accepted is marked and goes on the mesh at the gateway of its port (R39, R40). -/
theorem receiveOwn_flies {u : State} {n : Nat} {h : LinkHead} {m : Msg} (hin : (h.pathSeq - (inAt u m.srcPart h.srcGw).base).toNat < 256)
    (hnew : (inAt u m.srcPart h.srcGw).accepted.contains h.pathSeq = false) (hkind : m.kind.toNat ∈ [3, 4, 6, 7, 9, 10])
    (hhead : Msg.headerOk m = true) (hnet : Msg.netOk m = true) (hres : Msg.residueOk m = true) :
    let t := receiveOwn u n h m
    t.mem = u.mem ∧ t.lam.ports = u.lam.ports ∧ t.lam.acks = u.lam.acks ∧ t.lam.ends = u.lam.ends ++ [(m.srcPart, h.srcGw, h.pathSeq)]
      ∧ Sent u t u.mesh.flights (portGateway n m) m
      ∧ (h.pathSeq ∈ (inAt t m.srcPart h.srcGw).accepted ∨ (inAt t m.srcPart h.srcGw).base ≠ (inAt u m.srcPart h.srcGw).base) := by
  intro t
  let o := inAt u m.srcPart h.srcGw
  obtain ⟨hpart, hgw⟩ := inAt_key u m.srcPart h.srcGw
  obtain ⟨fw, hgo⟩ := enterPart_flies hkind hhead hnet hres (ackEnd (putIn u (o.accept h.pathSeq)) m.srcPart h.srcGw h.pathSeq) n
  have ht : t = _ := (receiveOwn_new hin hnew).trans hgo
  have hins : t.lam.ins = (putIn u (o.accept h.pathSeq)).lam.ins := by rw [ht]; rfl
  have hin' : inAt t m.srcPart h.srcGw = o.accept h.pathSeq := by
    have hput := inAt_putIn_same u (o.accept h.pathSeq)
    rw [show (o.accept h.pathSeq).part = m.srcPart from hpart, show (o.accept h.pathSeq).gw = h.srcGw from hgw] at hput
    rw [inAt_congr hins, hput]
  rw [hin', ht]
  exact ⟨rfl, rfl, rfl, rfl, ⟨_, rfl, rfl, rfl, rfl, rfl, rfl, rfl⟩, o.accept_marks h.pathSeq⟩

theorem gatewayOf_congr {s t : State} (hpart : t.part = s.part) (hsets : t.lam.sets = s.lam.sets) (m : Msg) : gatewayOf t m = gatewayOf s m := by
  unfold gatewayOf
  rw [hpart, hsets]
/-- A packet for another part goes out again with one hop more (R32, R53). -/
theorem forwardPacket_now {u : State} {n g : Nat} {h : LinkHead} {m : Msg} (hhops : h.hops.toNat < 12) (hg : gatewayOf u m = some g)
    (hst : (portAt u (g / 4)).st = 2) (hqueue : (portAt u (g / 4)).queue = []) (hcredit : (portAt u (g / 4)).credit h.vc = true) :
    forwardPacket u n h m = transmit u (g / 4) { vc := h.vc, pathSeq := h.pathSeq, srcGw := h.srcGw, hops := h.hops + 1, msg := m } := by
  have hnext : ¬ 13 ≤ (h.hops + 1).toNat := by
    rw [BitVec.toNat_add]
    simp
    omega
  simp only [forwardPacket, hnext, hg, if_false]
  exact portSend_now hst hqueue hcredit ..

theorem portAt_congr {s t : State} (h : t.lam.ports = s.lam.ports) (p : Nat) : portAt t p = portAt s p := by
  unfold portAt
  rw [h]

/-! ### A packet in link order, whole (R38 to R40, R46) -/

/-- A packet was taken in link order and acknowledged, and memory stays (R46). -/
def Taken (s t : State) (port : BitVec 4) (k : Packet) : Prop :=
  t.mem = s.mem ∧ (portAt t port.toNat).recvSeq = (Packet.head k).linkSeq + 1 ∧ t.lam.acks = s.lam.acks ++ [(port, (Packet.head k).linkSeq)]

theorem received_taken {s : State} {port : BitVec 4} {k : Packet} (hp : port.toNat < 12)
    (hnext : ((Packet.head k).linkSeq - (portAt s port.toNat).recvSeq).toNat = 0) : Taken s (received s port k) port k :=
  ⟨(congrArg State.mem (received_rest s port k) :), received_recvSeq hp hnext, received_acks s port k⟩
theorem Taken.next {s u t : State} {port : BitVec 4} {k : Packet} (h : Taken s u port k) (hmem : t.mem = u.mem)
    (hseq : (portAt t port.toNat).recvSeq = (portAt u port.toNat).recvSeq) (hacks : t.lam.acks = u.lam.acks) : Taken s t port k := by
  obtain ⟨hmem', hseq', hacks'⟩ := h
  exact ⟨hmem.trans hmem', hseq.trans hseq', hacks.trans hacks'⟩

section
variable {s : State} {port : BitVec 4} {k : Packet} {m : Msg} (hst : (portAt s port.toNat).st = 2) (hmode3 : (Packet.head k).mode ≠ 3)
  (hmode : (Packet.head k).mode = modeOf (portAt s port.toNat) (Packet.head k).vc) (hok : Packet.intact k (portAt s port.toNat) = true)
  (hepoch : (Packet.head k).mode = 0 ∨ (Packet.head k).epoch = (portAt s port.toNat).recvEpoch) (hm : Packet.message k (portAt s port.toNat) = some m)
  (hnext : ((Packet.head k).linkSeq - (portAt s port.toNat).recvSeq).toNat = 0)
include hst hmode3 hmode hok hepoch hm hnext

theorem execReceive_own (hown : m.dstPart = s.part) :
    execLamconPacketReceive port k s = .next (receiveOwn (received s port k) port.toNat (Packet.head k) m) := by
  rw [execReceive_taken hst hmode3 hmode hok hepoch hm hnext, if_pos hown]

/-- One that was accepted before is acknowledged, no more (R39). -/
theorem execReceive_known (hown : m.dstPart = s.part)
    (hin : ((Packet.head k).pathSeq - (inAt s m.srcPart (Packet.head k).srcGw).base).toNat < 256)
    (hknown : (inAt s m.srcPart (Packet.head k).srcGw).accepted.contains (Packet.head k).pathSeq = true) :
    ∃ t, execLamconPacketReceive port k s = .next t ∧ Taken s t port k ∧ t.mesh = s.mesh
      ∧ t.lam.ends = s.lam.ends ++ [(m.srcPart, (Packet.head k).srcGw, (Packet.head k).pathSeq)] := by
  have hp : port.toNat < 12 := lt_of_portAt_st (by rw [hst]; decide)
  have hrest := received_rest s port k
  have hins : (received s port k).lam.ins = s.lam.ins := (congrArg (fun v : State => v.lam.ins) hrest :)
  rw [← inAt_congr hins] at hin hknown
  refine ⟨_, (execReceive_own hst hmode3 hmode hok hepoch hm hnext hown).trans (congrArg _ (receiveOwn_known hin hknown)), ?_, ?_, ?_⟩
  · exact (received_taken hp hnext).next rfl rfl rfl
  · exact (congrArg State.mesh hrest :)
  · exact (congrArg (fun v : State => v.lam.ends ++ [(m.srcPart, (Packet.head k).srcGw, (Packet.head k).pathSeq)]) hrest :)

/-- One that is new is marked and goes on the mesh (R39, R40). -/
theorem execReceive_new (hown : m.dstPart = s.part)
    (hin : ((Packet.head k).pathSeq - (inAt s m.srcPart (Packet.head k).srcGw).base).toNat < 256)
    (hnew : (inAt s m.srcPart (Packet.head k).srcGw).accepted.contains (Packet.head k).pathSeq = false) (hkind : m.kind.toNat ∈ [3, 4, 6, 7, 9, 10])
    (hhead : Msg.headerOk m = true) (hnet : Msg.netOk m = true) (hres : Msg.residueOk m = true) :
    ∃ t, execLamconPacketReceive port k s = .next t ∧ Taken s t port k
      ∧ t.lam.ends = s.lam.ends ++ [(m.srcPart, (Packet.head k).srcGw, (Packet.head k).pathSeq)]
      ∧ Sent s t s.mesh.flights (portGateway port.toNat m) m
      ∧ ((Packet.head k).pathSeq ∈ (inAt t m.srcPart (Packet.head k).srcGw).accepted
          ∨ (inAt t m.srcPart (Packet.head k).srcGw).base ≠ (inAt s m.srcPart (Packet.head k).srcGw).base) := by
  have hp : port.toNat < 12 := lt_of_portAt_st (by rw [hst]; decide)
  have hrest := received_rest s port k
  have hins : (received s port k).lam.ins = s.lam.ins := (congrArg (fun v : State => v.lam.ins) hrest :)
  have hends : (received s port k).lam.ends = s.lam.ends := (congrArg (fun v : State => v.lam.ends) hrest :)
  have hmem : (received s port k).mem = s.mem := (congrArg State.mem hrest :)
  have hflights : (received s port k).mesh.flights = s.mesh.flights := (congrArg (fun v : State => v.mesh.flights) hrest :)
  rw [← inAt_congr hins] at hin hnew ⊢
  obtain ⟨htmem, hports, hacks, htends, ⟨f, hf, hmsg, hhost, hx, hy, hring, -⟩, hmark⟩ :=
    receiveOwn_flies (n := port.toNat) hin hnew hkind hhead hnet hres
  refine ⟨_, execReceive_own hst hmode3 hmode hok hepoch hm hnext hown, ?_, hends ▸ htends, ?_, hmark⟩
  · exact (received_taken hp hnext).next htmem (congrArg Port.recvSeq (portAt_congr hports _)) hacks
  · exact ⟨f, hflights ▸ hf, hmsg, hhost, hx, hy, hring, htmem.trans hmem⟩

/-- One for another part goes out again (R32, R53). -/
theorem execReceive_forwarded {g : Nat} (hother : m.dstPart ≠ s.part) (hhops : (Packet.head k).hops.toNat < 12) (hg : gatewayOf s m = some g)
    (hgst : (portAt s (g / 4)).st = 2) (hgqueue : (portAt s (g / 4)).queue = []) (hgcredit : (portAt s (g / 4)).credit (Packet.head k).vc = true) :
    ∃ t q, execLamconPacketReceive port k s = .next t ∧ Taken s t port k ∧ t.lam.sent = s.lam.sent ++ [(BitVec.ofNat 4 (g / 4), q)]
      ∧ (Packet.head q).hops = (Packet.head k).hops + 1 ∧ (Packet.head q).pathSeq = (Packet.head k).pathSeq
      ∧ (Packet.head q).srcGw = (Packet.head k).srcGw ∧ (Packet.head q).vc = (Packet.head k).vc
      ∧ (Packet.head q).linkSeq = (portAt s (g / 4)).sendSeq ∧ t.mesh = s.mesh := by
  have hp : port.toNat < 12 := lt_of_portAt_st (by rw [hst]; decide)
  let u := received s port k
  have hrest : { u with lam := { u.lam with ports := s.lam.ports, acks := s.lam.acks } } = s := received_rest s port k
  have hsent : u.lam.sent = s.lam.sent := (congrArg (fun v : State => v.lam.sent) hrest :)
  have hport : Port.Takes (portAt s (g / 4)) (portAt u (g / 4)) := received_ports s port k (g / 4)
  have hst' : (portAt u (g / 4)).st = 2 := (congrArg Port.st hport :).trans hgst
  have hqueue' : (portAt u (g / 4)).queue = [] := (congrArg Port.queue hport :).trans hgqueue
  have hcredit' : (portAt u (g / 4)).credit (Packet.head k).vc = true := (congrArg (fun x : Port => x.credit (Packet.head k).vc) hport :).trans hgcredit
  have hg' : gatewayOf u m = some g := (gatewayOf_congr (congrArg State.part hrest :) (congrArg (fun v : State => v.lam.sets) hrest :) m).trans hg
  let q : Queued := { vc := (Packet.head k).vc, pathSeq := (Packet.head k).pathSeq, srcGw := (Packet.head k).srcGw, hops := (Packet.head k).hops + 1, msg := m }
  have hfeeds := transmit_feeds u (g / 4) q
  obtain ⟨htsent, -, -⟩ := transmit_spec u (p := g / 4) (lt_of_portAt_st (by rw [hst']; decide)) q
  have hexec := execReceive_taken hst hmode3 hmode hok hepoch hm hnext
  rw [if_neg hother, forwardPacket_now hhops hg' hst' hqueue' hcredit'] at hexec
  refine ⟨_, _, hexec, ?_, htsent.trans (by rw [hsent]), ?_⟩
  · exact (received_taken hp hnext).next hfeeds.mem (congrArg Port.recvSeq (hfeeds.ports port.toNat) :) (congrArg (fun v : State => v.lam.acks) hfeeds.rest :)
  · rw [head_packetOf]
    exact ⟨rfl, rfl, rfl, rfl, (congrArg Port.sendSeq hport :), hfeeds.mesh.trans (congrArg State.mesh hrest :)⟩

end

end Sys2Proof.Machine
end

section
/-! Links and port sets that change (02 R32, R35, R39, R45 to R48; O56). -/

namespace Sys2Proof.Machine

/-! ### Links (R46, R47) -/

theorem portGo_of_queue {s : State} {p : Nat} (h : (portAt s p).queue = []) : portGo s p = s := by
  simp only [portGo, List.foldl_cons, List.foldl_nil, h, List.length_nil, portPump]

/-- Acknowledged packets leave the retry buffer (R46). -/
theorem execLinkAcknowledgement_drops {s : State} {port : BitVec 4} {q : BitVec 12} {i : Nat}
    (hi : ((portAt s port.toNat).retry.findIdx? fun k => (Packet.head k).linkSeq == q) = some i) (hqueue : (portAt s port.toNat).queue = []) :
    ∃ t, execLinkAcknowledgement port q s = .next t ∧ t.mem = s.mem
      ∧ portAt t port.toNat = { portAt s port.toNat with retry := (portAt s port.toNat).retry.drop (i + 1), replayed := 0 } := by
  have hp : port.toNat < 12 := lt_of_portAt_retry fun h => by
    rw [h] at hi
    cases hi
  have hport := portAt_updPort_same s (fun x => { x with retry := x.retry.drop (i + 1), replayed := 0 }) hp
  refine ⟨_, ?_, updPort_mem .., hport⟩
  unfold execLinkAcknowledgement
  rw [hi]
  exact congrArg _ (portGo_of_queue (by rw [hport]; exact hqueue))

theorem execLinkReplay_sends {s : State} {port : BitVec 4} (hst : (portAt s port.toNat).st = 2) (hretry : (portAt s port.toNat).retry ≠ [])
    (htries : (portAt s port.toNat).replayed < 8) :
    ∃ t, execLinkReplay port s = .next t ∧ t.mem = s.mem ∧ t.lam.sent = s.lam.sent ++ (portAt s port.toNat).retry.map (fun k => (port, k))
      ∧ portAt t port.toNat = { portAt s port.toNat with
        replays := (portAt s port.toNat).replays + 1, replayed := (portAt s port.toNat).replayed + 1 } := by
  have hp : port.toNat < 12 := lt_of_portAt_retry hretry
  have hport := portAt_updPort_same s (fun x => { x with replays := x.replays + 1, replayed := x.replayed + 1 }) hp
  refine ⟨_, congrArg Host.Outcome.next (if_neg ?_), updPort_mem .., ?_, hport⟩
  · simp [hst, hretry, htries]
  · simp only [replay, hport, updPort_sent]

theorem execLinkRetrain_retrains {s : State} {port : BitVec 4} {b : Bool} (hst : (portAt s port.toNat).st = 2)
    (hcause : b = true ∨ 8 ≤ (portAt s port.toNat).replayed) :
    ∃ t, execLinkRetrain port b s = .next t ∧ t.mem = s.mem
      ∧ portAt t port.toNat = { portAt s port.toNat with st := 3, retrains := (portAt s port.toNat).retrains + 1 } := by
  have hp : port.toNat < 12 := lt_of_portAt_st (by rw [hst]; decide)
  refine ⟨_, congrArg Host.Outcome.next (if_neg ?_), updPort_mem .., portAt_updPort_same s (fun x => { x with st := 3, retrains := x.retrains + 1 }) hp⟩
  obtain h | h := hcause <;> simp [hst, h]

section
variable {s : State} {port : BitVec 4} {lanes : BitVec 4} {b : Bool} (hst : (portAt s port.toNat).st = 3) (hlanes : lanes.toNat ≤ 8)
include hst hlanes

/-- Six lanes or more bring the link back, with a replay (R47). -/
theorem execRetrainEnd_back (hmany : 6 ≤ lanes.toNat) :
    ∃ t l, execRetrainEnd port true lanes b s = .next t ∧ t.mem = s.mem ∧ (portAt t port.toNat).st = 2 ∧ (portAt t port.toNat).lanes = lanes
      ∧ t.lam.sent = s.lam.sent ++ (portAt s port.toNat).retry.map (fun k => (port, k)) ++ l := by
  have hp : port.toNat < 12 := lt_of_portAt_st (by rw [hst]; decide)
  let f : Port → Port := fun x => { x with st := 2, lanes := lanes, failed := 0, replayed := 0, tagFail := false }
  let u := replay (updPort s port.toNat f) port
  have hport : portAt u port.toNat = f (portAt s port.toNat) := portAt_updPort_same s f hp
  have hsent : u.lam.sent = s.lam.sent ++ (portAt s port.toNat).retry.map fun k => (port, k) := by
    have hsame := portAt_updPort_same s f hp
    simp only [u, replay, hsame, updPort_sent, f]
  have hgo : Carries u (pumpPort (portGo u port.toNat) port.toNat) := (portGo_feeds u port.toNat).carries.trans (pumpPort_carries ..)
  obtain ⟨l, hl⟩ := hgo.sent
  have hcarries := hgo.ports port.toNat
  rw [hport] at hcarries
  refine ⟨_, l, ?_, hgo.mem.trans (updPort_mem ..), (congrArg Port.st hcarries :), (congrArg Port.lanes hcarries :), by rw [hl, hsent]⟩
  simp only [execRetrainEnd, hst, Nat.not_lt.mpr hlanes, hmany, ne_eq, not_true, or_self, decide_true, Bool.and_self, if_true, if_false]
  rfl
theorem execRetrainEnd_again (hfew : (portAt s port.toNat).failed < 2) :
    ∃ t, execRetrainEnd port false lanes b s = .next t ∧ t.mem = s.mem ∧ portAt t port.toNat = { portAt s port.toNat with
      failed := (portAt s port.toNat).failed + 1, retrains := (portAt s port.toNat).retrains + 1, tagFail := (portAt s port.toNat).tagFail || b } := by
  have hp : port.toNat < 12 := lt_of_portAt_st (by rw [hst]; decide)
  refine ⟨_, ?_, updPort_mem .., portAt_updPort_same s
    (fun x => { x with failed := x.failed + 1, retrains := x.retrains + 1, tagFail := x.tagFail || b }) hp⟩
  simp only [execRetrainEnd, hst, Nat.not_lt.mpr hlanes, Nat.not_le.mpr hfew, ne_eq, not_true, or_self, Bool.false_and, Bool.false_or, decide_false,
    Bool.false_eq_true, if_false]
theorem execRetrainEnd_down (hmany : 2 ≤ (portAt s port.toNat).failed) :
    ∃ t, execRetrainEnd port false lanes b s = .next t ∧ t.mem = s.mem ∧ (portAt t port.toNat).st = 0 := by
  have hp : port.toNat < 12 := lt_of_portAt_st (by rw [hst]; decide)
  refine ⟨portDown s port.toNat (((portAt s port.toNat).tagFail || b) && [0, 1, 2, 3].any fun vc => modeOf (portAt s port.toNat) vc != 0), ?_,
    portDown_mem .., (portAt_portDown s hp _).1⟩
  simp only [execRetrainEnd, hst, Nat.not_lt.mpr hlanes, hmany, ne_eq, not_true, or_self, Bool.false_and, Bool.false_or, decide_true,
    Bool.false_eq_true, if_true, if_false]

end

/-! ### Gateways and port sets (R32, R35, R39) -/

theorem execEndToEndAcknowledgement_frees {s : State} {gw : BitVec 6} {part : PartId} {q : BitVec 32}
    (hany : ((outAt s gw part).unacked.any fun u => u.1 == q) = true) (hwait : (outAt s gw part).waiting = []) :
    ∃ t, execEndToEndAcknowledgement gw part q s = .next t ∧ t.mem = s.mem
      ∧ outAt t gw part = { outAt s gw part with unacked := (outAt s gw part).unacked.filter fun u => u.1 != q } := by
  let o : GwOut := { outAt s gw part with unacked := (outAt s gw part).unacked.filter fun u => u.1 != q }
  obtain ⟨hgw, hpart⟩ := outAt_key s gw part
  have hout : outAt (putOut s o) gw part = o := by
    have h := outAt_putOut_same s o
    rwa [show o.gw = gw from hgw, show o.part = part from hpart] at h
  refine ⟨pump (putOut s o) gw part, congrArg Host.Outcome.next (if_neg (by simp [hany])), (pump_carries ..).mem, ?_⟩
  have hgone : o.gone = o := GwOut.gone_of_waiting hwait
  obtain h | h := outAt_pump (putOut s o) gw part
  · rw [h, hout]
  · rw [h, hout, hgone]
theorem execHeldPacketRelease_ends {s : State} {gw : BitVec 6} {part : PartId} (hheld : (outAt s gw part).held = true)
    (hnone : (outAt s gw part).unacked = []) : ∃ t, execHeldPacketRelease gw part s = .next t ∧ t.mem = s.mem ∧ (outAt t gw part).held = false := by
  let o : GwOut := { outAt s gw part with held := false }
  obtain ⟨hgw, hpart⟩ := outAt_key s gw part
  have hout : outAt (putOut s o) gw part = o := by
    have h := outAt_putOut_same s o
    rwa [show o.gw = gw from hgw, show o.part = part from hpart] at h
  refine ⟨pumpPart (putOut s o) part, congrArg Host.Outcome.next (if_neg (by simp [hheld, hnone])), (pumpPart_carries ..).mem, ?_⟩
  rw [pumpPart_held, hout]
theorem execPortSetChange_sets (s : State) {part : PartId} (set : BitVec 12) (hpart : part ≠ s.part) :
    ∃ t, execPortSetChange part set s = .next t ∧ t.mem = s.mem ∧ (t.lam.sets.look part.toNat).getD 0 = set := by
  refine ⟨_, congrArg Host.Outcome.next (if_neg hpart), (checkPath_carries _).mem.trans (changeSet_transports ..).mem, ?_⟩
  rw [(checkPath_carries _).sets, changeSet_sets]

/-! ### A link that comes up (R45, R48, R52, R69) -/

/-- A port that waits for keys is what it was before in all that is not of key establishment. -/
def Port.Keying (x y : Port) : Prop :=
  { y with counts := x.counts, keWait := x.keWait, keSince := x.keSince, keDigest := x.keDigest, keKem := x.keKem } = x

theorem startKeys_keying (s : State) {p : Nat} (hp : p < 12) : Port.Keying (portAt s p) (portAt (startKeys s p) p) := by
  unfold startKeys
  split
  · let x := portAt s p
    let f : Port → Port := fun y => { y with
      keWait := true, keSince := s.now.toNat, keDigest := ke1Digest x.self x.round (freshKem s.freeCnt) identity, keKem := s.freeCnt }
    have hsend : sendKe1 s p = keSend (updPort { s with freeCnt := s.freeCnt + 1 } p f) p (KeyMsg.bytes false (x.ke1 s.freeCnt)) := rfl
    obtain ⟨⟨counts, hport⟩, -, -⟩ := keSend_spec (updPort { s with freeCnt := s.freeCnt + 1 } p f) hp (KeyMsg.bytes false (x.ke1 s.freeCnt))
    rw [hsend, hport, portAt_updPort_same _ f hp]
    rfl
  · rw [portAt_updPort_same s _ hp]
    rfl

/-- The record of a port whose link begins to train. -/
def Port.training (x : Port) (s : State) (part : PartId) (pp lanes : BitVec 4) (far : Bool) : Port :=
  { x with
    st := 1, partner := part, partnerPort := pp, lanes := lanes, far := far, self := s.part, table := s.rot.domain, sendSeq := 0, recvSeq := 0, queue := []
    retry := [], replayed := 0, failed := 0, tagFail := false, keTries := 0, lastThyme := s.now.toNat }
/-- The first path to the reference brings its Thyme (R52). -/
def pathGained (s : State) (p : Nat) (v : Word64) : State :=
  if !s.lam.reference && !s.lam.adopted && leadsToReference s p then
    { s with clk := { s.clk with thyme := v, hold := 0 }, lam := { s.lam with path := true, adopted := true } }
  else checkPath s

theorem pathGained_spec (s : State) (p : Nat) (v : Word64) :
    (pathGained s p v).mem = s.mem ∧ Port.Carries (portAt s p) (portAt (pathGained s p v) p) := by
  unfold pathGained
  split
  · exact ⟨rfl, rfl⟩
  · exact ⟨(checkPath_carries s).mem, (checkPath_carries s).ports p⟩

theorem execLinkBringUp_trains {s : State} {port : BitVec 4} {part : PartId} {pp lanes : BitVec 4} {far : Bool} {v : Word64} (hp : port.toNat < 12)
    (hst : (portAt s port.toNat).st = 0) (hdomain : s.rot.domain ≠ []) (hlo : 6 ≤ lanes.toNat) (hhi : lanes.toNat ≤ 8) (hpart : part ≠ s.part) :
    ∃ t, execLinkBringUp port part pp lanes far v s = .next t ∧ t.mem = s.mem ∧ (portAt t port.toNat).st = 1
      ∧ (portAt t port.toNat).partner = part ∧ (portAt t port.toNat).partnerPort = pp ∧ (portAt t port.toNat).lanes = lanes
      ∧ (portAt t port.toNat).keWait = true ∧ (portAt t port.toNat).self = s.part ∧ (portAt t port.toNat).table = s.rot.domain := by
  let p := port.toNat
  let u := updPort s p (Port.training · s part pp lanes far)
  have hexec : execLinkBringUp port part pp lanes far v s = .next (startKeys (pathGained u p v) p) := by
    refine congrArg Host.Outcome.next (if_neg ?_)
    have hlanes : ¬ (lanes.toNat < 6 ∨ 8 < lanes.toNat) := by omega
    simp [hst, hp, hdomain, hlanes, hpart]
  obtain ⟨hmem, hcarries⟩ := pathGained_spec u p v
  obtain ⟨⟨hwait, -⟩, hmem', -⟩ := startKeys_begins (pathGained u p v) hp
  have hkeying := startKeys_keying (pathGained u p v) hp
  rw [portAt_updPort_same s _ hp] at hcarries
  let z := (portAt s p).training s part pp lanes far
  have hport : { portAt (startKeys (pathGained u p v) p) p with
      queue := z.queue, retry := z.retry, sendSeq := z.sendSeq, counts := z.counts,
      keWait := z.keWait, keSince := z.keSince, keDigest := z.keDigest, keKem := z.keKem } = z :=
    (congrArg (fun y : Port => { y with
      queue := z.queue, retry := z.retry, sendSeq := z.sendSeq, counts := z.counts,
      keWait := z.keWait, keSince := z.keSince, keDigest := z.keDigest, keKem := z.keKem }) hkeying :).trans
    (congrArg (fun y : Port => { y with keWait := z.keWait, keSince := z.keSince, keDigest := z.keDigest, keKem := z.keKem }) hcarries :)
  exact ⟨_, hexec, hmem'.trans (hmem.trans (updPort_mem ..)), (congrArg Port.st hport :), (congrArg Port.partner hport :),
    (congrArg Port.partnerPort hport :), (congrArg Port.lanes hport :), hwait, (congrArg Port.self hport :), (congrArg Port.table hport :)⟩

end Sys2Proof.Machine
end

section
/-! Built-in memory operations at the gateways (02 R34, R41, R53, 05 R136; O56). -/

namespace Sys2Proof.Machine

/-! ### Events of a plain access (R212) -/

/-- One byte put with the granules so far (R212). -/
def addGranule (acc : List (Nat × List (Nat × Nat))) (p : Nat × Nat) : List (Nat × List (Nat × Nat)) :=
  let g := p.1 / 16 * 16
  if acc.any fun q => q.1 == g then acc.map fun q => if q.1 = g then (g, q.2 ++ [(p.1 - g, p.2)]) else q
  else acc ++ [(g, [(p.1 - g, p.2)])]
theorem granules_append (l : List (Nat × Nat)) (p : Nat × Nat) : granules (l ++ [p]) = addGranule (granules l) p := by
  unfold granules
  rw [List.foldl_append]
  rfl
/-- Is a byte among those of the granules: in the granule of its key, at its place there? -/
def InGranules (acc : List (Nat × List (Nat × Nat))) (p : Nat × Nat) : Prop := ∃ q ∈ acc, q.1 = p.1 / 16 * 16 ∧ (p.1 - q.1, p.2) ∈ q.2

theorem addGranule_self (acc : List (Nat × List (Nat × Nat))) (p : Nat × Nat) : InGranules (addGranule acc p) p := by
  unfold addGranule
  dsimp only
  split
  · next h =>
    obtain ⟨q, hq, hkey⟩ := List.any_eq_true.mp h
    refine ⟨(p.1 / 16 * 16, q.2 ++ [(p.1 - p.1 / 16 * 16, p.2)]), List.mem_map.mpr ⟨q, hq, if_pos (by simpa using hkey)⟩, rfl, by simp⟩
  · exact ⟨_, List.mem_append_right _ (List.mem_singleton_self _), rfl, List.mem_singleton_self _⟩
theorem addGranule_keeps {acc : List (Nat × List (Nat × Nat))} {p : Nat × Nat} (h : InGranules acc p) (r : Nat × Nat) : InGranules (addGranule acc r) p := by
  obtain ⟨q, hq, hkey, hmem⟩ := h
  unfold addGranule
  dsimp only
  split
  · refine ⟨_, List.mem_map_of_mem hq, ?_⟩
    split
    · next hr => exact ⟨hr.symm.trans hkey, List.mem_append_left _ (hr ▸ hmem)⟩
    · exact ⟨hkey, hmem⟩
  · exact ⟨q, List.mem_append_left _ hq, hkey, hmem⟩
/-- Every byte of an access is in its granule (R212). -/
theorem granules_mem {l : List (Nat × Nat)} {p : Nat × Nat} (hp : p ∈ l) : InGranules (granules l) p := by
  induction l using List.reverseRecOn with
  | nil => cases hp
  | append_singleton l r ih =>
    rw [granules_append]
    obtain h | h := List.mem_append.mp hp
    · exact addGranule_keeps (ih h) r
    · rw [List.mem_singleton.mp h]
      exact addGranule_self ..

section
variable (s : State) (o : Owner) (job : JobId) (cls scope near : BitVec 2) (va : Word64) (l : List (Nat × Nat)) (kind : List (Nat × Nat) → EvKind)

/-- An access puts events, and nothing else of memory or Lamcon changes. -/
theorem plainEvents_rest : (plainEvents s o job cls scope near va l kind).2.mem = s.mem ∧ (plainEvents s o job cls scope near va l kind).2.lam = s.lam :=
  ⟨rfl, rfl⟩
/-- Every byte of an access is in one of its events (R212). -/
theorem plainEvents_covers {p : Nat × Nat} (hp : p ∈ l) : ∃ e ∈ (plainEvents s o job cls scope near va l kind).2.memq,
    e.id ∈ (plainEvents s o job cls scope near va l kind).1 ∧ e.owner = o ∧ e.key = p.1 / 16 * 16 ∧ (p.1 % 16, p.2) ∈ e.map ∧ e.kind = kind e.map := by
  obtain ⟨q, hq, hkey, hmem⟩ := granules_mem hp
  obtain ⟨i, hi, rfl⟩ := List.getElem_of_mem hq
  have hplace : p.1 - (granules l)[i].1 = p.1 % 16 := by omega
  rw [hplace] at hmem
  unfold plainEvents
  dsimp only
  refine ⟨_, List.mem_append_right _ (List.mem_iff_getElem.mpr ⟨i, by simpa using hi, rfl⟩),
    List.mem_map_of_mem (List.mem_iff_getElem.mpr ⟨i, by simpa using hi, rfl⟩), ?_⟩
  simp only [List.getElem_map, List.getElem_zipIdx]
  exact ⟨trivial, hkey, hmem, trivial⟩

end

/-! ### The range of a request (R41) -/

theorem reachPages_lam {asid : BitVec 16} {write : Bool} {l : List Nat} {acc : List (Nat × Nat)} {s t : State} {f : Nat → Nat}
    (h : reachPages asid write l acc s = .keys f t) : t.lam = s.lam := by
  induction l generalizing acc s with
  | nil =>
    cases h
    rfl
  | cons b l ih =>
    unfold reachPages at h
    dsimp only at h
    split at h
    · cases h
    · split at h
      · cases h
      · split at h
        · cases h
        · split at h
          · cases h
          · exact (ih h).trans ((apply_ite State.lam _ _ _).trans (ite_self _))
theorem remoteAt_lam {s t : State} {m : Msg} {len align : Nat} {write : Bool} {f : Nat → Nat} (h : remoteAt s m len align write = .keys f t) :
    t.lam = s.lam := by
  unfold remoteAt at h
  dsimp only at h
  split at h
  · cases h
  · split at h
    · cases h
    · split at h
      · next hreach =>
        cases h
        unfold reach at hreach
        split at hreach
        · cases hreach
        · exact reachPages_lam hreach
      · cases h
      · cases h

/-! ### One turn of a gateway (R34, R41) -/

section
variable {s : State} {n : Nat} {q : Request} {kind : Msg → Bool} {go : State → Request → State} {fin : State → Msg → List (Nat × Byte × Bool) → State}
  (hq : s.lam.requests[n]? = some q) (hkind : kind q.msg = true) (hfirst : firstOfLine s n q.msg = true)
include hq hkind hfirst

theorem remoteTurn_begins (hbegun : q.begun = false) (hregion : hasRegion s q.msg.job = true) : remoteTurn s n kind go fin = go s q := by
  simp only [remoteTurn, hq, hkind, hfirst, hbegun, hregion, Bool.not_true, Bool.or_self, Bool.false_eq_true, if_false]
theorem remoteTurn_ends (hbegun : q.begun = true) (hdone : ∀ i ∈ q.evs, outstanding s i = false) :
    remoteTurn s n kind go fin = fin (takeRets s q.evs).2 q.msg (takeRets s q.evs).1 := by
  have hany : q.evs.any (outstanding s) = false := List.any_eq_false.mpr fun i hi => by simp [hdone i hi]
  simp only [remoteTurn, hq, hkind, hfirst, hbegun, hany, Bool.not_true, Bool.or_self, Bool.false_eq_true, if_true, if_false]

end

/-! ### Requests that begin (R41) -/

/-- The events of a request are out, and it has begun. -/
theorem beginRequest_rest (s : State) (q : Request) (l : List Nat) : (beginRequest s q l).mem = s.mem ∧ (beginRequest s q l).memq = s.memq
    ∧ (beginRequest s q l).lam.requests = s.lam.requests.map fun x => if x.id = q.id then { x with begun := true, evs := l } else x := ⟨rfl, rfl, rfl⟩

/-- A request begins with an event for each byte that it asks for. -/
def RequestBegun (s u t : State) (q : Request) (f : Nat → Nat) (len : Nat) (does : MemEv → Nat → Nat → Prop) : Prop :=
  ∃ l, t.mem = u.mem ∧ (t.lam.requests = s.lam.requests.map fun x => if x.id = q.id then { x with begun := true, evs := l } else x)
    ∧ ∀ o < len, ∃ e ∈ t.memq, e.id ∈ l ∧ e.owner = .gate q.id ∧ ∃ b, e.key + b = f (q.msg.arg.toNat + o) ∧ does e b o

/-- The bytes of a request from places of its data. -/
theorem beginRequest_covers {s u : State} (q : Request) (f : Nat → Nat) {len : Nat} {l : List (Nat × Nat)} {kind : List (Nat × Nat) → EvKind}
    {does : MemEv → Nat → Nat → Prop} (hlam : u.lam = s.lam) (hbytes : ∀ o < len, ∃ x, (f (q.msg.arg.toNat + o), x) ∈ l
      ∧ ∀ e : MemEv, (f (q.msg.arg.toNat + o) % 16, x) ∈ e.map → e.kind = kind e.map → does e (f (q.msg.arg.toNat + o) % 16) o) :
    let r := plainEvents u (.gate q.id) q.msg.job 0 3 2 q.msg.arg l kind
    RequestBegun s u (beginRequest r.2 q r.1) q f len does := by
  intro r
  obtain ⟨hmem, hlam'⟩ := plainEvents_rest u (.gate q.id) q.msg.job 0 3 2 q.msg.arg l kind
  obtain ⟨hmem', hmemq, hreq⟩ := beginRequest_rest r.2 q r.1
  refine ⟨r.1, hmem'.trans hmem, hreq.trans (by rw [hlam', hlam]), fun o ho => ?_⟩
  obtain ⟨x, hx, hdoes⟩ := hbytes o ho
  obtain ⟨e, he, hid, howner, hkey, hmap, hkind⟩ := plainEvents_covers u (.gate q.id) q.msg.job 0 3 2 q.msg.arg l kind hx
  refine ⟨e, hmemq ▸ he, hid, howner, f (q.msg.arg.toNat + o) % 16, ?_, hdoes e hmap hkind⟩
  rw [hkey]
  dsimp only
  omega

/-- The operation that a request asks for on an element of 64 bits (R41, R381). -/
def atomOp64 (m : Msg) (signed : Bool) : AtomOp :=
  { fn := m.aux.setWidth 5, size := 64, signed := signed, v := (m.args.getLastD 0).toNat, a := (m.args.headD 0).toNat
    wants := true, ord := false, tag := m.etag }
theorem beginAtomic_covers {s u : State} (q : Request) (f : Nat → Nat) (signed : Bool) (hlam : u.lam = s.lam) :
    let r := plainEvents u (.gate q.id) q.msg.job 0 3 2 q.msg.arg ((List.range 8).map fun i => (f q.msg.arg.toNat + i, i)) fun _ =>
      .atom (f q.msg.arg.toNat % 16) (atomOp64 q.msg signed)
    RequestBegun s u (beginRequest r.2 q r.1) q f 1 fun e b _ => e.kind = .atom b (atomOp64 q.msg signed) := by
  refine beginRequest_covers q f hlam fun o ho => ?_
  obtain rfl : o = 0 := by omega
  exact ⟨0, List.mem_map.mpr ⟨0, by simp, rfl⟩, fun e _ hkind => hkind⟩

section
variable {s u : State} {n : Nat} {q : Request} {f : Nat → Nat} (hq : s.lam.requests[n]? = some q) (hfirst : firstOfLine s n q.msg = true)
  (hbegun : q.begun = false) (hregion : hasRegion s q.msg.job = true)
include hq hfirst hbegun hregion

/-- REMOTE_LOAD reads each byte at its address (R41). -/
theorem execRemoteLoad_begins {len : Nat} (hlen : remoteLen q.msg = some len) (hsel : q.msg.sel = 1)
    (hat : remoteAt s q.msg len 16 false = .keys f u) :
    ∃ t, execRemoteLoad n s = .next t ∧ RequestBegun s u t q f len fun e b o => e.kind = .read ∧ (b, o) ∈ e.map := by
  refine ⟨_, congrArg Host.Outcome.next (remoteTurn_begins hq (by simp [hsel]) hfirst hbegun hregion), ?_⟩
  simp only [hlen, hsel, hat, ne_eq, not_true, if_false]
  exact beginRequest_covers q f (remoteAt_lam hat) fun o ho =>
    ⟨o, List.mem_map.mpr ⟨o, List.mem_range.mpr ho, rfl⟩, fun e hmap hkind => ⟨hkind, hmap⟩⟩

/-- REMOTE_STORE writes each byte of its payload at its address (R41). -/
theorem execRemoteStore_begins {len : Nat} (hlen : remoteLen q.msg = some len) (hsel : q.msg.sel = 2) (htag : q.msg.etag = false)
    (hpayload : q.msg.payload.length = len) (hother : q.msg.srcPart ≠ s.part ∨ requestOf s q.msg.srcCore q.msg = none)
    (hat : remoteAt s q.msg len 16 true = .keys f u) :
    ∃ t, execRemoteStore n s = .next t
      ∧ RequestBegun s u t q f len fun e b o => ∃ bs, e.kind = .write bs ∧ (b, q.msg.payload.getD o 0) ∈ bs := by
  have hmine : (if q.msg.srcPart = s.part then requestOf s q.msg.srcCore q.msg else none) = none := by
    split
    · next h => exact hother.resolve_left (not_not.mpr h)
    · rfl
  refine ⟨_, congrArg Host.Outcome.next (remoteTurn_begins hq (by simp [hsel]) hfirst hbegun hregion), ?_⟩
  simp only [hlen, hpayload, hat, htag, hmine, ne_eq, not_true, Bool.false_eq_true, if_false]
  refine beginRequest_covers q f (remoteAt_lam hat) fun o ho => ⟨o, ?_, fun e hmap hkind => ⟨_, hkind, List.mem_map.mpr ⟨_, hmap, rfl⟩⟩⟩
  exact List.mem_map.mpr ⟨o, List.mem_filter.mpr ⟨List.mem_range.mpr ho, rfl⟩, rfl⟩

/-- REMOTE_ATOMIC puts its operation on the element at its address (R41, R381). -/
theorem execRemoteAtomic_begins (hsel : q.msg.sel = 3) (hfn : q.msg.aux.toNat ≤ 10) (hfmt : q.msg.pfmt = 7 ∨ q.msg.pfmt = 6)
    (hargs : q.msg.args.length = if q.msg.aux = 9 then 2 else 1) (hat : remoteAt s q.msg 8 8 true = .keys f u) :
    ∃ t, execRemoteAtomic n s = .next t ∧ RequestBegun s u t q f 1 fun e b _ => e.kind = .atom b (atomOp64 q.msg (q.msg.pfmt == 6)) := by
  have hfn11 : q.msg.aux.setWidth 5 ≠ 0x0B := fun h => by
    have := congrArg BitVec.toNat h
    rw [BitVec.toNat_setWidth] at this
    simp at this
    omega
  have hfn9 : (q.msg.aux.setWidth 5 = (9 : BitVec 5)) = (q.msg.aux = 9) := by
    refine propext ⟨fun h => ?_, fun h => by rw [h]; rfl⟩
    have := congrArg BitVec.toNat h
    rw [BitVec.toNat_setWidth] at this
    refine BitVec.eq_of_toNat_eq ?_
    simp at this ⊢
    omega
  have hmax : ¬ 0x0B < q.msg.aux.toNat := by omega
  have hv (w : Word64) : w.toNat % 2 ^ (8 * 8) = w.toNat := Nat.mod_eq_of_lt w.isLt
  refine ⟨_, congrArg Host.Outcome.next (remoteTurn_begins hq (by simp [hsel]) hfirst hbegun hregion), ?_⟩
  obtain h | h := hfmt
  · have hf : fmtOf q.msg.pfmt.toNat = some .uint64 := by rw [h]; rfl
    simp only [hf, hfn11, hfn9, hmax, hargs, hat, if_false, ne_eq, not_true, or_false, OfNat.ofNat_ne_zero, hv]
    rw [h]
    exact beginAtomic_covers q f _ (remoteAt_lam hat)
  · have hf : fmtOf q.msg.pfmt.toNat = some .int64 := by rw [h]; rfl
    simp only [hf, hfn11, hfn9, hmax, hargs, hat, if_false, ne_eq, not_true, or_false, OfNat.ofNat_ne_zero, hv]
    rw [h]
    exact beginAtomic_covers q f _ (remoteAt_lam hat)

end

/-! ### Requests that are answered (R41, R42) -/

theorem mem_takeRets {s : State} {ids : List Nat} {x : Nat × Byte × Bool} :
    x ∈ (takeRets s ids).1 ↔ ∃ r ∈ s.rets, r.id ∈ ids ∧ ∃ p ∈ r.bytes, (p.1, p.2, r.tag) = x := by
  simp only [takeRets, List.mem_flatMap, List.mem_filter, List.contains_iff_mem, List.mem_map, and_assoc]
theorem takeRets_untagged {s : State} {ids : List Nat} (h : ∀ r ∈ s.rets, r.id ∈ ids → r.tag = false) : (takeRets s ids).1.any (·.2.2) = false := by
  refine List.any_eq_false.mpr fun x hx => ?_
  obtain ⟨r, hr, hid, p, -, rfl⟩ := mem_takeRets.mp hx
  simp [h r hr hid]

/-- A byte that alone came for its place stands at that place of the data. -/
theorem getElem?_bytesIn {l : List (Nat × Byte × Bool)} {x : Nat × Byte × Bool} {len : Nat} (hx : x ∈ l) (hsole : ∀ y ∈ l, y.1 = x.1 → y.2.1 = x.2.1)
    (hlt : x.1 < len) : (bytesIn l len)[x.1]? = some x.2.1 := by
  have hfind : ∃ y, l.find? (fun p => p.1 == x.1) = some y :=
    Option.isSome_iff_exists.mp (List.find?_isSome.mpr ⟨x, hx, by simp⟩)
  obtain ⟨y, hy⟩ := hfind
  have hplace : y.1 = x.1 := by simpa using List.find?_some hy
  have hbyte := hsole y (List.mem_of_find?_eq_some hy) hplace
  simp [bytesIn, hlt, hy, hbyte]
theorem length_bytesIn (l : List (Nat × Byte × Bool)) (len : Nat) : (bytesIn l len).length = len := by simp [bytesIn]

theorem gatewayEmit_own {s : State} {m : Msg} (h : m.dstPart = s.part) (c : CoreId) : gatewayEmit s c m = putFlight s c m false := if_pos h

/-- A request of this part is answered: the reply is on the mesh, and the request is off the list. -/
def RequestAnswered (s t : State) (n : Nat) (m : Msg) (data : List Byte) : Prop :=
  t.mem = s.mem ∧ t.lam.requests = s.lam.requests.eraseIdx n
    ∧ ∃ e, t.mesh.flights = s.mesh.flights ++ [e] ∧ e.msg.kind = 11 ∧ e.msg.vnet = 1 ∧ e.msg.aux = 0 ∧ e.msg.etag = false
      ∧ e.msg.seq = m.seq ∧ e.msg.dstCore = m.srcCore ∧ e.msg.dstPart = s.part ∧ e.msg.payload = data

theorem builtinAnswer_answers {s : State} {m : Msg} (hown : m.srcPart = s.part) (n : Nat) (ids : List Nat) (data : List Byte) :
    RequestAnswered s (builtinAnswer (takeRets s ids).2 n m 0 false data) n m data := by
  rw [builtinAnswer, gatewayEmit_own (by exact hown)]
  exact ⟨rfl, rfl, _, rfl, rfl, rfl, rfl, rfl, rfl, rfl, hown, rfl⟩

/-- A request is answered with the bytes that came back for its places. -/
def RequestReturned (s t : State) (n : Nat) (q : Request) (len : Nat) : Prop :=
  ∃ data, RequestAnswered s t n q.msg data ∧ data.length = len
    ∧ ∀ r ∈ s.rets, r.id ∈ q.evs → ∀ p ∈ r.bytes, (∀ r' ∈ s.rets, r'.id ∈ q.evs → ∀ p' ∈ r'.bytes, p'.1 = p.1 → p' = p) →
        p.1 < len → data[p.1]? = some p.2

theorem builtinAnswer_returns {s : State} {q : Request} (hown : q.msg.srcPart = s.part) (n len : Nat) (hsound : ∀ r ∈ s.rets, r.id ∈ q.evs → r.tag = false) :
    RequestReturned s (builtinAnswer (takeRets s q.evs).2 n q.msg 0 ((takeRets s q.evs).1.any (·.2.2)) (bytesIn (takeRets s q.evs).1 len)) n q len := by
  rw [takeRets_untagged hsound]
  refine ⟨_, builtinAnswer_answers hown n q.evs _, length_bytesIn .., fun r hr hid p hp hsole hlt => ?_⟩
  refine getElem?_bytesIn (x := (p.1, p.2, r.tag)) (mem_takeRets.mpr ⟨r, hr, hid, p, hp, rfl⟩) (fun y hy hplace => ?_) hlt
  obtain ⟨r', hr', hid', p', hp', rfl⟩ := mem_takeRets.mp hy
  exact congrArg Prod.snd (hsole r' hr' hid' p' hp' hplace)

section
variable {s : State} {n : Nat} {q : Request} (hq : s.lam.requests[n]? = some q) (hfirst : firstOfLine s n q.msg = true)
  (hbegun : q.begun = true) (hdone : ∀ i ∈ q.evs, outstanding s i = false) (hown : q.msg.srcPart = s.part)
include hq hfirst hbegun hdone hown

theorem execRemoteLoad_ends {len : Nat} (hsel : q.msg.sel = 1) (hlen : remoteLen q.msg = some len)
    (hsound : ∀ r ∈ s.rets, r.id ∈ q.evs → r.tag = false) : ∃ t, execRemoteLoad n s = .next t ∧ RequestReturned s t n q len := by
  refine ⟨_, congrArg Host.Outcome.next (remoteTurn_ends hq (by simp [hsel]) hfirst hbegun hdone), ?_⟩
  rw [hlen]
  exact builtinAnswer_returns hown n len hsound
theorem execRemoteStore_ends (hsel : q.msg.sel = 2) : ∃ t, execRemoteStore n s = .next t ∧ RequestAnswered s t n q.msg [] :=
  ⟨_, congrArg Host.Outcome.next (remoteTurn_ends hq (by simp [hsel]) hfirst hbegun hdone), builtinAnswer_answers hown n q.evs []⟩
theorem execRemoteAtomic_ends (hsel : q.msg.sel = 3) (hsound : ∀ r ∈ s.rets, r.id ∈ q.evs → r.tag = false) :
    ∃ t, execRemoteAtomic n s = .next t ∧ RequestReturned s t n q 16 :=
  ⟨_, congrArg Host.Outcome.next (remoteTurn_ends hq (by simp [hsel]) hfirst hbegun hdone), builtinAnswer_returns hown n 16 hsound⟩

end

end Sys2Proof.Machine
end

section
/-! Lamcon carries packets: its statement from the parts (O56). -/

namespace Sys2Proof.Machine

/-- Settles O56: each step of a packet, a link, a port set or a remote request is the rule about it. -/
theorem lamconCarriesPackets : Obligations.LamconCarriesPackets := by
  unfold Obligations.LamconCarriesPackets
  intro s
  refine ⟨fun id f g hf hhost hfor hg hx hy hhead hnet hres hblocked => ?_, fun port p => ?_, fun port => ?_, fun gw part q => ?_,
    fun n q f u hq hfirst => ⟨fun hbegun hregion => ?_, fun hbegun hdone hown => ?_⟩⟩
  · have hexec := execLamconPacketSend_atGateway hf hhost hfor hg hx hy hhead hnet hres hblocked
    refine ⟨fun hown => ?_, fun o x ho hother hwait hroom hfree hheld hport hst hqueue hcredit => ?_⟩
    · rw [if_pos hown] at hexec
      exact hexec
    · rw [if_neg hother] at hexec
      obtain ⟨hmem, hmesh, hsent, hretry, hseq, hout⟩ :=
        gwSend_sends (s := dropFlight s id) (gatewayOf_lt hg) ho hport hwait hroom hfree hheld hst hqueue hcredit
      refine ⟨_, _, hexec, hmem, congrArg Mesh.flights hmesh, hsent, rfl, ?_⟩
      rw [head_packetOf, hout]
      exact ⟨rfl, rfl, rfl, rfl, rfl, rfl, hretry, hseq, rfl, List.map_append⟩
  · intro n x h s1 d hst hmode3 hmode
    refine ⟨execReceive_failed hst hmode3 hmode, fun m hok hepoch hm => ⟨execReceive_old hst hmode3 hmode hok hepoch hm, fun hnext => ?_⟩⟩
    refine ⟨fun hown hin => ⟨execReceive_known hst hmode3 hmode hok hepoch hm hnext hown hin, fun hnew hkind hhead hnet hres => ?_⟩, fun g => ?_⟩
    · exact execReceive_new hst hmode3 hmode hok hepoch hm hnext hown hin hnew hkind hhead hnet hres
    · exact execReceive_forwarded hst hmode3 hmode hok hepoch hm hnext
  · refine ⟨fun q i => execLinkAcknowledgement_drops, execLinkReplay_sends, fun b => execLinkRetrain_retrains, fun lanes b hst => ⟨fun hlo hhi => ?_, ?_, ?_⟩,
      fun part far pp lanes v => execLinkBringUp_trains⟩
    · exact execRetrainEnd_back hst hhi hlo
    · exact fun hfew hhi => execRetrainEnd_again hst hhi hfew
    · exact fun hmany hhi => execRetrainEnd_down hst hhi hmany
  · exact ⟨execEndToEndAcknowledgement_frees, execHeldPacketRelease_ends, execPortSetChange_sets s⟩
  · refine ⟨fun len hlen => ⟨fun hsel hat => ?_, fun hsel htag hpayload hother hat => ?_⟩, fun hsel hfn hfmt hargs hat => ?_⟩
    · obtain ⟨t, hexec, l, hrest⟩ := execRemoteLoad_begins hq hfirst hbegun hregion hlen hsel hat
      exact ⟨t, l, hexec, hrest⟩
    · obtain ⟨t, hexec, l, hrest⟩ := execRemoteStore_begins hq hfirst hbegun hregion hlen hsel htag hpayload hother hat
      exact ⟨t, l, hexec, hrest⟩
    · obtain ⟨t, hexec, l, hrest⟩ := execRemoteAtomic_begins hq hfirst hbegun hregion hsel hfn hfmt hargs hat
      exact ⟨t, l, hexec, hrest⟩
  · refine ⟨fun len hsel hlen hsound => ?_, execRemoteStore_ends hq hfirst hbegun hdone hown, fun hsel hsound => ?_⟩
    · obtain ⟨t, hexec, data, hrest⟩ := execRemoteLoad_ends hq hfirst hbegun hdone hown hsel hlen hsound
      exact ⟨t, data, hexec, hrest⟩
    · obtain ⟨t, hexec, data, hrest⟩ := execRemoteAtomic_ends hq hfirst hbegun hdone hown hsel hsound
      exact ⟨t, data, hexec, hrest⟩

end Sys2Proof.Machine
end

section
/-! Messages at a core's NI, its directory entry and its queue (04 R75, R89, R90, R94, R101, R242, 10 R264; O50). -/

namespace Sys2Proof.Machine

/-! ### Directory entries (R82) -/

/-- A change of an entry that leaves it the entry of its core and job. -/
def Dir.Keeps (f : Dir → Dir) : Prop := ∀ d, (f d).core = d.core ∧ (f d).job = d.job

theorem State.dir_updDir_same (s : State) (c : CoreId) (j : JobId) {f : Dir → Dir} (hf : Dir.Keeps f) : (s.updDir c j f).dir c j = (s.dir c j).map f := by
  have hkey (d : Dir) : ((if d.core == c && d.job == j then f d else d).core == c && (if d.core == c && d.job == j then f d else d).job == j)
      = (d.core == c && d.job == j) := by
    split
    · rw [(hf d).1, (hf d).2]
    · rfl
  unfold State.dir State.updDir
  dsimp only
  rw [List.find?_map]
  simp only [Function.comp_def, hkey]
  cases h : s.fw.dirs.find? fun d => d.core == c && d.job == j with
  | none => rfl
  | some d =>
    have hd := List.find?_some h
    simp only [Option.map_some, Option.some.injEq]
    exact if_pos hd
theorem State.dir_updDir_some {s : State} {c : CoreId} {j : JobId} {d : Dir} (h : s.dir c j = some d) {f : Dir → Dir} (hf : Dir.Keeps f) :
    (s.updDir c j f).dir c j = some (f d) := by
  rw [State.dir_updDir_same s c j hf, h]
  rfl

/-! ### A message at its NI (R75, R94, R264) -/

/-- A sound message at its NI is taken off the mesh and treated as its kind says. -/
theorem takeArrival_atNi {s : State} {id : Nat} {m : Msg} (h : s.atNi id m) {kinds : Msg → Bool} (hkind : kinds m = true)
    (go : State → CoreId → Msg → State) : takeArrival s id kinds go = go (dropFlight s id) m.dstCore m := by
  obtain ⟨f, hf, rfl, hhost, hfor, hx, hy, hhead, hnet, hres, hblocked, hfree⟩ := h
  have hni : (Msg.mayQueue f.msg && !niFree s f.msg.dstCore) = false := by
    cases hq : Msg.mayQueue f.msg
    · rfl
    · simp [hfree hq]
  simp only [takeArrival, hf, hhost, hfor, ← hx, ← hy, hkind, hblocked, hni, hhead, hnet, hres, bne_self_eq_false, Bool.not_true, Bool.or_self,
    Bool.true_or, Bool.false_eq_true, if_false, if_true]

/-! ### The inbound queue (R89, R90, R101) -/

theorem ctxAt_updCore (s : State) (c : CoreId) (n : BitVec 2) {f : Core → Core} (hf : ∀ k, (f k).ctxs = k.ctxs) :
    (s.updCore c f).ctxAt c n = s.ctxAt c n := by
  unfold State.ctxAt Core.ctx
  rw [State.core_updCore_same, hf]
theorem queue_enqueue (s : State) (c : CoreId) (i : BitVec 2) (m : Msg) (stamp w : Nat) (drained : Bool) :
    ((enqueue s c i m stamp w drained).core c).queue = (s.core c).queue ++ [s.entry c i m stamp w drained] :=
  congrArg Core.queue (State.core_updCore_same s c _)
theorem ctxAt_enqueue (s : State) (c : CoreId) (i : BitVec 2) (m : Msg) (stamp w : Nat) (drained : Bool) (n : BitVec 2) :
    (enqueue s c i m stamp w drained).ctxAt c n = s.ctxAt c n := ctxAt_updCore s c n fun _ => rfl

/-- A message on VN-A enters the queue of a core that serves its job (R89, R101). -/
theorem arriveA_serves {s : State} {c : CoreId} {i : BitVec 2} {k : Ctx} {d : Dir} {m : Msg} (h : s.serves c m.job i k d)
    (hroom : (s.core c).queue.length < 16) : arriveA s c m = enqueue s c i m s.clk.cycle 0 false := by
  obtain ⟨horphan, hdir, hlead, hctx, -, hst, hfrozen, hdivert⟩ := h
  have hctx' : (s.core c).ctx i = some k := hctx
  have hqueue : (s.core c).queue.length < Config.queueEntries := hroom
  simp only [arriveA, horphan, deliverVnA, hlead, hctx', hst, hfrozen, hdir, hdivert, hqueue, ne_eq, not_true, Option.map_some, Option.getD_some,
    Bool.false_eq_true, if_true, if_false]

/-! ### Contexts whose counts change (R80) -/

/-- A change of a context that leaves it the context of its job, of the same kind. -/
def Ctx.Keeps (f : Ctx → Ctx) : Prop := ∀ k, (f k).job = k.job ∧ (f k).trailing = k.trailing

theorem leadOf_setCtx (k : Core) (i : BitVec 2) (j : JobId) {f : Ctx → Ctx} (hf : Ctx.Keeps f) : (k.setCtx i ((k.ctx i).map f)).leadOf j = k.leadOf j := by
  unfold Core.leadOf
  congr 1
  funext n
  by_cases h : n = i
  · subst h
    rw [Core.ctx_setCtx_same]
    cases k.ctx n with
    | none => rfl
    | some x => simp only [Option.map_some, (hf x).1, (hf x).2]
  · rw [Core.ctx_setCtx_other _ _ h]
theorem leadOf_updCtx (s : State) (c : CoreId) (i : BitVec 2) (j : JobId) {f : Ctx → Ctx} (hf : Ctx.Keeps f) :
    ((s.updCtx c i f).core c).leadOf j = (s.core c).leadOf j := by
  rw [State.updCtx, State.core_updCore_same]
  exact leadOf_setCtx _ i j hf

/-! ### Fault events that the NI makes (R241, R242) -/

/-- An entry of a fault event of a context at the end of a queue, and memory stays (R242). -/
def FaultQueued (s t : State) (c : CoreId) (q : List QEntry) (k : Ctx) (aux : BitVec 8) (g : Msg) : Prop :=
  ∃ e : QEntry, (t.core c).queue = q ++ [e] ∧ e.msg.kind = 7 ∧ e.msg.aux = aux ∧ e.msg.sel = k.faultSel ∧ e.msg.prio = 30
    ∧ (aux = 0x44 → e.msg.payload = bytesOf 8 g.arg.toNat ++ bytesOf 8 s.now.toNat) ∧ t.mem = s.mem

/-- It is a fault event for the fault selector of the context that serves the job. -/
theorem niFault_serves {s : State} {c : CoreId} {i : BitVec 2} {k : Ctx} {d : Dir} {m : Msg} (h : s.serves c m.job i k d) (cause : Cause) (sub : BitVec 8)
    (addr : Word64) : niFault s c m cause sub addr = faultEvent s c m.job k.faultSel cause
      { source := 5, slot := 0, tile := 0, row := 0, acc := 0, sub := sub, count := undelCount m } addr := by
  obtain ⟨-, -, hlead, hctx, -⟩ := h
  simp only [niFault, hlead, hctx, Option.map_some, Option.getD_some]

/-- The fault event enters the queue of the core that serves the job. -/
theorem arriveA_niFault {s u : State} {c : CoreId} {j : JobId} {i : BitVec 2} {k k' : Ctx} {d : Dir} (h : u.serves c j i k d)
    (hroom : (u.core c).queue.length < 16) {m g : Msg} (hjob : m.job = j) (cause : Cause) (sub : BitVec 8) (addr : Word64)
    (hsel : k.faultSel = k'.faultSel) (hnow : u.now = s.now) (hmem : u.mem = s.mem) (haddr : causeCode cause = 0x44 → addr = g.arg) :
    let t := arriveA u c (niFault u c m cause sub addr)
    FaultQueued s t c (u.core c).queue k' (causeCode cause) g ∧ t.fw = u.fw ∧ ∀ n, t.ctxAt c n = u.ctxAt c n := by
  intro t
  subst hjob
  let e := faultEvent u c m.job k.faultSel cause { source := 5, slot := 0, tile := 0, row := 0, acc := 0, sub := sub, count := undelCount m } addr
  have he : e.job = m.job := rfl
  have ht : t = enqueue u c i e u.clk.cycle 0 false :=
    (congrArg (arriveA u c) (niFault_serves h cause sub addr)).trans (arriveA_serves (he ▸ h) hroom)
  rw [ht]
  refine ⟨⟨u.entry c i e u.clk.cycle 0 false, queue_enqueue .., rfl, rfl, hsel, rfl, fun h44 => ?_, hmem⟩, rfl, fun n => ctxAt_enqueue ..⟩
  rw [← haddr h44, ← hnow]
  rfl

end Sys2Proof.Machine
end

section
/-! Messages that go again, and what comes back about a message (04 R99, R102, R103, 10 R272 to R274; O50). -/

namespace Sys2Proof.Machine

/-! ### Output that belongs to no slot (R102, R221, R254) -/

theorem ctxOf_congr {x y : Core} (h : x.ctxs = y.ctxs) (j : JobId) : x.ctxOf j = y.ctxOf j := by
  unfold Core.ctxOf Core.ctx
  rw [h]
theorem frozenAt_updCore (s : State) (c : CoreId) (j : JobId) {f : Core → Core} (hf : ∀ k, (f k).ctxs = k.ctxs) :
    frozenAt (s.updCore c f) c j = frozenAt s c j := by
  unfold frozenAt
  simp only [ctxAt_updCore s c _ hf, State.core_updCore_same, ctxOf_congr (hf _)]
theorem heldFor_updDir (s : State) (c : CoreId) (m : Msg) {f : Dir → Dir} (hf : Dir.Keeps f) (hholds : ∀ d, (f d).holds = d.holds) :
    heldFor (s.updDir c m.job f) c m = heldFor s c m := by
  unfold heldFor
  rw [State.dir_updDir_same s c m.job hf]
  cases s.dir c m.job with
  | none => rfl
  | some d => simp only [Option.map_some, hholds]

/-- A message that is sent again, or injected again, as its core's output. -/
def againOut (m : Msg) (route : Bool) : OutMsg :=
  { msg := m, slot := 0, uid := 0, evs := [], posts := [], at_ := none, route := route, loop := false, asIs := true, stepped := false, ord := 0 }
/-- Its retained record's age begins as a message leaves (R274). -/
def Dir.aged (m : Msg) (d : Dir) : Dir :=
  { d with retained := d.retained.map fun r => if r.msg.seq = m.seq then { r with sent := true, age := 0 } else r }
/-- Its destination on another part is kept (R102). -/
def Dir.noted (m : Msg) (d : Dir) : Dir := { d with sentTo := d.sentTo.put (sentNo m) m.dstCore }
/-- The entry of a context once a message left on the mesh. -/
def Dir.sentOut (part : PartId) (m : Msg) (d : Dir) : Dir :=
  let e := if m.retained = true then d.aged m else d
  if m.kind = 0 ∧ m.vnet = 0 ∧ m.dstPart ≠ part then e.noted m else e

theorem Dir.sentOut_request (d : Dir) (part : PartId) {m : Msg} (hkind : m.kind = 0) (hvnet : m.vnet = 0) : d.sentOut part m = { d with
    retained := if m.retained then d.retained.map fun r => if r.msg.seq = m.seq then { r with sent := true, age := 0 } else r else d.retained
    sentTo := if m.dstPart = part then d.sentTo else d.sentTo.put (sentNo m) m.dstCore } := by
  unfold Dir.sentOut
  by_cases hretained : m.retained = true <;> by_cases hpart : m.dstPart = part <;> simp [hkind, hvnet, hretained, hpart, Dir.aged, Dir.noted]
theorem Dir.keeps_aged (m : Msg) : Dir.Keeps (Dir.aged m) := fun _ => ⟨rfl, rfl⟩
theorem Dir.keeps_noted (m : Msg) : Dir.Keeps (Dir.noted m) := fun _ => ⟨rfl, rfl⟩

section
variable (s : State) (c : CoreId) (p : Prop) [Decidable p] (f : Dir → Dir)

/-- An entry that is changed under a condition. -/
theorem dir_ite_updDir (j : JobId) (hf : Dir.Keeps f) : (if p then s.updDir c j f else s).dir c j = (s.dir c j).map fun d => if p then f d else d := by
  split
  · exact State.dir_updDir_same s c j hf
  · rw [Option.map_id']
theorem ite_updDir_rest (j : JobId) : { (if p then s.updDir c j f else s) with fw := s.fw } = s := by split <;> rfl
theorem goesTo_ite_updDir (j : JobId) (m : Msg) (route : Bool) : goesTo (if p then s.updDir c j f else s) m route = goesTo s m route := by
  split <;> rfl
theorem heldFor_ite_updDir (m : Msg) (hf : Dir.Keeps f) (hholds : ∀ d, (f d).holds = d.holds) :
    heldFor (if p then s.updDir c m.job f else s) c m = heldFor s c m := by
  split
  · exact heldFor_updDir s c m hf hholds
  · rfl

end

/-- A message whose destination is not held leaves on the mesh; what its context's entry notes of it is all that changes besides. -/
theorem emit_again {s : State} {c : CoreId} {m : Msg} {route : Bool} (hgo : goesTo s m route = .to m) (hheld : heldFor s c m = false) :
    ∃ v, emit s c (againOut m route) = putFlight v c m false ∧ v.dir c m.job = (s.dir c m.job).map (Dir.sentOut s.part m)
      ∧ { v with fw := s.fw } = s := by
  let u := if m.retained = true then s.updDir c m.job (Dir.aged m) else s
  have hgo' : goesTo u m route = .to m := (goesTo_ite_updDir ..).trans hgo
  have hheld' : heldFor u c m = false := (heldFor_ite_updDir s c (m.retained = true) _ m (Dir.keeps_aged m) fun _ => rfl).trans hheld
  have hrest : { u with fw := s.fw } = s := ite_updDir_rest ..
  have hpart : u.part = s.part := (congrArg State.part hrest :)
  refine ⟨if m.kind = 0 ∧ m.vnet = 0 ∧ m.dstPart ≠ u.part then u.updDir c m.job (Dir.noted m) else u, ?_, ?_, ?_⟩
  · have hemit : emit s c (againOut m route) = niInject u c m route := rfl
    rw [hemit]
    simp only [niInject, hgo', emitFixed, hheld', Bool.false_eq_true, if_false]
    rfl
  · rw [dir_ite_updDir u c _ _ _ (Dir.keeps_noted m), dir_ite_updDir s c _ _ _ (Dir.keeps_aged m), Option.map_map, hpart]
    rfl
  · exact (congrArg (fun v : State => { v with fw := s.fw }) (ite_updDir_rest u c
      (m.kind = 0 ∧ m.vnet = 0 ∧ m.dstPart ≠ u.part) _ _) :).trans hrest

/-- Output that belongs to no slot leaves at once where its context runs and its destination is not held (R102, R254). -/
theorem flushOut_again {s : State} {c : CoreId} {m : Msg} {route : Bool} (hout : (s.core c).out = []) (hfrozen : frozenAt s c m.job = false)
    (hgo : goesTo s m route = .to m) (hheld : heldFor s c m = false) :
    let t := flushOut (s.updCore c fun k => { k with out := k.out ++ [againOut m route] }) c
    Sent s t s.mesh.flights c m ∧ t.dir c m.job = (s.dir c m.job).map (Dir.sentOut s.part m) := by
  intro t
  let u := s.updCore c fun k => { k with out := k.out ++ [againOut m route] }
  have huout : (u.core c).out = [againOut m route] := by
    rw [State.core_updCore_same, hout]
    rfl
  have hufrozen : frozenAt u c m.job = false := 
    (frozenAt_updCore s c m.job (f := fun k => { k with out := k.out ++ [againOut m route] }) fun _ => rfl).trans hfrozen
  have hugo : goesTo u m route = .to m := hgo
  have huheld : heldFor u c m = false := hheld
  have hring : ringWaits u c (againOut m route) = false := by
    have h : goesTo u (againOut m route).msg (againOut m route).route = .to m := hugo
    simp only [ringWaits, h, huheld, Bool.false_and, Bool.and_false]
  obtain ⟨v, hemit, hdir, hrest⟩ := emit_again hugo huheld
  have ht : t = (putFlight v c m false).updCore c fun k => { k with out := [] } := by
    have hloop : t = flushLoop u c [againOut m route] [] [] := congrArg (flushLoop u c · [] []) huout
    have hfrozen' : frozenAt u c (againOut m route).msg.job = false := hufrozen
    have hbehind : behindHeld u c (againOut m route) = false := rfl
    have hreleased : released u c (againOut m route) = true := rfl
    have huid : (againOut m route).uid = 0 := rfl
    rw [hloop]
    simp only [flushLoop, hfrozen', hbehind, hreleased, hring, hemit, huid, bne_self_eq_false, Bool.false_and, Bool.or_self, Bool.and_false, Bool.not_true,
      Bool.false_eq_true, if_false]
  have hflights : v.mesh.flights = s.mesh.flights := (congrArg (fun v : State => v.mesh.flights) hrest :)
  have hmem : v.mem = s.mem := (congrArg State.mem hrest :)
  rw [ht]
  exact ⟨⟨_, congrArg (· ++ [_]) hflights, rfl, rfl, rfl, rfl, rfl, hmem⟩, hdir⟩

/-! ### A hold that ends (R102, R103) -/

/-- The words of a destination that a context's entry holds. -/
def Dir.heldWords (d : Dir) (part : PartId) (dst : CoreId) : List CoreId := (d.holds.filter fun h => h.part == part && h.core == dst).map (·.word)
/-- Does a message wait for one of them? -/
def Dir.waitsFor (d : Dir) (part : PartId) (dst : CoreId) (m : Msg) : Bool := m.dstPart == part && (d.heldWords part dst).contains m.dstCore
/-- The entry once the hold is over, e before it: what waited is out of the ring. -/
def Dir.unheld (e : Dir) (part : PartId) (dst : CoreId) (d : Dir) : Dir :=
  { d with
    ret := d.ret.filter fun m => !e.waitsFor part dst m
    rHead := (d.rHead + (e.ret.takeWhile (e.waitsFor part dst)).length) % Nat.max 1 d.spillQ
    overflow := d.overflow.filter fun m => !e.waitsFor part dst m
    holds := d.holds.filter fun h => !(h.part == part && h.core == dst) }

theorem resend_eq {s : State} {c : CoreId} {j : JobId} {d : Dir} (hdir : s.dir c j = some d) (part : PartId) (dst : CoreId) :
    resend s c j part dst = flushOut ((s.updDir c j (d.unheld part dst)).updCore c fun k => { k with
      out := k.out ++ ((d.ret ++ d.overflow).filter (d.waitsFor part dst)).map (againOut · false) }) c := by
  unfold resend
  rw [hdir]
  rfl

/-- The one message that waited for a destination goes again, as it is (R102). -/
theorem resend_sends {s : State} {c : CoreId} {j : JobId} {d : Dir} {part : PartId} {dst : CoreId} {g : Msg} (hdir : s.dir c j = some d) (hret : d.ret = [g])
    (hover : d.overflow = []) (hjob : g.job = j) (hpart : g.dstPart = part) (hkind : g.kind = 0) (hvnet : g.vnet = 0)
    (hholds : ∀ h ∈ d.holds, h.part = part ∧ h.core = dst) (hheld : ∃ h ∈ d.holds, h.word = g.dstCore) (hout : (s.core c).out = [])
    (hfrozen : frozenAt s c g.job = false) :
    Sent s (resend s c j part dst) s.mesh.flights c g ∧ (resend s c j part dst).dir c j = some { d with
      ret := [], rHead := (d.rHead + 1) % Nat.max 1 d.spillQ, holds := []
      retained := if g.retained then d.retained.map fun r => if r.msg.seq = g.seq then { r with sent := true, age := 0 } else r else d.retained
      sentTo := if part = s.part then d.sentTo else d.sentTo.put (sentNo g) g.dstCore } := by
  subst hjob
  have hwaits : d.waitsFor part dst g = true := by
    obtain ⟨h, hmem, hword⟩ := hheld
    obtain ⟨hp, hc⟩ := hholds h hmem
    simp only [Dir.waitsFor, Dir.heldWords, hpart, beq_self_eq_true, Bool.true_and, List.contains_iff_mem, List.mem_map, List.mem_filter]
    exact ⟨h, ⟨hmem, by simp [hp, hc]⟩, hword⟩
  have hnone : d.holds.filter (fun h => !(h.part == part && h.core == dst)) = [] := by
    refine List.filter_eq_nil_iff.mpr fun h hmem => ?_
    obtain ⟨hp, hc⟩ := hholds h hmem
    simp [hp, hc]
  have hunheld : d.unheld part dst d = { d with ret := [], rHead := (d.rHead + 1) % Nat.max 1 d.spillQ, holds := [] } := by
    simp only [Dir.unheld, hret, hover, hnone, List.filter_cons, List.filter_nil, hwaits, List.takeWhile_cons, List.takeWhile_nil, Bool.not_true,
      Bool.false_eq_true, if_true, if_false, List.length_cons, List.length_nil]
  have hkeeps : Dir.Keeps (d.unheld part dst) := fun _ => ⟨rfl, rfl⟩
  let u := s.updDir c g.job (d.unheld part dst)
  have hudir : u.dir c g.job = some { d with ret := [], rHead := (d.rHead + 1) % Nat.max 1 d.spillQ, holds := [] } := by
    rw [State.dir_updDir_some hdir hkeeps, hunheld]
  have hufree : heldFor u c g = false := by
    simp only [heldFor, hudir, List.any_nil, Bool.and_false]
  obtain ⟨⟨f, hf⟩, hafter⟩ := flushOut_again (s := u) (route := false) hout hfrozen rfl hufree
  have hgo : resend s c g.job part dst = flushOut (u.updCore c fun k => { k with out := k.out ++ [againOut g false] }) c := by
    rw [resend_eq hdir]
    simp only [hret, hover, List.append_nil, List.filter_cons, List.filter_nil, hwaits, if_true, List.map_cons, List.map_nil]
    rfl
  rw [hgo, hafter, hudir]
  refine ⟨⟨f, hf⟩, congrArg some ?_⟩
  rw [Dir.sentOut_request _ _ hkind hvnet, hpart]
  rfl

/-! ### Windows of the host (R61, R63) -/

theorem look_map_key {α : Type} (l : SMap α) (n : Nat) (f : α → α) :
    SMap.look (l.map fun p => if p.1 = n then (n, f p.2) else p) n = (l.look n).map f := by
  induction l with
  | nil => rfl
  | cons p l ih =>
    obtain ⟨q, x⟩ := p
    by_cases h : q = n
    · simp [SMap.look, h]
    · simpa [SMap.look, h] using ih
theorem windowAt_updWindow_same (s : State) (n : Nat) (f : Window → Window) : windowAt (updWindow s n f) n = (windowAt s n).map f :=
  look_map_key s.eth.windows n f

/-! ### The steps of a NACK, a notice and a timeout (R102, R103, R63) -/

section
variable {s : State} {id : Nat} {m : Msg} (hni : s.atNi id m)
include hni

/-- A refused message joins the sender's return ring, and its destination is held (R102). -/
theorem execNack_rings {d : Dir} (hkind : m.kind = 3) (hproxy : isProxy m.dstCore = false) (hdir : s.dir m.dstCore m.job = some d) (hst : d.st ≠ .absent)
    (hroom : d.ret.length < d.spillQ) (hover : d.overflow = []) :
    let g := Msg.again m (if m.srcPart = s.part then none else d.sentTo.look (sentNo m))
    ∃ t, execNack id s = .next t ∧ t.mesh.flights = s.without id ∧ t.mem = s.mem ∧ t.dir m.dstCore m.job = some { d with
      ret := d.ret ++ [g], holds := (d.holds.filter fun h => !(h.part == m.srcPart && h.core == m.srcCore && h.word == g.dstCore)) ++
        [{ part := m.srcPart, core := m.srcCore, word := g.dstCore, since := s.clk.cycle }] } := by
  intro g
  have hg : Msg.again m (if (m.srcPart != (dropFlight s id).part) = true then d.sentTo.look (sentNo m) else none) = g := by
    change Msg.again m (if (m.srcPart != s.part) = true then _ else none) = g
    by_cases h : m.srcPart = s.part <;> simp [g, h]
  let f : Dir → Dir := fun d => { d with ret := d.ret ++ [g], holds := holdFor d.holds m.srcPart m.srcCore g.dstCore s.clk.cycle }
  refine ⟨(dropFlight s id).updDir m.dstCore m.job f, ?_, rfl, rfl, ?_⟩
  · unfold execNack
    rw [takeArrival_atNi hni (by simp [hkind])]
    have hdir' : (dropFlight s id).dir m.dstCore m.job = some d := hdir
    simp only [hproxy, hdir', hst, hroom, hover, hg, and_self, Bool.false_eq_true, if_true, if_false]
    rfl
  · exact State.dir_updDir_some (s := dropFlight s id) hdir (f := f) fun _ => ⟨rfl, rfl⟩

/-- A host proxy's window stops with the message that it keeps (R63). -/
theorem execNack_stops {w : Window} (hkind : m.kind = 3) (hproxy : isProxy m.dstCore = true) (hwin : windowAt s m.seq.toNat = some w) :
    ∃ t g, execNack id s = .next t ∧ t.mem = s.mem ∧ (m.srcPart = s.part → g = Msg.again m none) ∧ g.payload = m.payload
      ∧ g.dstPart = m.srcPart ∧ g.kind = 0 ∧ windowAt t m.seq.toNat = some { w with
        nacked := (w.nacked.map fun p => if p.1.dstPart = m.srcPart ∧ p.2.1 = m.srcCore then (p.1, m.srcCore, s.clk.cycle) else p)
          ++ [(g, m.srcCore, s.clk.cycle)], stopped := true } := by
  let sent := w.abroad.find? fun p => p.2.dstPart == m.srcPart && p.2.sel == m.sel && p.2.tag == m.tag && p.2.arg == m.arg
    && p.2.job == m.job && p.2.payload == m.payload
  let g := Msg.again m (if m.srcPart != s.part then sent.map (·.2.dstCore) else none)
  have hown (h : m.srcPart = s.part) : g = Msg.again m none := by
    simp only [g, h, bne_self_eq_false, Bool.false_eq_true, if_false]
  let f : Window → Window := fun w => { w with
    nacked := (w.nacked.map fun p => if p.1.dstPart = g.dstPart ∧ p.2.1 = m.srcCore then (p.1, m.srcCore, s.clk.cycle) else p)
      ++ [(g, m.srcCore, s.clk.cycle)], stopped := true }
  refine ⟨updWindow (dropFlight s id) m.seq.toNat f, g, ?_, rfl, hown, rfl, rfl, rfl, ?_⟩
  · unfold execNack
    rw [takeArrival_atNi hni (by simp [hkind])]
    have hwin' : windowAt (dropFlight s id) m.seq.toNat = some w := hwin
    simp only [hproxy, hwin', if_true]
    rfl
  · rw [windowAt_updWindow_same]
    exact congrArg (Option.map f) hwin

end

end Sys2Proof.Machine
end

section
/-! Notices, retained records, returned messages and arrival rings (04 R92, R95, R102, R103, 10 R242, R272 to R274, R393; O50). -/

namespace Sys2Proof.Machine

/-! ### Holds that end (R102, R103) -/

theorem execSpaceNotice_resends {s : State} {id : Nat} {m : Msg} {d : Dir} (hni : s.atNi id m) (hkind : m.kind = 4) (hproxy : isProxy m.dstCore = false)
    (hdir : s.dir m.dstCore m.job = some d) :
    execSpaceNotice id s = .next (resend (dropFlight s id) m.dstCore m.job m.srcPart m.srcCore) := by
  have hsome : ((dropFlight s id).dir m.dstCore m.job).isSome = true := Option.isSome_iff_exists.mpr ⟨d, hdir⟩
  unfold execSpaceNotice
  rw [takeArrival_atNi hni (by simp [hkind])]
  simp only [hproxy, hsome, Bool.false_eq_true, if_true, if_false]
theorem execNackHoldTimeout_resends {s : State} {c : CoreId} {j : JobId} {d : Dir} {part : PartId} {dst : CoreId} (hproxy : isProxy c = false)
    (hdir : s.dir c j = some d) (hholds : ∀ h ∈ d.holds, h.part = part ∧ h.core = dst) (hdue : ∃ h ∈ d.holds, h.since + 65536 ≤ s.clk.cycle) :
    execNackHoldTimeout c j part dst s = .next (resend s c j part dst) := by
  have hany : (d.holds.any fun h => h.part == part && h.core == dst && decide (h.since + 65536 ≤ s.clk.cycle)) = true := by
    obtain ⟨h, hmem, hsince⟩ := hdue
    obtain ⟨hp, hc⟩ := hholds h hmem
    exact List.any_eq_true.mpr ⟨h, hmem, by simp [hp, hc, hsince]⟩
  simp only [execNackHoldTimeout, hproxy, hdir, hany, Bool.false_eq_true, if_true, if_false]

/-! ### Retained records (R272 to R274) -/

section
variable {s : State} {c : CoreId} {j : JobId} {d : Dir} {r : Retained} {m : Msg} (hdir : s.dir c j = some d)
  (hfind : (d.retained.find? fun r => r.msg.seq == m.seq) = some r)
include hdir hfind

/-- An acknowledgement with aux 0 frees the record (R272). -/
theorem execRetainAcknowledgement_frees {id : Nat} (hni : s.atNi id m) (hkind : m.kind = 9) (htag : m.etag = false) (hcore : m.dstCore = c)
    (hjob : m.job = j) (haux : m.aux = 0) : ∃ t, execRetainAcknowledgement id s = .next t ∧ t.mesh.flights = s.without id ∧ t.mem = s.mem
      ∧ t.dir c j = some { d with retained := d.retained.filter fun x => x.msg.seq != m.seq } := by
  subst hcore hjob
  refine ⟨(dropFlight s id).updDir m.dstCore m.job fun d => { d with retained := d.retained.filter fun x => x.msg.seq != m.seq }, ?_, rfl, rfl, ?_⟩
  · unfold execRetainAcknowledgement
    rw [takeArrival_atNi hni (by simp [hkind])]
    have hdir' : (dropFlight s id).dir m.dstCore m.job = some d := hdir
    simp only [htag, hdir', hfind, haux, Option.bind_some, Bool.false_eq_true, if_true, if_false]
  · exact State.dir_updDir_some (s := dropFlight s id) hdir fun _ => ⟨rfl, rfl⟩

/-- One with aux 1 sends the record again, where it can be read (R273). -/
theorem execRetainAcknowledgement_resends {id : Nat} (hni : s.atNi id m) (hkind : m.kind = 9) (htag : m.etag = false) (hcore : m.dstCore = c)
    (hjob : m.job = j) (haux : m.aux = 1) (htries : r.tries < 3) (hout : (s.core c).out = []) (hrjob : r.msg.job = j) (hretained : r.msg.retained = true)
    (hrkind : r.msg.kind = 0) (hrvnet : r.msg.vnet = 0) (hfrozen : frozenAt s c j = false) (hfar : r.msg.dstPart ≠ s.part)
    (hheld : heldFor s c r.msg = false) (hgood : badAt s ((List.range 320).map (d.retainKey + 320 * r.place + ·)) = false) :
    ∃ t, execRetainAcknowledgement id s = .next t ∧ Sent s t (s.without id) c r.msg ∧ t.mem = s.mem ∧ t.dir c j = some { d with
      sentTo := d.sentTo.put (sentNo r.msg) r.msg.dstCore
      retained := d.retained.map fun x => if x.msg.seq = m.seq then { x with tries := x.tries + 1, sent := true, age := 0 } else x } := by
  subst hcore hjob
  let again : Dir → Dir := fun d => { d with
    retained := d.retained.map fun x => if x.msg.seq = m.seq then { x with tries := x.tries + 1, sent := false, age := 0 } else x }
  let u := (dropFlight s id).updDir m.dstCore m.job again
  have hdir' : (dropFlight s id).dir m.dstCore m.job = some d := hdir
  have hudir : u.dir m.dstCore m.job = some (again d) := State.dir_updDir_some hdir' fun _ => ⟨rfl, rfl⟩
  have hgood' : badAt (dropFlight s id) ((List.range 320).map (d.retainKey + 320 * r.place + ·)) = false := hgood
  have hexec : execRetainAcknowledgement id s
      = .next (flushOut (u.updCore m.dstCore fun k => { k with out := k.out ++ [againOut r.msg true] }) m.dstCore) := by
    unfold execRetainAcknowledgement
    rw [takeArrival_atNi hni (by simp [hkind])]
    have hone : m.aux ≠ 0 := by rw [haux]; decide
    simp only [htag, hdir', hfind, hone, hgood', Nat.not_le.mpr htries, Option.bind_some, Option.map_some, Option.getD_some, Bool.false_eq_true, or_self,
      if_false]
    rfl
  have hgo : goesTo u r.msg true = .to r.msg := by
    have h : r.msg.dstPart ≠ u.part := hfar
    simp [goesTo, h]
  have hufree : heldFor u m.dstCore r.msg = false := by
    have h := heldFor_updDir (dropFlight s id) m.dstCore r.msg (f := again) (fun _ => ⟨rfl, rfl⟩) fun _ => rfl
    rw [hrjob] at h
    exact h.trans hheld
  have hseq : r.msg.seq = m.seq := by simpa using List.find?_some hfind
  obtain ⟨hsent, hafter⟩ := flushOut_again (s := u) (route := true) hout (hrjob ▸ hfrozen) hgo hufree
  have hmem : (flushOut (u.updCore m.dstCore fun k => { k with out := k.out ++ [againOut r.msg true] }) m.dstCore).mem = s.mem := by
    obtain ⟨f, -, -, -, -, -, -, hmem⟩ := hsent
    exact hmem
  refine ⟨_, hexec, hsent, hmem, ?_⟩
  have hpart : r.msg.dstPart ≠ u.part := hfar
  rw [hrjob, hudir] at hafter
  rw [hafter, Option.map_some, Dir.sentOut_request _ _ hrkind hrvnet, if_pos hretained, if_neg hpart, hseq]
  simp only [again, List.map_map]
  congr 2
  refine List.map_congr_left fun x _ => ?_
  by_cases h : x.msg.seq = m.seq <;> simp [h]

/-- A record that no acknowledgement frees in 2^22 cycles is given up with a fault event (R274). -/
theorem execRetainTimeout_faults {i : BitVec 2} {k : Ctx} (hserves : s.serves c j i k d) (hroom : (s.core c).queue.length < 16) (hrjob : r.msg.job = j)
    (hage : 2 ^ 22 ≤ r.age) (hfree : niFree s c = true) :
    ∃ t, execRetainTimeout c j m.seq s = .next t ∧ FaultQueued s t c (s.core c).queue k 0x41 m
      ∧ (t.dir c j).map (·.retained) = some (d.retained.filter fun x => x.msg.seq != m.seq) := by
  let drop : Dir → Dir := fun d => { d with retained := d.retained.filter fun x => x.msg.seq != m.seq }
  let u : State := { s.updDir c j drop with freeCnt := s.freeCnt + 1 }
  have hudir : u.dir c j = some (drop d) := State.dir_updDir_some hdir fun _ => ⟨rfl, rfl⟩
  have huserves : u.serves c j i k (drop d) := by
    obtain ⟨horphan, -, hrest⟩ := hserves
    exact ⟨horphan, hudir, hrest⟩
  have hexec : execRetainTimeout c j m.seq s = .next (arriveA u c (niFault u c r.msg .ue 0x08 (freeAddr s).1)) := by
    simp only [execRetainTimeout, hdir, Option.bind_some, hfind, hage, hfree, and_self, if_true]
    rfl
  obtain ⟨hfault, hfw, -⟩ := arriveA_niFault (s := s) (g := m) huserves hroom hrjob .ue 0x08 (freeAddr s).1 (k' := k) rfl rfl rfl
    fun h => absurd h (by decide)
  refine ⟨_, hexec, hfault, ?_⟩
  have hafter : (arriveA u c (niFault u c r.msg .ue 0x08 (freeAddr s).1)).dir c j = u.dir c j := by
    unfold State.dir
    rw [hfw]
  rw [hafter, hudir]
  rfl

end

/-! ### Messages that come back (R242, R393) -/

/-- A reply credit of a context (R393). -/
def Ctx.credited (k : Ctx) : Ctx := { k with credits := Nat.min Config.replyCredits (k.credits + 1) }
theorem Ctx.keeps_credited : Ctx.Keeps Ctx.credited := fun _ => ⟨rfl, rfl⟩
theorem giveCredit_lead {s : State} {c : CoreId} {j : JobId} {i : BitVec 2} (h : (s.core c).leadOf j = some i) :
    giveCredit s c j = s.updCtx c i Ctx.credited := by
  simp only [giveCredit, h]
  rfl
theorem State.serves.credited {s : State} {c : CoreId} {j : JobId} {i : BitVec 2} {k : Ctx} {d : Dir} (h : s.serves c j i k d) :
    (s.updCtx c i Ctx.credited).serves c j i k.credited d := by
  obtain ⟨horphan, hdir, hlead, hctx, hrest⟩ := h
  exact ⟨horphan, hdir, (leadOf_updCtx s c i j Ctx.keeps_credited).trans hlead, (State.ctxAt_updCtx_same ..).trans (congrArg _ hctx), hrest⟩
theorem queue_updCtx (s : State) (c : CoreId) (i : BitVec 2) (f : Ctx → Ctx) : ((s.updCtx c i f).core c).queue = (s.core c).queue := by
  rw [State.updCtx, State.core_updCore_same]
  rfl

/-- A returned message gives its credit back and becomes a fault event (R242, R393). -/
theorem execUndeliverable_faults {s : State} {id : Nat} {m : Msg} {d : Dir} {i : BitVec 2} {k : Ctx} (hserves : s.serves m.dstCore m.job i k d)
    (hni : s.atNi id m) (hkind : m.kind = 10) (hproxy : isProxy m.dstCore = false) (hretained : m.retained = false)
    (hplain : ¬ (m.srcCore = 0 ∧ (m.sel = 1 ∨ m.sel = 2 ∨ m.sel = 3))) (hroom : (s.core m.dstCore).queue.length < 16) :
    ∃ t, execUndeliverable id s = .next t ∧ FaultQueued s t m.dstCore (s.core m.dstCore).queue k 0x44 m
      ∧ (t.ctxAt m.dstCore i).map (·.credits) = some (if m.tag ≠ 0 ∧ m.sel ≠ 0xFFF then Nat.min 256 (k.credits + 1) else k.credits) := by
  let u := if m.tag ≠ 0 ∧ m.sel ≠ 0xFFF then giveCredit (dropFlight s id) m.dstCore m.job else dropFlight s id
  let k' := if m.tag ≠ 0 ∧ m.sel ≠ 0xFFF then k.credited else k
  have hdrop : (dropFlight s id).serves m.dstCore m.job i k d := hserves
  have ⟨_, hdir, hlead, _⟩ := hdrop
  have hu : u.serves m.dstCore m.job i k' d ∧ (u.core m.dstCore).queue = (s.core m.dstCore).queue ∧ u.now = s.now ∧ u.mem = s.mem
      ∧ k'.faultSel = k.faultSel ∧ k'.credits = if m.tag ≠ 0 ∧ m.sel ≠ 0xFFF then Nat.min 256 (k.credits + 1) else k.credits := by
    by_cases h : m.tag ≠ 0 ∧ m.sel ≠ 0xFFF
    · simp only [u, k', if_pos h, giveCredit_lead hlead]
      exact ⟨hdrop.credited, queue_updCtx .., rfl, rfl, rfl, rfl⟩
    · simp only [u, k', if_neg h]
      exact ⟨hdrop, rfl, rfl, rfl, trivial, trivial⟩
  obtain ⟨huserves, hqueue, hnow, hmem, hsel, hcredits⟩ := hu
  have hexec : execUndeliverable id s = .next (arriveA u m.dstCore (niFault u m.dstCore m .undeliverable 0 m.arg)) := by
    have hsome : ((dropFlight s id).dir m.dstCore m.job).isNone = false := Option.isNone_eq_false_iff.mpr (Option.isSome_iff_exists.mpr ⟨d, hdir⟩)
    unfold execUndeliverable
    rw [takeArrival_atNi hni (by simp [hkind])]
    simp only [hproxy, hsome, hplain, hretained, Bool.false_eq_true, and_false, if_false]
    rfl
  obtain ⟨hfault, -, hctx⟩ := arriveA_niFault (s := s) (g := m) huserves (hqueue ▸ hroom) rfl .undeliverable 0 m.arg hsel hnow hmem fun _ => rfl
  rw [hqueue] at hfault
  refine ⟨_, hexec, hfault, ?_⟩
  obtain ⟨-, -, -, huctx, -⟩ := huserves
  rw [hctx, huctx, ← hcredits]
  rfl

/-! ### Replies of built-in operations (R42) -/

/-- A reply reaches the row that waits. -/
theorem putReply_spec (s : State) (r : RemReq) (status : Nat) (tag : Bool) (data : List Byte) :
    (putReply s r status tag data).mem = s.mem ∧ (putReply s r status tag data).mesh = s.mesh
      ∧ (putReply s r status tag data).rems = s.rems.map fun q => if q.id = r.id then { q with reply := some (status, tag, data) } else q := by
  unfold putReply
  cases r.owner with
  | slot c i u =>
    dsimp only
    split <;> exact ⟨rfl, rfl, rfl⟩
  | stream k u => exact ⟨rfl, rfl, rfl⟩
  | copy k u => exact ⟨rfl, rfl, rfl⟩
  | _ => exact ⟨rfl, rfl, rfl⟩
theorem execBuiltinReply_puts {s : State} {id : Nat} {m : Msg} {r : RemReq} (hni : s.atNi id m) (hkind : m.kind = 11) (hvnet : m.vnet = 1)
    (hreq : requestOf s m.dstCore m = some r) : ∃ t, execBuiltinReply id s = .next t ∧ t.mem = s.mem ∧ t.mesh.flights = s.without id
      ∧ t.rems = s.rems.map fun q => if q.id = r.id then { q with reply := some (m.aux.toNat, m.etag, m.payload) } else q := by
  obtain ⟨hmem, hmesh, hrems⟩ := putReply_spec (dropFlight s id) r m.aux.toNat m.etag m.payload
  refine ⟨_, ?_, hmem, congrArg Mesh.flights hmesh, hrems⟩
  have hreq' : requestOf (dropFlight s id) m.dstCore m = some r := hreq
  unfold execBuiltinReply
  rw [takeArrival_atNi hni (by simp [hkind, hvnet])]
  simp only [hreq']

/-! ### Arrival rings that drain (R92, R103) -/

/-- Messages put on the mesh one after another: nothing else changes. -/
theorem foldl_putFlight {α : Type} (c : CoreId) (note : α → Msg) (l : List α) (s : State) :
    let t := l.foldl (fun (s : State) p => putFlight s c (note p) false) s
    { t with mesh := s.mesh, nextId := s.nextId } = s
      ∧ ∃ fs, t.mesh.flights = s.mesh.flights ++ fs ∧ fs.map (·.msg) = l.map note := by
  induction l generalizing s with
  | nil => exact ⟨rfl, [], by simp, rfl⟩
  | cons p l ih =>
    obtain ⟨hrest, fs, hfs, hmsgs⟩ := ih (putFlight s c (note p) false)
    refine ⟨(congrArg (fun v : State => { v with mesh := s.mesh, nextId := s.nextId }) hrest :),
      { id := s.nextId, msg := note p, x := meshX c, y := meshY c, ring := none, vn := (note p).vnet, host := false } :: fs, ?_, ?_⟩
    · rw [List.foldl_cons, hfs]
      simp [putFlight]
    · rw [List.map_cons, List.map_cons, hmsgs]

/-- No notices while the context refuses nothing or its ring is not below half its quota (R103). -/
theorem spaceNotices_idle {s : State} {c : CoreId} {j : JobId} {d : Dir} (hdir : s.dir c j = some d) {limit : Nat}
    (h : d.refusing = false ∨ limit ≤ d.outside) : spaceNotices s c j limit = s := by
  simp only [spaceNotices, hdir]
  refine if_pos ?_
  obtain h | h := h <;> simp [h]
/-- Each source of a refused message is invited, and the context refuses no more (R103). -/
theorem spaceNotices_invites {s : State} {c : CoreId} {j : JobId} {d : Dir} (hdir : s.dir c j = some d) {limit : Nat} (hrefusing : d.refusing = true)
    (hroom : d.outside < limit) :
    let t := spaceNotices s c j limit
    t.mem = s.mem ∧ t.cores = s.cores ∧ t.dir c j = some { d with refusing := false, byBuffer := false, refused := [] }
      ∧ ∃ fs, t.mesh.flights = s.mesh.flights ++ fs
        ∧ fs.map (fun f => (f.msg.kind, f.msg.dstPart, f.msg.dstCore)) = d.refused.map fun p => ((4 : BitVec 4), p.1, p.2) := by
  intro t
  let note (p : PartId × CoreId) : Msg := Msg.formed {
    dstPart := p.1, dstCore := p.2, srcCore := c, srcPart := s.part, vnet := 1, kind := 4, prio := 0, rcheck := 0, etag := false, job := j,
    sel := 0, tag := 0, pfmt := 0, seq := 0, residue := 0, aux := 0, arg := 0, zeros := 0, retained := false, fixed := true, args := [],
    payload := [] }
  let u := s.updDir c j fun d => { d with refusing := false, byBuffer := false, refused := [] }
  have ht : t = d.refused.foldl (fun (s : State) p => putFlight s c (note p) false) u := by
    have hguard : (!d.refusing || decide (limit ≤ d.outside)) = false := by simp [hrefusing, hroom]
    simp only [t, spaceNotices, hdir, hguard, Bool.false_eq_true, if_false]
    rfl
  obtain ⟨hrest, fs, hfs, hmsgs⟩ := foldl_putFlight c note d.refused u
  rw [← ht] at hrest hfs
  have hudir : u.dir c j = some { d with refusing := false, byBuffer := false, refused := [] } := State.dir_updDir_some hdir fun _ => ⟨rfl, rfl⟩
  refine ⟨(congrArg State.mem hrest :), (congrArg State.cores hrest :), (congrArg (State.dir · c j) hrest :).trans hudir, fs, hfs, ?_⟩
  have h := congrArg (List.map fun m : Msg => (m.kind, m.dstPart, m.dstCore)) hmsgs
  rw [List.map_map, List.map_map] at h
  exact h

section
variable {s : State} {c : CoreId} {j : JobId} {d : Dir} {i : BitVec 2} {k : Ctx} (hdir : s.dir c j = some d) (hctx : s.ctxAt c i = some k)
  (hjob : k.job = j) (hst : k.st = .active) (hfrozen : k.frozen = false) (htrailing : k.trailing = false) (hdivert : d.diverting = true)
include hdir hctx hjob hst hfrozen htrailing hdivert

/-- An empty ring gives way to the folded adds and flags, and the sources of refused messages are invited (R92, R103). -/
theorem execArrivalRingDrain_folds (hring : d.ring = []) : ∃ t, execArrivalRingDrain c i s = .next t ∧ t.mem = s.mem
    ∧ t.ctxAt c i = some { k with cval := Vector.ofFn fun (n : Fin 16) => k.cval[n] + d.pendAdd[n], flags := k.flags ||| d.pendFlags }
    ∧ (t.dir c j).map (fun d => (d.ring, d.pendAdd, d.pendFlags)) = some ([], Vector.replicate 16 0, 0)
    ∧ (d.refusing = true → 0 < d.spillQ → (t.mesh.flights.drop s.mesh.flights.length).map (fun f => (f.msg.kind, f.msg.dstPart, f.msg.dstCore))
        = d.refused.map fun p => (4, p.1, p.2)) := by
  subst hjob
  let add : Ctx → Ctx := fun k => { k with cval := Vector.ofFn fun (n : Fin 16) => k.cval[n] + d.pendAdd[n], flags := k.flags ||| d.pendFlags }
  let folded : Dir → Dir := fun d => { d with pendAdd := Vector.replicate 16 0, pendFlags := 0 }
  let u := (s.updCtx c i add).updDir c k.job folded
  have hexec : execArrivalRingDrain c i s = .next (spaceNotices u c k.job ((d.spillQ + 1) / 2)) := by
    simp only [execArrivalRingDrain, hctx, hdir, hst, hfrozen, htrailing, hdivert, hring, ne_eq, not_true, decide_false, Bool.not_true, Bool.or_self,
      Bool.false_eq_true, if_false]
    rfl
  have hudir : u.dir c k.job = some (folded d) := State.dir_updDir_some (s := s.updCtx c i add) hdir fun _ => ⟨rfl, rfl⟩
  have huctx : u.ctxAt c i = some (add k) := (State.ctxAt_updCtx_same s c i add).trans (congrArg (Option.map add) hctx)
  have houtside : (folded d).outside = 0 := by simp [Dir.outside, folded, hring]
  refine ⟨_, hexec, ?_⟩
  by_cases h : d.refusing = true ∧ 0 < d.spillQ
  · obtain ⟨hmem, hcores, htdir, fs, hfs, hnotes⟩ := spaceNotices_invites hudir h.1 (limit := (d.spillQ + 1) / 2) (by omega)
    have htctx : (spaceNotices u c k.job ((d.spillQ + 1) / 2)).ctxAt c i = u.ctxAt c i := by
      unfold State.ctxAt State.core
      rw [hcores]
    refine ⟨hmem, htctx.trans huctx, ?_, fun _ _ => ?_⟩
    · rw [htdir]
      simp only [Option.map_some, folded, hring]
    · have hflights : u.mesh.flights = s.mesh.flights := rfl
      rw [hfs, hflights, List.drop_left]
      exact hnotes
  · have hidle : (folded d).refusing = false ∨ (d.spillQ + 1) / 2 ≤ (folded d).outside := by
      by_cases hrefusing : d.refusing = true
      · exact .inr (by have : ¬ 0 < d.spillQ := fun hq => h ⟨hrefusing, hq⟩; omega)
      · exact .inl (by simpa using hrefusing)
    rw [spaceNotices_idle hudir hidle]
    refine ⟨rfl, huctx, ?_, fun hrefusing hquota => absurd ⟨hrefusing, hquota⟩ h⟩
    rw [hudir]
    simp only [Option.map_some, folded, hring]

/-- The ring without its oldest record (R91). -/
def Dir.popped (l : List SpillRec) (size : Nat) (d : Dir) : Dir := { d with ring := l, aHead := (d.aHead + 1) % size }

/-- A counter add is applied (R92). -/
theorem execArrivalRingDrain_applies {r : SpillRec} {l : List SpillRec} (hring : d.ring = r :: l) (hrefusing : d.refusing = false)
    (hkind : r.msg.kind = 1) : execArrivalRingDrain c i s = .next ((s.updCtx c i fun k =>
      k.setCval (r.msg.aux.setWidth 4) (k.cvalAt (r.msg.aux.setWidth 4) + r.msg.arg.setWidth 32)).updDir c j fun e =>
        { e with ring := l, aHead := (e.aHead + 1) % (d.spillQ + 288) }) := by
  subst hjob
  have hsignal : (fun k => applySignal k r.msg) = fun k : Ctx =>
      k.setCval (r.msg.aux.setWidth 4) (k.cvalAt (r.msg.aux.setWidth 4) + r.msg.arg.setWidth 32) := by
    funext k
    simp only [applySignal, hkind, if_true]
  have hudir : ((s.updCtx c i fun k => applySignal k r.msg).updDir c k.job (Dir.popped l (d.spillQ + 288))).dir c k.job
      = some (d.popped l (d.spillQ + 288)) := State.dir_updDir_some (s := s.updCtx c i fun k => applySignal k r.msg) hdir fun _ => ⟨rfl, rfl⟩
  rw [hsignal] at hudir
  simp only [execArrivalRingDrain, hctx, hdir, hst, hfrozen, htrailing, hdivert, hring, hkind, hsignal, ne_eq, not_true, decide_false, Bool.not_true,
    Bool.or_self, Bool.false_eq_true, true_or, if_true, if_false]
  exact congrArg _ (spaceNotices_idle hudir (.inl hrefusing))

/-- A message enters the queue with the wait that it has kept (R92). -/
theorem execArrivalRingDrain_queues {r : SpillRec} {l : List SpillRec} (hring : d.ring = r :: l) (hrefusing : d.refusing = false)
    (hkind : r.msg.kind = 0) (hroom : (s.core c).queue.length < 16) (htransit : ((s.core c).queue.filter fun e => e.ctx == i && e.drained).length < 4)
    (hfree : niFree s c = true) : ∃ t, execArrivalRingDrain c i s = .next t
      ∧ (t.mem = s.mem ∧ t.dir c j = some { d with ring := l, aHead := (d.aHead + 1) % (d.spillQ + 288) })
      ∧ (t.core c).queue = (s.core c).queue ++ [s.entry c i r.msg r.stamp (if r.msg.vnet = 0 then r.w else 0) true] := by
  subst hjob
  let u := enqueue s c i r.msg r.stamp (if r.msg.vnet = 0 then r.w else 0) true
  have hudir : (u.updDir c k.job (Dir.popped l (d.spillQ + 288))).dir c k.job = some (d.popped l (d.spillQ + 288)) :=
    State.dir_updDir_some (s := u) hdir fun _ => ⟨rfl, rfl⟩
  have hroom' : (s.core c).queue.length < Config.queueEntries := hroom
  have hsignal : ¬ (r.msg.kind = 1 ∨ r.msg.kind = 2) := by rw [hkind]; decide
  refine ⟨u.updDir c k.job (Dir.popped l (d.spillQ + 288)), ?_, ⟨rfl, hudir⟩, queue_enqueue ..⟩
  simp only [execArrivalRingDrain, hctx, hdir, hst, hfrozen, htrailing, hdivert, hring, hsignal, hroom', htransit, hfree, ne_eq, not_true, decide_false,
    Bool.not_true, Bool.or_self, Bool.false_eq_true, and_self, if_true, if_false]
  exact congrArg _ (spaceNotices_idle hudir (.inl hrefusing))

end

/-! ### Messages that no trigger claims (R95) -/

theorem execUnclaimedTagTimeout_faults {s : State} {c : CoreId} {j : JobId} {d : Dir} {i : BitVec 2} {k : Ctx} {n : Nat} {e : QEntry}
    (hserves : s.serves c j i k d) (he : (s.core c).queue[n]? = some e) (hfull : (s.core c).queue.length ≤ 16) (hctx : e.ctx = i) (hjob : e.msg.job = j)
    (hsel : e.msg.sel = 0xFFF) (hwait : 2 ^ 20 ≤ e.w) (hfree : niFree s c = true)
    (hunclaimed : ∀ w ∈ k.trig.toList, trigOn w = true → trigKind w = 2 → trigIndex w ≠ e.msg.tag) :
    ∃ t, execUnclaimedTagTimeout c n s = .next t ∧ FaultQueued s t c ((s.core c).queue.eraseIdx n) k 0x44 e.msg := by
  subst hctx
  let erase : Core → Core := fun q => { q with queue := q.queue.eraseIdx n }
  let u := s.updCore c erase
  have hqueue : (u.core c).queue = (s.core c).queue.eraseIdx n := congrArg Core.queue (State.core_updCore_same s c _)
  have hroom : (u.core c).queue.length < 16 := by
    have hlt : n < (s.core c).queue.length := (List.getElem?_eq_some_iff.mp he).1
    rw [hqueue, List.length_eraseIdx_of_lt hlt]
    omega
  obtain ⟨horphan, hdir, hlead, hk, hkjob, hst, hfrozen, hdivert⟩ := id hserves
  have huserves : u.serves c j e.ctx k d := by
    refine ⟨horphan, hdir, ?_, (ctxAt_updCore s c e.ctx (f := erase) fun _ => rfl).trans hk, hkjob, hst, hfrozen, hdivert⟩
    rw [State.core_updCore_same]
    exact hlead
  have hnone : (k.trig.toList.any fun w => trigOn w && trigKind w == 2 && trigIndex w == e.msg.tag) = false := by
    simp only [List.any_eq_false, Bool.and_eq_true, beq_iff_eq, not_and]
    exact fun w hw ⟨hon, hkind⟩ => hunclaimed w hw hon hkind
  have hfault := (arriveA_niFault (s := s) (g := e.msg) huserves hroom hjob .undeliverable 0 e.msg.arg (k' := k) rfl rfl rfl fun _ => rfl).1
  rw [hqueue] at hfault
  have hevent : niFault s c e.msg .undeliverable 0 e.msg.arg = niFault u c e.msg .undeliverable 0 e.msg.arg := by
    subst hjob
    rw [niFault_serves huserves, niFault_serves hserves]
    rfl
  refine ⟨_, ?_, hfault⟩
  simp only [execUnclaimedTagTimeout, he, hk, hsel, Nat.not_lt.mpr hwait, hnone, hfrozen, hst, hfree, ne_eq, not_true, decide_false, Bool.not_true,
    Bool.or_self, Bool.false_eq_true, if_false]
  exact congrArg (fun g => Host.Outcome.next (arriveA u c g)) hevent

end Sys2Proof.Machine
end

section
/-! Returns and re-sends: the statement from the parts (O50). -/

namespace Sys2Proof.Machine

/-- Settles O50: a refused, kept, returned or drained message is the rule about it, for a context whose directory entry stands. -/
theorem returnsAndResends : Obligations.ReturnsAndResends := by
  unfold Obligations.ReturnsAndResends
  intro s id m c j d hdir kept event
  refine ⟨fun hni hkind hcore hjob => ?_, fun part dst g hret hover hjob hpart hkind hvnet hholds hheld hout hfrozen hproxy => ?_,
    fun r hfind => ⟨fun hni hkind htag hcore hjob => ?_, fun i k hserves hroom hrjob hage hfree => ?_⟩,
    fun i k hserves hni hkind hcore hjob hproxy hretained hplain hroom => ?_, fun r hni hkind hvnet hreq => ?_,
    fun i k hctx hjob hst hfrozen htrailing hdivert => ⟨fun hring => ?_, fun r l hring hrefusing => ?_⟩,
    fun i k n e hserves he hfull hctx hjob hsel hwait hfree hunclaimed => ?_⟩
  · subst hcore hjob
    exact ⟨fun hproxy hst hroom hover => execNack_rings hni hkind hproxy hdir hst hroom hover, fun w hproxy hwin => execNack_stops hni hkind hproxy hwin⟩
  · refine ⟨fun hni hkind' hcore hjob' hsrc hsrcCore => ?_, fun hdue => ?_⟩
    · subst hcore hjob' hsrc hsrcCore
      obtain ⟨hsent, hafter⟩ := resend_sends (s := dropFlight s id) hdir hret hover hjob hpart hkind hvnet hholds hheld hout hfrozen
      refine ⟨_, execSpaceNotice_resends hni hkind' hproxy hdir, hsent, ?_, hafter⟩
      obtain ⟨f, -, -, -, -, -, -, hmem⟩ := hsent
      exact hmem
    · obtain ⟨hsent, hafter⟩ := resend_sends hdir hret hover hjob hpart hkind hvnet hholds hheld hout hfrozen
      refine ⟨_, execNackHoldTimeout_resends hproxy hdir hholds hdue, hsent, ?_, hafter⟩
      obtain ⟨f, -, -, -, -, -, -, hmem⟩ := hsent
      exact hmem
  · exact ⟨execRetainAcknowledgement_frees hdir hfind hni hkind htag hcore hjob, fun haux htries hout hrjob hretained hrkind hrvnet hfrozen hfar hheld hgood =>
      execRetainAcknowledgement_resends hdir hfind hni hkind htag hcore hjob haux htries hout hrjob hretained hrkind hrvnet hfrozen hfar hheld hgood⟩
  · exact execRetainTimeout_faults hdir hfind hserves hroom hrjob hage hfree
  · subst hcore hjob
    exact execUndeliverable_faults hserves hni hkind hproxy hretained hplain hroom
  · exact execBuiltinReply_puts hni hkind hvnet hreq
  · exact execArrivalRingDrain_folds hdir hctx hjob hst hfrozen htrailing hdivert hring
  · exact ⟨execArrivalRingDrain_applies hdir hctx hjob hst hfrozen htrailing hdivert hring hrefusing, fun hkind hroom htransit hfree =>
      execArrivalRingDrain_queues hdir hctx hjob hst hfrozen htrailing hdivert hring hrefusing hkind hroom htransit hfree⟩
  · exact execUnclaimedTagTimeout_faults hserves he hfull hctx hjob hsel hwait hfree hunclaimed

end Sys2Proof.Machine
end
